-- ==== Sys2Proof/Word.lean ====
section
/-! DEFINITION. The word types of the Q9: bytes, the 64-bit scalar word, the 32-bit lane word. -/

namespace Sys2Proof

/-- One byte of any address space (R3). -/
abbrev Byte := BitVec 8

/-- A scalar register, a port of bank A, an address. -/
abbrev Word := BitVec 64

/-- A vector lane (R119). -/
abbrev Lane := BitVec 32

/-- A map from keys to words in one canonical form: keys strictly rising, no entry equal to 0.
A key that is not listed reads 0. Memories are `Sparse 8`, which is a list of `Host.Cell`. -/
abbrev Sparse (w : Nat) := List (Nat × BitVec w)

end Sys2Proof
end

