-- ==== Sys2Proof/Syntax.lean ====
section
/-! DEFINITION. The instructions and steps of the Q9: one constructor of `Instr` per row of the opcode table,
with the structures their operands need: the guard of a Peman slot word (R27), a native move word (R38), a whole
LIW (R36, R37), a Braid flit (R327), a firmware image (R364). -/

namespace Sys2Proof

/-- The guard of a Peman slot word (R27): predicate `p`, negated when `n`. -/
structure Gd where
  p : BitVec 4
  n : Bool
  deriving DecidableEq, Repr

/-- The guard that means always: p0 with N = 0 (R27). -/
def Gd.always : Gd := { p := 0, n := false }

/-- A native move word less its destination port (R38): source port or immediate, guard, negate, path tag, loop flags. -/
structure Mv where
  src : BitVec 10
  imm : Bool
  g   : BitVec 4
  n   : Bool
  tag : BitVec 3
  lf  : BitVec 3
  deriving DecidableEq, Repr

/-- A move of an LIW (R38): a destination port and the rest of the word. The bus follows from the bus masks. -/
structure Move where
  dst : BitVec 10
  mv  : Mv
  deriving DecidableEq, Repr

/-- A native LIW (R36, R37). `maskA` and `maskB` are the bus masks of the headers, `hasB` tells that header B stands
(S = 0); `tests` holds t3 through t0 as header A does; `moves` are in ascending bus order; `targets` are the branch-target
words and `longs` the long immediates. -/
structure Liw where
  maskA   : BitVec 32
  hasB    : Bool
  pop     : BitVec 8
  nt      : BitVec 3
  tests   : BitVec 20
  maskB   : BitVec 32
  moves   : List Move
  targets : List (BitVec 32)
  longs   : List (BitVec 32)
  deriving DecidableEq, Repr

/-- Which command a fabric message belongs to: the sending rank, context and task, the sender's number for it, and the
DEVICE address of its completion word, 0 for none (R330, R333). -/
structure Origin where
  rank : Nat
  ctx  : Nat
  task : Nat
  id   : Nat
  cpl  : Word
  deriving DecidableEq, Repr

/-- What travels on the fabric between ranks (R332 to R346). The packing of a message into flit payloads is not given by
the spec; a message stands whole here (log 22). Ranks name the receiver of each message. -/
inductive Msg where
  /-- BSEND: bytes for a window of the receiver, counted under the tag with source `o.rank` (R338, R335). -/
  | put (o : Origin) (dst win : Nat) (doff : Word) (tag : BitVec 16) (bytes : List Byte)
  /-- BFETCH's request: `n` bytes of a window of `dst`; they land at `la` of unit `unit`, in LOCAL when `toLocal` (R338). -/
  | fetch (o : Origin) (dst win : Nat) (doff : Word) (n : Nat) (tag : BitVec 16) (toLocal : Bool) (la : Word) (unit : Nat)
  /-- The bytes of a BFETCH on their way back from rank `src` (R333). -/
  | fetched (o : Origin) (src : Nat) (tag : BitVec 16) (toLocal : Bool) (la : Word) (unit : Nat) (bytes : List Byte)
  /-- One member's snapshot of a BRED round (R339). -/
  | bred (o : Origin) (group round : Nat) (n op : Nat) (all : Bool) (win : Nat) (doff : Word) (tag : BitVec 16)
      (members : List Nat) (bytes : List Byte)
  /-- A BRED result for one member `dst` of a group whose lowest rank is `m0` (R339). -/
  | deliver (dst m0 ctx group round win : Nat) (doff : Word) (tag : BitVec 16) (bytes : List Byte)
  /-- How member `src`'s delivery ended (R333). -/
  | delivered (m0 src ctx group round : Nat) (tag : BitVec 16) (code : Nat)
  /-- The status of a command on its way to its sender, with BRED's NV and OF (R333). -/
  | status (o : Origin) (code : Nat) (nv ovf : Bool)
  /-- A gradient block for a shard's primary `dst`, widened exactly to FP32 (R342). -/
  | grad (o : Origin) (dst sid step blk : Nat) (g : List Lane)
  /-- The node advanced LAST: resend the blocks (step, index) that it refused (R342). -/
  | stepNotice (dst ctx sid : Nat) (blocks : List (Nat × Nat))
  /-- The primary forwards a block, its reduced gradient and the hyperparameter snapshot to the mirror (R343). -/
  | forward (dst src ctx sid step blk : Nat) (g : List Lane) (hyp : List Byte)
  /-- The mirror confirms a block (R343). -/
  | confirm (dst ctx sid step blk : Nat)
  /-- A subscription for the node `dst`; `mirror` when the primary forwards it (R345). -/
  | subscribe (o : Origin) (dst node sid win : Nat) (doff : Word) (stepOff : Nat) (fmt : Nat) (tag : BitVec 16) (mirror : Bool)
  /-- A returned weight block for a subscriber: converted data and step word (R345). -/
  | weights (dst ctx node win : Nat) (doff : Word) (stepOff : Nat) (tag : BitVec 16) (step blk : Nat) (bytes : List Byte)
  deriving DecidableEq, Repr

/-- A flit as a port receives it (R327): source and destination package, end-to-end sequence number, whether its CRC
holds, and the message it completes, if any. -/
structure Flit where
  src   : Nat
  dst   : Nat
  seq   : BitVec 32
  crcOk : Bool
  msg   : Option Msg
  deriving DecidableEq, Repr

/-- A firmware image as the boot ROM meets it (R364): its bytes, its signature, the hash of its key and its security version. -/
structure FwImage where
  bytes     : List Byte
  signature : List Byte
  keyHash   : BitVec 256
  version   : Nat
  deriving DecidableEq, Repr

/-- The instructions and steps, one constructor per row of the opcode table: those with operands in the table's order, then
the steps without operands, then the steps that come from outside the machine (Lean's compiler builds no constructor with
fields beyond the 244th, and nothing here builds an outside step). -/
inductive Instr where
  /-- R79. The core issues one native LIW at the current τ after its checks, performs its moves and advances τ by one. -/
  | liwIssue (l : Liw)
  /-- R31. The all-zero Peman slot word does nothing. -/
  | nop
  /-- R123. Adds two registers modulo 2^64. -/
  | add (g : Gd) (d : BitVec 5) (a : BitVec 5) (b : BitVec 5)
  /-- R123. Adds a register and a signed immediate modulo 2^64. -/
  | addI (g : Gd) (d : BitVec 5) (a : BitVec 5) (i : BitVec 11)
  /-- R123. Subtracts two registers modulo 2^64. -/
  | sub (g : Gd) (d : BitVec 5) (a : BitVec 5) (b : BitVec 5)
  /-- R123. Writes the low 64 bits of a product. -/
  | mul (g : Gd) (d : BitVec 5) (a : BitVec 5) (b : BitVec 5)
  /-- R123. Writes the high 64 bits of a signed or unsigned product. -/
  | mulh (g : Gd) (d : BitVec 5) (a : BitVec 5) (b : BitVec 5) (u : Bool)
  /-- R124. Signed or unsigned division truncating towards zero without trapping. -/
  | div (g : Gd) (d : BitVec 5) (a : BitVec 5) (b : BitVec 5) (u : Bool)
  /-- R124. Signed or unsigned remainder taking the sign of the dividend. -/
  | rem (g : Gd) (d : BitVec 5) (a : BitVec 5) (b : BitVec 5) (u : Bool)
  /-- R123. Bitwise AND of two registers. -/
  | and (g : Gd) (d : BitVec 5) (a : BitVec 5) (b : BitVec 5)
  /-- R123. Bitwise AND with a sign-extended immediate. -/
  | andI (g : Gd) (d : BitVec 5) (a : BitVec 5) (i : BitVec 11)
  /-- R123. Bitwise OR of two registers. -/
  | or (g : Gd) (d : BitVec 5) (a : BitVec 5) (b : BitVec 5)
  /-- R123. Bitwise OR with a sign-extended immediate. -/
  | orI (g : Gd) (d : BitVec 5) (a : BitVec 5) (i : BitVec 11)
  /-- R123. Bitwise XOR of two registers. -/
  | xor (g : Gd) (d : BitVec 5) (a : BitVec 5) (b : BitVec 5)
  /-- R123. Bitwise XOR with a sign-extended immediate. -/
  | xorI (g : Gd) (d : BitVec 5) (a : BitVec 5) (i : BitVec 11)
  /-- R123. Writes a AND NOT b. -/
  | andn (g : Gd) (d : BitVec 5) (a : BitVec 5) (b : BitVec 5)
  /-- R123. Shifts left by a register amount. -/
  | shl (g : Gd) (d : BitVec 5) (a : BitVec 5) (b : BitVec 5)
  /-- R123. Shifts left by an immediate 0 through 63. -/
  | shlI (g : Gd) (d : BitVec 5) (a : BitVec 5) (i : BitVec 6)
  /-- R123. Logical shift right by a register amount. -/
  | shr (g : Gd) (d : BitVec 5) (a : BitVec 5) (b : BitVec 5)
  /-- R123. Logical shift right by an immediate. -/
  | shrI (g : Gd) (d : BitVec 5) (a : BitVec 5) (i : BitVec 6)
  /-- R123. Arithmetic shift right by a register amount. -/
  | sar (g : Gd) (d : BitVec 5) (a : BitVec 5) (b : BitVec 5)
  /-- R123. Arithmetic shift right by an immediate. -/
  | sarI (g : Gd) (d : BitVec 5) (a : BitVec 5) (i : BitVec 6)
  /-- R123. Rotates left by a register amount. -/
  | rol (g : Gd) (d : BitVec 5) (a : BitVec 5) (b : BitVec 5)
  /-- R123. Rotates left by an immediate. -/
  | rolI (g : Gd) (d : BitVec 5) (a : BitVec 5) (i : BitVec 6)
  /-- R123. Signed or unsigned minimum. -/
  | min (g : Gd) (d : BitVec 5) (a : BitVec 5) (b : BitVec 5) (u : Bool)
  /-- R123. Signed or unsigned maximum. -/
  | max (g : Gd) (d : BitVec 5) (a : BitVec 5) (b : BitVec 5) (u : Bool)
  /-- R123. Counts leading zero bits. -/
  | clz (g : Gd) (d : BitVec 5) (a : BitVec 5)
  /-- R123. Counts one bits. -/
  | popc (g : Gd) (d : BitVec 5) (a : BitVec 5)
  /-- R125. Extracts a bit field, zero- or sign-extended. -/
  | bfx (g : Gd) (d : BitVec 5) (a : BitVec 5) (b : BitVec 5) (x : Bool)
  /-- R125. Inserts a bit field into d. -/
  | bfi (g : Gd) (d : BitVec 5) (a : BitVec 5) (b : BitVec 5)
  /-- R126. Selects a or b by a predicate. -/
  | sel (g : Gd) (d : BitVec 5) (a : BitVec 5) (b : BitVec 5) (p : BitVec 4)
  /-- R123. Copies a register. -/
  | mov (g : Gd) (d : BitVec 5) (a : BitVec 5)
  /-- R123. Loads a sign-extended 16-bit immediate. -/
  | movi (g : Gd) (d : BitVec 5) (i : BitVec 16)
  /-- R126. Shifts d left by 16 and inserts a 16-bit immediate. -/
  | movk (g : Gd) (d : BitVec 5) (i : BitVec 16)
  /-- R127. Compares two registers and writes a predicate. -/
  | cmp (g : Gd) (p : BitVec 4) (a : BitVec 5) (b : BitVec 5) (c : BitVec 4)
  /-- R83. ANDs two optionally inverted predicates. -/
  | pand (g : Gd) (d : BitVec 4) (a : BitVec 4) (b : BitVec 4) (y : Bool) (x : Bool)
  /-- R83. ORs two optionally inverted predicates. -/
  | por (g : Gd) (d : BitVec 4) (a : BitVec 4) (b : BitVec 4) (y : Bool) (x : Bool)
  /-- R83. XORs two optionally inverted predicates. -/
  | pxor (g : Gd) (d : BitVec 4) (a : BitVec 4) (b : BitVec 4) (y : Bool) (x : Bool)
  /-- R83. Copies an optionally inverted predicate. -/
  | pmov (g : Gd) (d : BitVec 4) (a : BitVec 4) (x : Bool)
  /-- R128. FP32 addition under FMT. -/
  | fadd (g : Gd) (d : BitVec 5) (a : BitVec 5) (b : BitVec 5)
  /-- R128. FP32 subtraction under FMT. -/
  | fsub (g : Gd) (d : BitVec 5) (a : BitVec 5) (b : BitVec 5)
  /-- R128. FP32 multiplication under FMT. -/
  | fmul (g : Gd) (d : BitVec 5) (a : BitVec 5) (b : BitVec 5)
  /-- R128. FP32 fused multiply-add into d with one rounding. -/
  | ffma (g : Gd) (d : BitVec 5) (a : BitVec 5) (b : BitVec 5)
  /-- R128. FP32 minimum with -0 below +0. -/
  | fmin (g : Gd) (d : BitVec 5) (a : BitVec 5) (b : BitVec 5)
  /-- R128. FP32 maximum with -0 below +0. -/
  | fmax (g : Gd) (d : BitVec 5) (a : BitVec 5) (b : BitVec 5)
  /-- R129. Converts a scalar between formats under FMT. -/
  | fcvt (g : Gd) (d : BitVec 5) (a : BitVec 5) (t : BitVec 3) (s : BitVec 3)
  /-- R130. Compares two FP32 values and writes a predicate. -/
  | fcmp (g : Gd) (p : BitVec 4) (a : BitVec 5) (b : BitVec 5) (c : BitVec 3)
  /-- R151. Loads one byte from LOCAL, zero-extended. -/
  | ldB (g : Gd) (d : BitVec 5) (b : BitVec 5) (i : BitVec 11)
  /-- R151. Loads two bytes from LOCAL, zero-extended. -/
  | ldH (g : Gd) (d : BitVec 5) (b : BitVec 5) (i : BitVec 11)
  /-- R151. Loads four bytes from LOCAL, zero-extended. -/
  | ldW (g : Gd) (d : BitVec 5) (b : BitVec 5) (i : BitVec 11)
  /-- R151. Loads eight bytes from LOCAL. -/
  | ldD (g : Gd) (d : BitVec 5) (b : BitVec 5) (i : BitVec 11)
  /-- R151. Loads one byte from LOCAL, sign-extended. -/
  | ldSb (g : Gd) (d : BitVec 5) (b : BitVec 5) (i : BitVec 11)
  /-- R151. Loads two bytes from LOCAL, sign-extended. -/
  | ldSh (g : Gd) (d : BitVec 5) (b : BitVec 5) (i : BitVec 11)
  /-- R151. Loads four bytes from LOCAL, sign-extended. -/
  | ldSw (g : Gd) (d : BitVec 5) (b : BitVec 5) (i : BitVec 11)
  /-- R151. Stores the low byte of d to LOCAL. -/
  | stB (g : Gd) (d : BitVec 5) (b : BitVec 5) (i : BitVec 11)
  /-- R151. Stores the low two bytes of d to LOCAL. -/
  | stH (g : Gd) (d : BitVec 5) (b : BitVec 5) (i : BitVec 11)
  /-- R151. Stores the low four bytes of d to LOCAL. -/
  | stW (g : Gd) (d : BitVec 5) (b : BitVec 5) (i : BitVec 11)
  /-- R151. Stores eight bytes of d to LOCAL. -/
  | stD (g : Gd) (d : BitVec 5) (b : BitVec 5) (i : BitVec 11)
  /-- R151. Loads 512 bytes of LOCAL into a vector register. -/
  | vld (g : Gd) (v : BitVec 5) (b : BitVec 5) (i : BitVec 11)
  /-- R151. Stores a vector register to 512 bytes of LOCAL. -/
  | vst (g : Gd) (v : BitVec 5) (b : BitVec 5) (i : BitVec 11)
  /-- R222. Loads eight bytes from DEVICE memory with a reuse hint. -/
  | ldg (g : Gd) (d : BitVec 5) (b : BitVec 5) (r : BitVec 2) (i : BitVec 9)
  /-- R222. Native trigger of a DEVICE load on the mem unit. -/
  | ldgNative (r : BitVec 2) (m : Mv)
  /-- R223. Stores eight bytes to DEVICE memory. -/
  | stg (g : Gd) (d : BitVec 5) (b : BitVec 5) (i : BitVec 9)
  /-- R223. Native trigger of a DEVICE store on the mem unit. -/
  | stgNative (m : Mv)
  /-- R224. Brings a DEVICE line towards the core with a hint and never faults. -/
  | pref (g : Gd) (b : BitVec 5) (r : BitVec 2) (i : BitVec 9)
  /-- R225. Atomic add at the home L2, returning the old value. -/
  | atomAdd (g : Gd) (d : BitVec 5) (a : BitVec 5) (b : BitVec 5)
  /-- R225. Atomic signed minimum at the home L2. -/
  | atomMin (g : Gd) (d : BitVec 5) (a : BitVec 5) (b : BitVec 5)
  /-- R225. Atomic signed maximum at the home L2. -/
  | atomMax (g : Gd) (d : BitVec 5) (a : BitVec 5) (b : BitVec 5)
  /-- R225. Atomic OR at the home L2. -/
  | atomOr (g : Gd) (d : BitVec 5) (a : BitVec 5) (b : BitVec 5)
  /-- R225. Atomic exchange at the home L2. -/
  | atomExch (g : Gd) (d : BitVec 5) (a : BitVec 5) (b : BitVec 5)
  /-- R225. Atomic compare-and-swap at the home L2. -/
  | atomCas (g : Gd) (d : BitVec 5) (a : BitVec 5) (b : BitVec 5)
  /-- R225. Atomic FP32 add at the home L2 under RNE. -/
  | atomFadd (g : Gd) (d : BitVec 5) (a : BitVec 5) (b : BitVec 5)
  /-- R226. Holds issue until earlier accesses of the task are complete at the given scope. -/
  | fence (g : Gd) (s : BitVec 2)
  /-- R226. Native trigger of a fence of the given scope. -/
  | fenceNative (r : BitVec 2) (m : Mv)
  /-- R84. Relative branch by a bundle offset. -/
  | br (g : Gd) (o : BitVec 21)
  /-- R84. Native relative branch by a byte offset. -/
  | brNative (m : Mv)
  /-- R85. Indirect jump to a Peman code address. -/
  | jmp (g : Gd) (a : BitVec 5)
  /-- R85. Native indirect jump to an LIW address. -/
  | jmpNative (m : Mv)
  /-- R103. Relative call that slides the register window by O. -/
  | call (g : Gd) (o : BitVec 5) (f : BitVec 16)
  /-- R103. Native relative call with O in ctl.a. -/
  | callNative (m : Mv)
  /-- R106. Indirect call through a function descriptor with a signature check. -/
  | calli (g : Gd) (o : BitVec 5) (a : BitVec 5) (b : BitVec 5)
  /-- R106. Native indirect call through a descriptor address. -/
  | calliNative (m : Mv)
  /-- R107. Calls a routine by ID, running its body or a substituted unit. -/
  | callr (g : Gd) (o : BitVec 5) (i : BitVec 16)
  /-- R107. Native call of a routine by ID. -/
  | callrNative (m : Mv)
  /-- R109. Returns from the current frame, filling the caller if spilled. -/
  | ret (g : Gd)
  /-- R109. Native return from the current frame. -/
  | retNative (m : Mv)
  /-- R89. Pushes a loop level with the pending configuration. -/
  | loop (g : Gd) (c : BitVec 5) (o : BitVec 16)
  /-- R89. Native loop push with the end offset in ctl.a. -/
  | loopNative (m : Mv)
  /-- R90. Performs the loop back-edge, rotation and stride additions, or pops the level. -/
  | endl
  /-- R90. Native loop end move in the end LIW. -/
  | endlNative (s : BitVec 10) (i : Bool)
  /-- R291. Enters the handler on purpose with a trap code. -/
  | trap (g : Gd) (c : BitVec 16)
  /-- R291. Native trap trigger with a code. -/
  | trapNative (m : Mv)
  /-- R273. Ends the unit once pending commands and loads are done, and counts it completed. -/
  | endt (g : Gd)
  /-- R273. Native end of the unit. -/
  | endtNative (m : Mv)
  /-- R113. Writes FMT[15:0], optionally clearing the sticky flags. -/
  | fmtset (g : Gd) (i : BitVec 16)
  /-- R113. Native FMT write taking effect four τ later. -/
  | fmtsetNative (m : Mv)
  /-- R42. A move to ctl.nop that discards its value. -/
  | nopNative (m : Mv)
  /-- R131. Lane-wise f32 or i32 addition, optionally saturating. -/
  | vadd (g : Gd) (v : BitVec 5) (a : BitVec 5) (b : BitVec 5) (k : BitVec 3) (f : BitVec 3)
  /-- R131. Lane-wise subtraction. -/
  | vsub (g : Gd) (v : BitVec 5) (a : BitVec 5) (b : BitVec 5) (k : BitVec 3) (f : BitVec 3)
  /-- R131. Lane-wise multiplication. -/
  | vmul (g : Gd) (v : BitVec 5) (a : BitVec 5) (b : BitVec 5) (k : BitVec 3) (f : BitVec 3)
  /-- R131. Lane-wise fused multiply-add into vd. -/
  | vfma (g : Gd) (v : BitVec 5) (a : BitVec 5) (b : BitVec 5) (k : BitVec 3)
  /-- R131. Lane-wise minimum. -/
  | vmin (g : Gd) (v : BitVec 5) (a : BitVec 5) (b : BitVec 5) (k : BitVec 3) (f : BitVec 3)
  /-- R131. Lane-wise maximum. -/
  | vmax (g : Gd) (v : BitVec 5) (a : BitVec 5) (b : BitVec 5) (k : BitVec 3) (f : BitVec 3)
  /-- R131. Lane-wise absolute value. -/
  | vabs (g : Gd) (v : BitVec 5) (a : BitVec 5) (k : BitVec 3) (f : BitVec 3)
  /-- R131. Lane-wise negation. -/
  | vneg (g : Gd) (v : BitVec 5) (a : BitVec 5) (k : BitVec 3) (f : BitVec 3)
  /-- R131. Lane-wise bitwise AND. -/
  | vand (g : Gd) (v : BitVec 5) (a : BitVec 5) (b : BitVec 5) (k : BitVec 3)
  /-- R131. Lane-wise bitwise OR. -/
  | vor (g : Gd) (v : BitVec 5) (a : BitVec 5) (b : BitVec 5) (k : BitVec 3)
  /-- R131. Lane-wise bitwise XOR. -/
  | vxor (g : Gd) (v : BitVec 5) (a : BitVec 5) (b : BitVec 5) (k : BitVec 3)
  /-- R131. Lane-wise shift left. -/
  | vshl (g : Gd) (v : BitVec 5) (a : BitVec 5) (b : BitVec 5) (k : BitVec 3)
  /-- R131. Lane-wise logical or arithmetic shift right. -/
  | vshr (g : Gd) (v : BitVec 5) (a : BitVec 5) (b : BitVec 5) (k : BitVec 3) (f : BitVec 3)
  /-- R132. Lane-wise float compare into a mask. -/
  | vcmpF (g : Gd) (m : BitVec 3) (a : BitVec 5) (b : BitVec 5) (k : BitVec 3) (c : BitVec 3)
  /-- R132. Lane-wise integer compare into a mask. -/
  | vcmpI (g : Gd) (m : BitVec 3) (a : BitVec 5) (b : BitVec 5) (k : BitVec 3) (c : BitVec 3)
  /-- R133. Selects va or vb per lane by a mask. -/
  | vsel (g : Gd) (v : BitVec 5) (a : BitVec 5) (b : BitVec 5) (k : BitVec 3)
  /-- R134. Lane-wise format conversion, including D2P8 block encoding. -/
  | vcvt (g : Gd) (v : BitVec 5) (a : BitVec 5) (s : BitVec 3) (k : BitVec 3) (t : BitVec 3)
  /-- R135. Lane-wise correctly rounded 2^x. -/
  | vexp2 (g : Gd) (v : BitVec 5) (a : BitVec 5) (k : BitVec 3)
  /-- R135. Lane-wise correctly rounded log2. -/
  | vlog2 (g : Gd) (v : BitVec 5) (a : BitVec 5) (k : BitVec 3)
  /-- R135. Lane-wise correctly rounded reciprocal. -/
  | vrcp (g : Gd) (v : BitVec 5) (a : BitVec 5) (k : BitVec 3)
  /-- R135. Lane-wise correctly rounded reciprocal square root. -/
  | vrsq (g : Gd) (v : BitVec 5) (a : BitVec 5) (k : BitVec 3)
  /-- R136. Broadcasts a scalar register into active lanes. -/
  | vbcast (g : Gd) (v : BitVec 5) (s : BitVec 5) (k : BitVec 3)
  /-- R143. Full gather across all 128 lanes. -/
  | vperm (g : Gd) (v : BitVec 5) (a : BitVec 5) (b : BitVec 5) (k : BitVec 3)
  /-- R145. Fixed-tree sum of active lanes written to every lane. -/
  | vredadd (g : Gd) (v : BitVec 5) (a : BitVec 5) (k : BitVec 3) (f : BitVec 3)
  /-- R145. Fixed-tree maximum of active lanes written to every lane. -/
  | vredmax (g : Gd) (v : BitVec 5) (a : BitVec 5) (k : BitVec 3) (f : BitVec 3)
  /-- R137. Writes each active lane's index. -/
  | viota (g : Gd) (v : BitVec 5) (k : BitVec 3)
  /-- R138. Fills active lanes with counter-based random bits. -/
  | vrng (g : Gd) (v : BitVec 5) (a : BitVec 5) (b : BitVec 5) (k : BitVec 3)
  /-- R140. Sets NF when an active lane holds a non-finite FP32 value. -/
  | vnfin (g : Gd) (a : BitVec 5) (k : BitVec 3)
  /-- R142. Partial gather between participating clusters. -/
  | cxc (c : BitVec 3) (m : Mv)
  /-- R144. Copies one cluster's lanes into each participating cluster. -/
  | cbcast (c : BitVec 3) (m : Mv)
  /-- R156. Transposing load of 16 rows by 4 elements into four cluster registers via ls0. -/
  | ldt (m : Mv)
  /-- R156. Transposing load via ls1. -/
  | ldtLs1 (m : Mv)
  /-- R88. Loads the pending loop configuration of strides, epilogue and rotation. -/
  | lset (m : Mv)
  /-- R94. Writes stage predicates p8 through p15 under a mask. -/
  | spred (m : Mv)
  /-- R96. Selects a precompiled schedule from a bucket table and may write a mask. -/
  | buck (m : Mv)
  /-- R99. Locks instruction-cache lines of a range into the task's partition. -/
  | iclk (m : Mv)
  /-- R100. Releases locked instruction-cache lines. -/
  | icul (m : Mv)
  /-- R166. Reads task time τ. -/
  | tnow (m : Mv)
  /-- R167. Reads GCYC at DL0, or returns 0 and taints at DL1 and DL2. -/
  | gcyrd (m : Mv)
  /-- R270. Reads and checks a launch record, creates the launch and requests admission. -/
  | launch (m : Mv)
  /-- R271. Waits for completion of an object or for a launch barrier round. -/
  | join (m : Mv)
  /-- R272. Requests cancellation of an object by handle. -/
  | cancel (m : Mv)
  /-- R270. Reads a counter of an object by handle. -/
  | cntrd (m : Mv)
  /-- R270. Reads unit index, count, logical core or die, handle or physical id. -/
  | corid (m : Mv)
  /-- R274. Offers the core to a higher-ranked unit at a pre-emption point. -/
  | yield (m : Mv)
  /-- R293. Asks SYSTEM for a service and stalls until it answers. -/
  | syscall (m : Mv)
  /-- R292. Ends a handler unit, resuming or terminating the faulted unit. -/
  | rft (m : Mv)
  /-- R295. Reads a control register by number. -/
  | csrr (m : Mv)
  /-- R295. Writes a control register by number; the generic row for registers without behaviour of their own. -/
  | csrw (m : Mv)
  /-- R296. Invalidates cached translations of the context for a page or all. -/
  | tlbi (m : Mv)
  /-- R320. Reports the substitution binding of a routine ID. -/
  | subq (m : Mv)
  /-- R338. Enqueues a put of bytes into a remote window. -/
  | bsend (m : Mv)
  /-- R338. Enqueues a fetch of bytes from a remote window. -/
  | bfetch (m : Mv)
  /-- R339. Contributes to a group reduction round. -/
  | bred (m : Mv)
  /-- R336. Allocates, adds to or frees an arrival entry. -/
  | bexp (m : Mv)
  /-- R337. Waits until named arrival entries are satisfied or a deadline passes. -/
  | bwait (m : Mv)
  /-- R342. Sends a gradient block for a step to a shard's primary. -/
  | bgrad (m : Mv)
  /-- R345. Subscribes a window to a shard's weight returns. -/
  | bsub (m : Mv)
  /-- R363. Reads energy meters or grant at DL0. -/
  | enrd (m : Mv)
  /-- R363. Posts an energy grant request record. -/
  | enreq (m : Mv)
  /-- R160. Binds, initialises or unbinds a queue-head latch. -/
  | qcfg (m : Mv)
  /-- R160. Pushes or commits one slot at a queue's tail. -/
  | qpush (m : Mv)
  /-- R160. Advances a queue's head or tail by n. -/
  | qadv (m : Mv)
  /-- R160. Holds its LIW until a queue has n filled or free slots. -/
  | qwait (m : Mv)
  /-- R160. Reads a queue's FILL, HEAD and TAIL. -/
  | qstat (m : Mv)
  /-- R169. Validates a shape record and marks it VALID. -/
  | shape (m : Mv)
  /-- R170. Enqueues a contiguous copy with an at time. -/
  | cpy (m : Mv)
  /-- R171. Enqueues a copy between two shapes. -/
  | cpys (m : Mv)
  /-- R177. Arms or disarms an early-read checked range. -/
  | echk (m : Mv)
  /-- R180. Enqueues a write of the weight store from DEVICE memory. -/
  | wsload (m : Mv)
  /-- R182. Reports a weight-store bank's refresh window. -/
  | wsref (m : Mv)
  /-- R186. Sets an array's format pair and output scale when drained. -/
  | mcfg (x : Bool) (m : Mv)
  /-- R187. Enqueues a weight block load into the shadow plane. -/
  | mlw (x : Bool) (m : Mv)
  /-- R190. Enqueues a plane swap at a τ. -/
  | mswp (x : Bool) (m : Mv)
  /-- R192. Enqueues one activation streaming step against the active plane. -/
  | mstr (x : Bool) (m : Mv)
  /-- R195. Enqueues one outer-product step into an accumulator tile. -/
  | mop (x : Bool) (m : Mv)
  /-- R196. Drains accumulator rows, scaled and converted, to scratchpad or a register. -/
  | mrd (x : Bool) (m : Mv)
  /-- R198. Clears one or both accumulator tiles and their flags. -/
  | mclr (x : Bool) (m : Mv)
  /-- R246. Windowed maximum with a witness tile. -/
  | wmax (m : Mv)
  /-- R246. Windowed minimum with a witness tile. -/
  | wmin (m : Mv)
  /-- R246. Windowed median with a witness tile. -/
  | wmed (m : Mv)
  /-- R246. Clamp with a witness tile. -/
  | wclmp (m : Mv)
  /-- R246. Saturating windowed sum with a witness tile. -/
  | wssum (m : Mv)
  /-- R249. Routes upstream gradients through a witness tile. -/
  | adjb (m : Mv)
  /-- R241. Allocates a witness generation tag. -/
  | wtag (m : Mv)
  /-- R242. Releases a live witness tag. -/
  | wrel (m : Mv)
  /-- R164. The engine takes up a command at its start τ and frees its buffer entry. -/
  | engineCommandStart (k : Nat)
  /-- R176. A GT command at DL0 starts at the first LIW issued at or after its GCYC. -/
  | gtCopyStart (k : Nat)
  /-- R175. A copy performs its writes at the end of its due τ. -/
  | copyWrite (k : Nat)
  /-- R174. Engine data missing at the due τ arrives, the write is performed and τ advances. -/
  | lateDataArrival (k : Nat)
  /-- R175. A copy into a queue advances TAIL and FILL once there is room. -/
  | queueCopyCommit (k : Nat)
  /-- R180. A WSLOAD's bytes hold their new values from the end of its due τ. -/
  | wsloadWrite (k : Nat)
  /-- R189. An MLW writes every cell of the shadow plane at the end of its due τ. -/
  | mlwWrite (k : Nat)
  /-- R190. ACT is inverted at the end of the swap τ. -/
  | mswpInvert (k : Nat)
  /-- R194. At a step's start τ operands are checked and activation rows begin to be read. -/
  | arrayStepStart (k : Nat)
  /-- R193. A step writes its accumulator tile at its completion τ. -/
  | arrayStepComplete (k : Nat)
  /-- R197. An MRD performs its destination writes at the end of τ t plus 3. -/
  | mrdWrite (k : Nat)
  /-- R247. A witness reduction writes results, elements and descriptor at its completion τ. -/
  | witnessComplete (k : Nat)
  /-- R249. An ADJB writes its destination rows at its completion τ. -/
  | adjbComplete (k : Nat)
  /-- R221. Data of a load-type access arrives and is written to its pending entry. -/
  | loadArrival (k : Nat)
  /-- R225. An atomic performs its read and write at the home die's L2. -/
  | atomPerform (k : Nat)
  /-- R228. A DEVICE write takes its place in home order at the home die's L2. -/
  | writeApplyHome (w : Nat)
  /-- R230. A die applies an incoming write once its causal predecessors are applied. -/
  | writeApplyRemote (w die : Nat)
  /-- R280. Confluence or SYSTEM requests pre-emption of a task. -/
  | preemptionRequest (u : Nat)
  /-- R285. A unit's image is restored, locks re-acquired and queues rebound on a core. -/
  | unitResume (u : Nat)
  /-- R290. A unit is terminated, its commands discarded and it is counted cancelled. -/
  | unitTerminate (u : Nat)
  /-- R266. Confluence chooses and places the next placeable unit on a core with room. -/
  | unitPlacement (core : Nat)
  /-- R361. A requested launch is granted region states and energy and becomes placeable. -/
  | launchGrant (c h : Nat)
  /-- R267. A launch waiting 2^20 GCYC rises one priority level. -/
  | priorityAging (c h : Nat)
  /-- R268. A priority-0 gang waiting 2^20 GCYC reserves the dies it needs. -/
  | gangReservation (c h : Nat)
  /-- R260. A GRAPH packet creates a graph and requests admission of its launches. -/
  | graph (c : Nat)
  /-- R265. A DETLEVEL packet sets the context level for later packets. -/
  | detlevel (c : Nat)
  /-- R260. A CANCEL packet cancels an object by handle. -/
  | cancelPacket (c : Nat)
  /-- R260. A PHASE packet creates a phase and possibly a new job. -/
  | phase (c : Nat)
  /-- R260. A PHASE_END packet fixes a phase's ISSUED and optionally closes its job. -/
  | phaseEnd (c : Nat)
  /-- R260. A SIGNAL packet stores a value once every earlier packet's work is finished. -/
  | signal (c : Nat)
  /-- R260. A LOAD packet hands a code object to the Stitcher. -/
  | load (c : Nat)
  /-- R260. When a packet's work finishes its completion word is written at SYS scope. -/
  | packetCompletion (c i : Nat)
  /-- R115. Once no reference remains, the module's entries leave the maps. -/
  | moduleRemove (c m : Nat)
  /-- R344. A phase's deadline passes with conditions unmet and it finishes INCOMPLETE. -/
  | phaseDeadline (c h : Nat)
  /-- R298. An uncorrectable error in a clean L2 line drops and refetches it. -/
  | cleanLineUe (line : Nat)
  /-- R299. An uncorrectable error in a dirty line poisons it and logs a record. -/
  | dirtyLineUe (line : Nat)
  /-- R298. An uncorrectable weight-store word poisons the region and terminates the reader. -/
  | weightStoreUe (die off u : Nat)
  /-- R346. An idle port sends a keepalive flit every 2^20 GCYC. -/
  | keepalive (port : Nat)
  /-- R346. On failure notice a mirror becomes primary and resends weights. -/
  | mirrorPromotion (sid : Nat)
  /-- R332. A block command snapshots its source at its start τ and passes to the fabric. -/
  | braidSnapshot (k : Nat)
  /-- R333. A receiver checks and applies a put and counts its arrival. -/
  | putApply (i : Nat)
  /-- R335. A refused arrival is retried after 4,096 GCYC. -/
  | arrivalRetry (i : Nat)
  /-- R338. The remote package reads the requested window bytes for a BFETCH. -/
  | bfetchServe (i : Nat)
  /-- R333. BFETCH data lands at its destination and is counted. -/
  | bfetchLanding (i : Nat)
  /-- R339. A member's snapshot arrives; when all have, the fold and delivery run. -/
  | bredContribution (i : Nat)
  /-- R342. The primary decides a contribution as DUP, FOREIGN, RANGE, STALE, EARLY or held. -/
  | bgradReceive (i : Nat)
  /-- R343. The mirror applies a forwarded block and confirms it. -/
  | mirrorApply (i : Nat)
  /-- R343. On confirmation the primary writes OK, returns weights and may advance LAST. -/
  | mirrorConfirm (i : Nat)
  /-- R342. A source receives a STEP notice and resends refused blocks. -/
  | stepNotice (i : Nat)
  /-- R345. The node checks and registers a subscription and forwards it to the mirror. -/
  | bsubRegister (i : Nat)
  /-- R333. A command's completion word is written with its status. -/
  | braidStatus (i : Nat)
  /-- R114. The Stitcher publishes a loaded module's descriptors, LIW starts and routine IDs at one instant and posts the load's completion status. -/
  | modulePublication (c m : Nat)
  /-- R226. A waiting FENCE LIW issues once earlier accesses are complete at its scope. -/
  | fenceRelease
  /-- R296. A waiting TLBI issues once entries are dropped and earlier writes applied. -/
  | tlbiRelease
  /-- R160. A waiting QWAIT LIW issues once another agent makes its condition hold. -/
  | qwaitRelease
  /-- R271. A completion JOIN issues once the counted units reach n or the object finishes. -/
  | joinRelease
  /-- R271. A barrier JOIN issues once every unit has arrived, ended or been cancelled. -/
  | barrierRelease
  /-- R337. A BWAIT issues once every named entry has ARR at least EXP. -/
  | bwaitRelease
  /-- R337. A BWAIT issues when its GCYC deadline expires. -/
  | bwaitDeadline
  /-- R273. A waiting ENDT issues once pending commands and loads are done. -/
  | endtRelease
  /-- R293. SYSTEM answers a SYSCALL and the core resumes issue. -/
  | syscallAnswer
  /-- R181. A weight-store bank enters or leaves its refresh window by GCYC. -/
  | refreshWindow
  /-- R281. At a pre-emption point or wait the task drains into the Eddy and its image is captured. -/
  | switchOut
  /-- R282. An Eddy entry is written at the end of τ T plus d minus 1 after resumption. -/
  | eddyWrite
  /-- R360. A 1 ms interval begins, resetting K and E and applying new grants. -/
  | energyInterval
  /-- R297. A single-bit error is corrected and CE_SEEN set. -/
  | correctedError
  /-- R300. An armed injection corrupts the target line when it is or enters its home L2. -/
  | einjInject
  /-- R292. A waiting RFT LIW issues once the handler's pending commands and loads are done, then resumes or terminates the faulted unit. -/
  | rftRelease
  /-- R219. A write to L2QUAR writes back and quarantines a way of a set group. -/
  | l2quar (v : Word)
  /-- R294. A write to PRETIRE retires a 64 KiB DRAM frame. -/
  | pretire (v : Word)
  /-- R299. A write to CTXKILL terminates a context with MEM_UE. -/
  | ctxkill (v : Word)
  /-- R300. A write to EINJ arms an error injection on an L2 line. -/
  | einj (v : Word)
  /-- R300. Writing 1 to ERRLOG.V clears the record and loads the next queued one. -/
  | errlogClear (v : Word)
  /-- R300. W1C writes clear UE_SEEN or CE_SEEN. -/
  | devHealthClear (v : Word)
  /-- R162. Another agent fills slots of a bound queue and advances its TAIL at the end of a τ. -/
  | queueAgentAdvance (j : BitVec 3) (n : Nat)
  /-- R115. The runtime requests that a module be unloaded. -/
  | moduleUnloadRequest (c m : Nat)
  /-- R315. SYSTEM installs a signed substitution table when it passes its checks. -/
  | substTableInstall (bytes : List Byte)
  /-- R354. A write of the new tail exposes command-queue packets. -/
  | cqDoorbell (c : Nat) (tail : BitVec 32)
  /-- R354. A write of the new tail exposes transfer descriptors. -/
  | xferDoorbell (c : Nat) (tail : BitVec 32)
  /-- R354. Writing 1 registers the Braid tables named by BRAID_TAB. -/
  | braidCommit (c : Nat) (v : BitVec 32)
  /-- R354. A write to a virtual-function register without behaviour of its own. -/
  | vfRegisterWrite (c off : Nat) (v : Word)
  /-- R355. A transfer descriptor is checked and performed whole between host and device. -/
  | transferDescriptor (c : Nat) (iovaOk : Bool)
  /-- R353. A PCI Express link trains to a generation and width. -/
  | pcieLinkTrain (link gen width : Nat)
  /-- R353. A context is created on a trained link, or refused. -/
  | contextCreate (c : Nat)
  /-- R357. A device interface leaving RUN terminates the context's units and clears its keys. -/
  | tdispLeaveRun (c : Nat)
  /-- R366. SYSTEM loads a key slot over an SPDM secure session. -/
  | keySlotLoad (slot : BitVec 8) (ctxs : List Nat)
  /-- R366. Clearing a key slot terminates contexts holding pages under it. -/
  | keySlotClear (slot : BitVec 8)
  /-- R365. The module answers an SPDM request with signed measurements. -/
  | spdmRequest (nonce : Word)
  /-- R360. Management sets a context's grant and share, answering any request. -/
  | grantSet (c g w : Nat)
  /-- R360. Management lowers or sets the package energy budget. -/
  | budgetSet (b : Nat)
  /-- R368. Module reset verifies firmware, trains DRAM, applies repair and sets GCYC to 0. -/
  | moduleReset (images : List FwImage)
  /-- R368. Above 105 °C SYSTEM lowers the budget; at 115 °C the module stops. -/
  | thermalLimit (celsius budget : Nat)
  /-- R202. SYSTEM maps logical array rows onto healthy physical rows. -/
  | rowRepair (core arr : Nat) (failed : List Nat)
  /-- R301. A core is retired and its resident units migrate. -/
  | coreRetire (core : Nat)
  /-- R301. A die is retired and leaves its partitions. -/
  | dieRetire (die : Nat)
  /-- R298. An uncorrectable DRAM word stalls its access and is logged. -/
  | dramUe (dpa : Nat)
  /-- R298. An uncorrectable error in core state terminates its owning context. -/
  | coreStateUe (u : Nat)
  /-- R298. An uncorrectable instruction-cache error refetches the line. -/
  | icacheUe (core line : Nat)
  /-- R326. A Braid port trains to the highest common version. -/
  | braidLinkTrain (port peer : Nat)
  /-- R327. A flit is received, checked, deduplicated and ordered. -/
  | flitReceive (f : Flit)
  /-- R346. A package silent for 2^24 GCYC is declared failed and the job notified. -/
  | packageFailure (pkg : Nat)
  /-- R346. A package of the job receives the fabric's notice that a package failed; its sources resend unstatused blocks or mark them UNREACH, and a primary whose mirror failed continues without one. -/
  | failureNotice (pkg : Nat)
  /-- R357. A virtual function bound as a TDISP device interface enters the RUN state, after which its traffic must use IDE and its key slots stay exclusive. -/
  | tdispEnterRun (c : Nat)
  /-- R22. SYSTEM assigns a set of whole dies as a partition to a group of contexts. -/
  | partitionAssignment (ctxs dies : List Nat)
  deriving DecidableEq, Repr

end Sys2Proof
end

