-- ==== Sys2Proof/Machine/Ports.lean ====
section
/-! DEFINITION. The native port map (R41, R42, R43) and the encoding checks of an LIW (R46) that need no state. -/

namespace Sys2Proof.Machine

/-- The highest trigger offset of a bank A unit block (R42); the block is the port number divided by 64. -/
def lastTrig (block : Nat) : Nat :=
  match block with
  | 1 => 43            -- ctl
  | 2 => 47            -- sa0
  | 3 => 47            -- sa1
  | 4 => 18            -- sf
  | 5 => 17            -- ls0
  | 6 => 17            -- ls1
  | 7 => 23            -- mem
  | 8 => 10            -- mxa
  | 9 => 10            -- mxb
  | 10 => 11           -- wit
  | 11 => 9            -- bte
  | 12 => 8            -- qu
  | _ => 0

/-- A bank A port lies in a unit block (R41). -/
def inUnitA (p : Nat) : Bool := 64 ≤ p && p < 832

/-- A bank A trigger port (R42). -/
def isTrigA (p : Nat) : Bool := inUnitA p && 4 ≤ p % 64 && p % 64 ≤ lastTrig (p / 64)

/-- A bank A port that a move may read (R41, R42): registers, predicates, queue heads, result latches. -/
def readableA (p : Nat) : Bool := p < 56 || (inUnitA p && p % 64 = 3)

/-- A bank A port that a move may write (R41, R42): registers, predicates, operand ports, triggers. -/
def writableA (p : Nat) : Bool := p < 48 || (inUnitA p && p % 64 < 3) || isTrigA p

/-- The units of a cluster (R43). -/
inductive CUnit where
  | alu | mul | sfu | cxc
  deriving DecidableEq, Repr

/-- The offset of a cluster unit's .a port in its cluster's block (R43). -/
def CUnit.base : CUnit → Nat
  | .alu => 72
  | .mul => 94
  | .sfu => 101
  | .cxc => 109

/-- The latency of a cluster unit in τ (R44, R116). -/
def CUnit.latency : CUnit → Nat
  | .alu => 2
  | .mul => 5
  | .sfu => 8
  | .cxc => 4

/-- The unit that a bank B trigger offset belongs to, `none` when the offset is no trigger (R43). -/
def trigUnitB (off : Nat) : Option CUnit :=
  if 76 ≤ off && off ≤ 93 then some .alu
  else if 98 ≤ off && off ≤ 100 then some .mul
  else if 105 ≤ off && off ≤ 108 then some .sfu
  else if 113 ≤ off && off ≤ 117 then some .cxc
  else none

/-- A port of the cluster block that a move may read: vector registers, broadcast, mask slices, result latches (R43). -/
def readableB (off : Nat) : Bool := off < 72 || off = 75 || off = 97 || off = 104 || off = 112

/-- A port of the cluster block that a move may write (R43). -/
def writableB (off : Nat) : Bool :=
  off < 32 || (64 ≤ off && off < 72) || (72 ≤ off && off < 75) || (94 ≤ off && off < 97)
    || (101 ≤ off && off < 104) || (109 ≤ off && off < 112) || (trigUnitB off).isSome

/-- The control-transfer triggers, as bank A ports (R42). -/
def isTransferPort (p : Nat) : Bool :=
  p = 68 || p = 69 || p = 70 || p = 71 || p = 72 || p = 73 || p = 75 || p = 76 || p = 77
    || p = 82 || p = 92 || p = 93 || p = 94

/-- The set bits of a word, lowest first. -/
def setBits (m : BitVec 32) : List Nat := (List.range 32).filter fun i => m.getLsbD i

/-- The buses of an LIW in ascending order (R36, R37): bank A from `maskA`, bank B (32 onward) from `maskB`. -/
def liwBuses (l : Liw) : List Nat := setBits l.maskA ++ (setBits l.maskB).map (· + 32)

/-- The moves of an LIW with the bus each one takes. -/
def liwBusMoves (l : Liw) : List (Nat × Move) := (liwBuses l).zip l.moves

/-- A move whose source is the long immediate (R45). -/
def isLong (m : Mv) : Bool := !m.imm && m.src.toNat = 1023

/-- The cluster that owns a bank B bus (R43). -/
def busCluster (bus : Nat) : Nat := (bus - 32) / 4

/-- The move names ports that it may read and write on its bus (R46, conditions on DST and SRC). -/
def movePortsOk (bus : Nat) (m : Move) : Bool :=
  if bus < 32 then
    writableA m.dst.toNat && (m.mv.imm || isLong m.mv || readableA m.mv.src.toNat)
  else
    m.dst.toNat / 128 = busCluster bus && writableB (m.dst.toNat % 128)
      && (m.mv.imm || isLong m.mv
          || (m.mv.src.toNat / 128 = busCluster bus && readableB (m.mv.src.toNat % 128)))

/-- The path tag and loop flag of a move are legal for an LIW with `nt` tests (R39, R46). -/
def moveTagOk (nt : Nat) (m : Mv) : Bool :=
  (m.tag.toNat = 0 || m.tag.toNat = 5 || (m.tag.toNat ≤ 4 && m.tag.toNat ≤ nt)) && m.lf.toNat ≠ 7

/-- The unit that a move triggers, numbered so that two moves trigger one unit exactly when the numbers agree;
`none` when the destination is no trigger. -/
def trigUnit (bus : Nat) (m : Move) : Option Nat :=
  if bus < 32 then
    if isTrigA m.dst.toNat then some (m.dst.toNat / 64) else none
  else
    match trigUnitB (m.dst.toNat % 128) with
    | none => none
    | some u => some (1000 * (m.dst.toNat / 128 + 1) + u.base)

/-- Two path tags that can never hold together: distinct and both non-zero (R46). -/
def tagsExclude (a b : Mv) : Bool := a.tag ≠ b.tag && a.tag ≠ 0 && b.tag ≠ 0

/-- Two moves of one LIW may stand together (R46, same DST and same unit). -/
def movesAgree (x y : Nat × Move) : Bool :=
  let sameDst := x.2.dst = y.2.dst && (decide (x.1 < 32) = decide (y.1 < 32))
  let sameUnit := (trigUnit x.1 x.2).isSome && trigUnit x.1 x.2 = trigUnit y.1 y.2
  !(sameDst || sameUnit) || tagsExclude x.2.mv y.2.mv

/-- Every pair of a list satisfies a relation. -/
def allPairs {α : Type} (r : α → α → Bool) : List α → Bool
  | [] => true
  | x :: xs => xs.all (r x) && allPairs r xs

/-- How many moves target a control-transfer trigger. -/
def transferCount (ms : List (Nat × Move)) : Nat :=
  (ms.filter fun x => x.1 < 32 && isTransferPort x.2.dst.toNat).length

/-- Test `k` of header A: predicate index and negate (R37). -/
def liwTest (l : Liw) (k : Nat) : Gd :=
  { p := l.tests.extractLsb' (5 * k) 4, n := l.tests.getLsbD (5 * k + 4) }

/-- The tests numbered NT and above are 0 (R37). -/
def liwSpareTestsZero (l : Liw) : Bool :=
  (List.range 4).all fun k => k < l.nt.toNat || l.tests.extractLsb' (5 * k) 5 = 0

/-- The encoding checks of R46 that need no state. An LIW that fails one raises ILLEGAL at issue. -/
def liwLegal (l : Liw) : Bool :=
  let ms := liwBusMoves l
  l.nt.toNat ≤ 4 && liwSpareTestsZero l
    && ms.all (fun x => movePortsOk x.1 x.2 && moveTagOk l.nt.toNat x.2.mv)
    && allPairs movesAgree ms
    && transferCount ms ≤ 1
    && (l.nt.toNat = 0 || transferCount ms = 0)
    && l.targets.all (fun t => t.toNat % 4 = 0)

/-- The LIW of one bank A move and nothing else: bus 0, no test, no POP; a long immediate, when the move asks for one, is 0. -/
def liwOfMove (dst : BitVec 10) (m : Mv) : Liw :=
  { maskA := 1, hasB := false, pop := 0, nt := 0, tests := 0, maskB := 0,
    moves := [{ dst := dst, mv := m }], targets := [], longs := if isLong m then [0] else [] }

/-- The LIW of one bank B move and nothing else, on the first bus of the cluster its destination lies in. -/
def liwOfMoveB (dst : BitVec 10) (m : Mv) : Liw :=
  { maskA := 0, hasB := true, pop := 0, nt := 0, tests := 0,
    maskB := BitVec.twoPow 32 (4 * (dst.toNat / 128)),
    moves := [{ dst := dst, mv := m }], targets := [], longs := if isLong m then [0] else [] }

/-- The empty LIW (R36). -/
def Liw.empty : Liw :=
  { maskA := 0, hasB := false, pop := 0, nt := 0, tests := 0, maskB := 0, moves := [], targets := [], longs := [] }

end Sys2Proof.Machine
end

