-- ==== Sys2Proof/WellFormed.lean ====
section
/-! DEFINITION. Which instructions an encoding of the spec can hold: the field rules of R29, R32, R33, R34 and R64 for Peman
slot words, those of R38, R39 and R46 for native moves, and the shape of an LIW (R36). Steps without an encoding are
well formed whatever their arguments. -/

namespace Sys2Proof

open Sys2Proof.Machine

/-- A native move word that can stand alone in an LIW without tests (R39, R46); `read` says which source ports it may name. -/
def Mv.wf (read : Nat → Bool) (m : Mv) : Bool :=
  moveTagOk 0 m && (m.imm || isLong m || read m.src.toNat)

/-- The source ports that cluster `c`'s moves may name (R43). -/
def readableFrom (c : BitVec 3) (p : Nat) : Bool := p / 128 = c.toNat && readableB (p % 128)

/-- An LIW whose lists have the lengths its headers give (R36, R37). -/
def Liw.wf (l : Liw) : Bool :=
  l.moves.length = (liwBuses l).length && l.targets.length = l.nt.toNat
    && l.longs.length = (l.moves.filter fun x => isLong x.mv).length
    && (l.hasB || l.maskB = 0)

/-- The well-formedness of an instruction, constructor by constructor. -/
def Instr.wf : Instr → Bool
  | .liwIssue l => l.wf
  | .nop => true
  | .add _ _ _ _ => true
  | .addI _ _ _ _ => true
  | .sub _ _ _ _ => true
  | .mul _ _ _ _ => true
  | .mulh _ _ _ _ _ => true
  | .div _ _ _ _ _ => true
  | .rem _ _ _ _ _ => true
  | .and _ _ _ _ => true
  | .andI _ _ _ _ => true
  | .or _ _ _ _ => true
  | .orI _ _ _ _ => true
  | .xor _ _ _ _ => true
  | .xorI _ _ _ _ => true
  | .andn _ _ _ _ => true
  | .shl _ _ _ _ => true
  | .shlI _ _ _ _ => true
  | .shr _ _ _ _ => true
  | .shrI _ _ _ _ => true
  | .sar _ _ _ _ => true
  | .sarI _ _ _ _ => true
  | .rol _ _ _ _ => true
  | .rolI _ _ _ _ => true
  | .min _ _ _ _ _ => true
  | .max _ _ _ _ _ => true
  | .clz _ _ _ => true
  | .popc _ _ _ => true
  | .bfx _ _ _ _ _ => true
  | .bfi _ _ _ _ => true
  | .sel _ _ _ _ _ => true
  | .mov _ _ _ => true
  | .movi _ _ _ => true
  | .movk _ _ _ => true
  | .cmp _ _ _ _ c => c.toNat ≤ 9
  | .pand _ _ _ _ _ _ => true
  | .por _ _ _ _ _ _ => true
  | .pxor _ _ _ _ _ _ => true
  | .pmov _ _ _ _ => true
  | .fadd _ _ _ _ => true
  | .fsub _ _ _ _ => true
  | .fmul _ _ _ _ => true
  | .ffma _ _ _ _ => true
  | .fmin _ _ _ _ => true
  | .fmax _ _ _ _ => true
  | .fcvt _ _ _ t s => t ≠ 7 && s ≠ 7
  | .fcmp _ _ _ _ _ => true
  | .ldB _ _ _ _ => true
  | .ldH _ _ _ _ => true
  | .ldW _ _ _ _ => true
  | .ldD _ _ _ _ => true
  | .ldSb _ _ _ _ => true
  | .ldSh _ _ _ _ => true
  | .ldSw _ _ _ _ => true
  | .stB _ _ _ _ => true
  | .stH _ _ _ _ => true
  | .stW _ _ _ _ => true
  | .stD _ _ _ _ => true
  | .vld _ _ _ _ => true
  | .vst _ _ _ _ => true
  | .ldg _ _ _ _ _ => true
  | .ldgNative _ m => m.wf readableA
  | .stg _ _ _ _ => true
  | .stgNative m => m.wf readableA
  | .pref _ _ _ _ => true
  | .atomAdd _ _ _ _ => true
  | .atomMin _ _ _ _ => true
  | .atomMax _ _ _ _ => true
  | .atomOr _ _ _ _ => true
  | .atomExch _ _ _ _ => true
  | .atomCas _ _ _ _ => true
  | .atomFadd _ _ _ _ => true
  | .fence _ _ => true
  | .fenceNative _ m => m.wf readableA
  | .br _ _ => true
  | .brNative m => m.wf readableA
  | .jmp _ _ => true
  | .jmpNative m => m.wf readableA
  | .call _ o _ => 1 ≤ o.toNat && o.toNat ≤ 24
  | .callNative m => m.wf readableA
  | .calli _ o _ _ => 1 ≤ o.toNat && o.toNat ≤ 24
  | .calliNative m => m.wf readableA
  | .callr _ o _ => 1 ≤ o.toNat && o.toNat ≤ 24
  | .callrNative m => m.wf readableA
  | .ret _ => true
  | .retNative m => m.wf readableA
  | .loop _ _ o => o ≠ 0
  | .loopNative m => m.wf readableA
  | .endl => true
  | .endlNative s i => i || s.toNat = 1023 || readableA s.toNat
  | .trap _ _ => true
  | .trapNative m => m.wf readableA
  | .endt _ => true
  | .endtNative m => m.wf readableA
  | .fmtset _ i => (i &&& 0x7FF8) = 0
  | .fmtsetNative m => m.wf readableA
  | .nopNative m => m.wf readableA
  | .vadd _ _ _ _ _ f => f.toNat ≤ 2
  | .vsub _ _ _ _ _ f => f.toNat ≤ 2
  | .vmul _ _ _ _ _ f => f.toNat ≤ 1
  | .vfma _ _ _ _ _ => true
  | .vmin _ _ _ _ _ f => f.toNat ≤ 2
  | .vmax _ _ _ _ _ f => f.toNat ≤ 2
  | .vabs _ _ _ _ f => f.toNat ≤ 1
  | .vneg _ _ _ _ f => f.toNat ≤ 1
  | .vand _ _ _ _ _ => true
  | .vor _ _ _ _ _ => true
  | .vxor _ _ _ _ _ => true
  | .vshl _ _ _ _ _ => true
  | .vshr _ _ _ _ _ f => f.toNat ≤ 1
  | .vcmpF _ _ _ _ _ _ => true
  | .vcmpI _ _ _ _ _ c => c.toNat ≤ 5
  | .vsel _ _ _ _ _ => true
  | .vcvt _ _ _ s _ t => t ≠ 7 || s = 0
  | .vexp2 _ _ _ _ => true
  | .vlog2 _ _ _ _ => true
  | .vrcp _ _ _ _ => true
  | .vrsq _ _ _ _ => true
  | .vbcast _ _ _ _ => true
  | .vperm _ _ _ _ _ => true
  | .vredadd _ _ _ _ f => f.toNat ≤ 1
  | .vredmax _ _ _ _ f => f.toNat ≤ 1
  | .viota _ _ _ => true
  | .vrng _ _ _ b _ => b.toNat ≤ 30
  | .vnfin _ _ _ => true
  | .cxc c m => m.wf (readableFrom c)
  | .cbcast c m => m.wf (readableFrom c)
  | .ldt m => m.wf readableA
  | .ldtLs1 m => m.wf readableA
  | .lset m => m.wf readableA
  | .spred m => m.wf readableA
  | .buck m => m.wf readableA
  | .iclk m => m.wf readableA
  | .icul m => m.wf readableA
  | .tnow m => m.wf readableA
  | .gcyrd m => m.wf readableA
  | .launch m => m.wf readableA
  | .join m => m.wf readableA
  | .cancel m => m.wf readableA
  | .cntrd m => m.wf readableA
  | .corid m => m.wf readableA
  | .yield m => m.wf readableA
  | .syscall m => m.wf readableA
  | .rft m => m.wf readableA
  | .csrr m => m.wf readableA
  | .csrw m => m.wf readableA
  | .tlbi m => m.wf readableA
  | .subq m => m.wf readableA
  | .bsend m => m.wf readableA
  | .bfetch m => m.wf readableA
  | .bred m => m.wf readableA
  | .bexp m => m.wf readableA
  | .bwait m => m.wf readableA
  | .bgrad m => m.wf readableA
  | .bsub m => m.wf readableA
  | .enrd m => m.wf readableA
  | .enreq m => m.wf readableA
  | .qcfg m => m.wf readableA
  | .qpush m => m.wf readableA
  | .qadv m => m.wf readableA
  | .qwait m => m.wf readableA
  | .qstat m => m.wf readableA
  | .shape m => m.wf readableA
  | .cpy m => m.wf readableA
  | .cpys m => m.wf readableA
  | .echk m => m.wf readableA
  | .wsload m => m.wf readableA
  | .wsref m => m.wf readableA
  | .mcfg _ m => m.wf readableA
  | .mlw _ m => m.wf readableA
  | .mswp _ m => m.wf readableA
  | .mstr _ m => m.wf readableA
  | .mop _ m => m.wf readableA
  | .mrd _ m => m.wf readableA
  | .mclr _ m => m.wf readableA
  | .wmax m => m.wf readableA
  | .wmin m => m.wf readableA
  | .wmed m => m.wf readableA
  | .wclmp m => m.wf readableA
  | .wssum m => m.wf readableA
  | .adjb m => m.wf readableA
  | .wtag m => m.wf readableA
  | .wrel m => m.wf readableA
  | .l2quar _ => true
  | .pretire _ => true
  | .ctxkill _ => true
  | .einj _ => true
  | .errlogClear _ => true
  | .devHealthClear _ => true
  | .engineCommandStart _ => true
  | .gtCopyStart _ => true
  | .copyWrite _ => true
  | .lateDataArrival _ => true
  | .queueCopyCommit _ => true
  | .wsloadWrite _ => true
  | .mlwWrite _ => true
  | .mswpInvert _ => true
  | .arrayStepStart _ => true
  | .arrayStepComplete _ => true
  | .mrdWrite _ => true
  | .witnessComplete _ => true
  | .adjbComplete _ => true
  | .loadArrival _ => true
  | .atomPerform _ => true
  | .writeApplyHome _ => true
  | .writeApplyRemote _ _ => true
  | .fenceRelease => true
  | .tlbiRelease => true
  | .qwaitRelease => true
  | .queueAgentAdvance _ _ => true
  | .joinRelease => true
  | .barrierRelease => true
  | .bwaitRelease => true
  | .bwaitDeadline => true
  | .endtRelease => true
  | .syscallAnswer => true
  | .refreshWindow => true
  | .preemptionRequest _ => true
  | .switchOut => true
  | .unitResume _ => true
  | .eddyWrite => true
  | .unitTerminate _ => true
  | .unitPlacement _ => true
  | .launchGrant _ _ => true
  | .priorityAging _ _ => true
  | .gangReservation _ _ => true
  | .graph _ => true
  | .detlevel _ => true
  | .cancelPacket _ => true
  | .phase _ => true
  | .phaseEnd _ => true
  | .signal _ => true
  | .load _ => true
  | .packetCompletion _ _ => true
  | .moduleUnloadRequest _ _ => true
  | .moduleRemove _ _ => true
  | .substTableInstall _ => true
  | .phaseDeadline _ _ => true
  | .cqDoorbell _ _ => true
  | .xferDoorbell _ _ => true
  | .braidCommit _ _ => true
  | .vfRegisterWrite _ _ _ => true
  | .transferDescriptor _ _ => true
  | .pcieLinkTrain _ _ _ => true
  | .contextCreate _ => true
  | .tdispLeaveRun _ => true
  | .keySlotLoad _ _ => true
  | .keySlotClear _ => true
  | .spdmRequest _ => true
  | .energyInterval => true
  | .grantSet _ _ _ => true
  | .budgetSet _ => true
  | .moduleReset _ => true
  | .thermalLimit _ _ => true
  | .rowRepair _ _ _ => true
  | .coreRetire _ => true
  | .dieRetire _ => true
  | .correctedError => true
  | .cleanLineUe _ => true
  | .dirtyLineUe _ => true
  | .dramUe _ => true
  | .weightStoreUe _ _ _ => true
  | .coreStateUe _ => true
  | .icacheUe _ _ => true
  | .einjInject => true
  | .braidLinkTrain _ _ => true
  | .flitReceive _ => true
  | .keepalive _ => true
  | .packageFailure _ => true
  | .mirrorPromotion _ => true
  | .braidSnapshot _ => true
  | .putApply _ => true
  | .arrivalRetry _ => true
  | .bfetchServe _ => true
  | .bfetchLanding _ => true
  | .bredContribution _ => true
  | .bgradReceive _ => true
  | .mirrorApply _ => true
  | .mirrorConfirm _ => true
  | .stepNotice _ => true
  | .bsubRegister _ => true
  | .braidStatus _ => true
  | .modulePublication _ _ => true
  | .rftRelease => true
  | .failureNotice _ => true
  | .tdispEnterRun _ => true
  | .partitionAssignment _ _ => true

end Sys2Proof
end

