-- ==== Sys2Proof/Decode.lean ====
section
/-! DEFINITION. The decoder, total on any bytes: Peman slot words by class (R26 to R35), native LIWs (R36 to R38), and
the encoder written from the same tables. A word that no row holds, or that breaks a field rule, is refused (`none`):
the bundle or LIW that contains it raises ILLEGAL (R7, R31). -/

namespace Sys2Proof

open Sys2Proof.Machine

/-- The guard of a Peman slot word (R27). -/
def gd (w : BitVec 32) : Gd := { p := w.extractLsb' 28 4, n := w.getLsbD 27 }

/-- Class S0 by opcode (R32), before the field rules. -/
def rawS0 (w : BitVec 32) : Option Instr :=
  match (w.extractLsb' 21 6).toNat with
  | 0x0 => if w = 0 then some .nop else none
  | 0x1 => if w.extractLsb' 0 6 = 0x0 then some (.add (gd w) (w.extractLsb' 16 5) (w.extractLsb' 11 5) (w.extractLsb' 6 5)) else none
  | 0x2 => some (.addI (gd w) (w.extractLsb' 16 5) (w.extractLsb' 11 5) (w.extractLsb' 0 11))
  | 0x3 => if w.extractLsb' 0 6 = 0x0 then some (.sub (gd w) (w.extractLsb' 16 5) (w.extractLsb' 11 5) (w.extractLsb' 6 5)) else none
  | 0x4 => if w.extractLsb' 0 6 = 0x0 then some (.mul (gd w) (w.extractLsb' 16 5) (w.extractLsb' 11 5) (w.extractLsb' 6 5)) else none
  | 0x5 => if w.extractLsb' 1 5 = 0x0 then some (.mulh (gd w) (w.extractLsb' 16 5) (w.extractLsb' 11 5) (w.extractLsb' 6 5) (w.getLsbD 0)) else none
  | 0x6 => if w.extractLsb' 1 5 = 0x0 then some (.div (gd w) (w.extractLsb' 16 5) (w.extractLsb' 11 5) (w.extractLsb' 6 5) (w.getLsbD 0)) else none
  | 0x7 => if w.extractLsb' 1 5 = 0x0 then some (.rem (gd w) (w.extractLsb' 16 5) (w.extractLsb' 11 5) (w.extractLsb' 6 5) (w.getLsbD 0)) else none
  | 0x8 => if w.extractLsb' 0 6 = 0x0 then some (.and (gd w) (w.extractLsb' 16 5) (w.extractLsb' 11 5) (w.extractLsb' 6 5)) else none
  | 0x9 => some (.andI (gd w) (w.extractLsb' 16 5) (w.extractLsb' 11 5) (w.extractLsb' 0 11))
  | 0xa => if w.extractLsb' 0 6 = 0x0 then some (.or (gd w) (w.extractLsb' 16 5) (w.extractLsb' 11 5) (w.extractLsb' 6 5)) else none
  | 0xb => some (.orI (gd w) (w.extractLsb' 16 5) (w.extractLsb' 11 5) (w.extractLsb' 0 11))
  | 0xc => if w.extractLsb' 0 6 = 0x0 then some (.xor (gd w) (w.extractLsb' 16 5) (w.extractLsb' 11 5) (w.extractLsb' 6 5)) else none
  | 0xd => some (.xorI (gd w) (w.extractLsb' 16 5) (w.extractLsb' 11 5) (w.extractLsb' 0 11))
  | 0xe => if w.extractLsb' 0 6 = 0x0 then some (.andn (gd w) (w.extractLsb' 16 5) (w.extractLsb' 11 5) (w.extractLsb' 6 5)) else none
  | 0xf => if w.extractLsb' 0 6 = 0x0 then some (.shl (gd w) (w.extractLsb' 16 5) (w.extractLsb' 11 5) (w.extractLsb' 6 5)) else none
  | 0x10 => if w.extractLsb' 6 5 = 0x0 then some (.shlI (gd w) (w.extractLsb' 16 5) (w.extractLsb' 11 5) (w.extractLsb' 0 6)) else none
  | 0x11 => if w.extractLsb' 0 6 = 0x0 then some (.shr (gd w) (w.extractLsb' 16 5) (w.extractLsb' 11 5) (w.extractLsb' 6 5)) else none
  | 0x12 => if w.extractLsb' 6 5 = 0x0 then some (.shrI (gd w) (w.extractLsb' 16 5) (w.extractLsb' 11 5) (w.extractLsb' 0 6)) else none
  | 0x13 => if w.extractLsb' 0 6 = 0x0 then some (.sar (gd w) (w.extractLsb' 16 5) (w.extractLsb' 11 5) (w.extractLsb' 6 5)) else none
  | 0x14 => if w.extractLsb' 6 5 = 0x0 then some (.sarI (gd w) (w.extractLsb' 16 5) (w.extractLsb' 11 5) (w.extractLsb' 0 6)) else none
  | 0x15 => if w.extractLsb' 0 6 = 0x0 then some (.rol (gd w) (w.extractLsb' 16 5) (w.extractLsb' 11 5) (w.extractLsb' 6 5)) else none
  | 0x16 => if w.extractLsb' 6 5 = 0x0 then some (.rolI (gd w) (w.extractLsb' 16 5) (w.extractLsb' 11 5) (w.extractLsb' 0 6)) else none
  | 0x17 => if w.extractLsb' 1 5 = 0x0 then some (.min (gd w) (w.extractLsb' 16 5) (w.extractLsb' 11 5) (w.extractLsb' 6 5) (w.getLsbD 0)) else none
  | 0x18 => if w.extractLsb' 1 5 = 0x0 then some (.max (gd w) (w.extractLsb' 16 5) (w.extractLsb' 11 5) (w.extractLsb' 6 5) (w.getLsbD 0)) else none
  | 0x19 => if w.extractLsb' 0 11 = 0x0 then some (.clz (gd w) (w.extractLsb' 16 5) (w.extractLsb' 11 5)) else none
  | 0x1a => if w.extractLsb' 0 11 = 0x0 then some (.popc (gd w) (w.extractLsb' 16 5) (w.extractLsb' 11 5)) else none
  | 0x1b => if w.extractLsb' 1 5 = 0x0 then some (.bfx (gd w) (w.extractLsb' 16 5) (w.extractLsb' 11 5) (w.extractLsb' 6 5) (w.getLsbD 0)) else none
  | 0x1c => if w.extractLsb' 0 6 = 0x0 then some (.bfi (gd w) (w.extractLsb' 16 5) (w.extractLsb' 11 5) (w.extractLsb' 6 5)) else none
  | 0x1d => if w.extractLsb' 4 2 = 0x0 then some (.sel (gd w) (w.extractLsb' 16 5) (w.extractLsb' 11 5) (w.extractLsb' 6 5) (w.extractLsb' 0 4)) else none
  | 0x1e => if w.extractLsb' 0 11 = 0x0 then some (.mov (gd w) (w.extractLsb' 16 5) (w.extractLsb' 11 5)) else none
  | 0x1f => some (.movi (gd w) (w.extractLsb' 16 5) (w.extractLsb' 0 16))
  | 0x20 => some (.movk (gd w) (w.extractLsb' 16 5) (w.extractLsb' 0 16))
  | 0x21 => if w.extractLsb' 20 1 = 0x0 ∧ w.extractLsb' 4 2 = 0x0 then some (.cmp (gd w) (w.extractLsb' 16 4) (w.extractLsb' 11 5) (w.extractLsb' 6 5) (w.extractLsb' 0 4)) else none
  | 0x22 => if w.extractLsb' 20 1 = 0x0 ∧ w.extractLsb' 15 1 = 0x0 ∧ w.extractLsb' 10 1 = 0x0 ∧ w.extractLsb' 2 4 = 0x0 then some (.pand (gd w) (w.extractLsb' 16 4) (w.extractLsb' 11 4) (w.extractLsb' 6 4) (w.getLsbD 1) (w.getLsbD 0)) else none
  | 0x23 => if w.extractLsb' 20 1 = 0x0 ∧ w.extractLsb' 15 1 = 0x0 ∧ w.extractLsb' 10 1 = 0x0 ∧ w.extractLsb' 2 4 = 0x0 then some (.por (gd w) (w.extractLsb' 16 4) (w.extractLsb' 11 4) (w.extractLsb' 6 4) (w.getLsbD 1) (w.getLsbD 0)) else none
  | 0x24 => if w.extractLsb' 20 1 = 0x0 ∧ w.extractLsb' 15 1 = 0x0 ∧ w.extractLsb' 10 1 = 0x0 ∧ w.extractLsb' 2 4 = 0x0 then some (.pxor (gd w) (w.extractLsb' 16 4) (w.extractLsb' 11 4) (w.extractLsb' 6 4) (w.getLsbD 1) (w.getLsbD 0)) else none
  | 0x25 => if w.extractLsb' 20 1 = 0x0 ∧ w.extractLsb' 15 1 = 0x0 ∧ w.extractLsb' 1 10 = 0x0 then some (.pmov (gd w) (w.extractLsb' 16 4) (w.extractLsb' 11 4) (w.getLsbD 0)) else none
  | 0x26 => if w.extractLsb' 0 6 = 0x0 then some (.fadd (gd w) (w.extractLsb' 16 5) (w.extractLsb' 11 5) (w.extractLsb' 6 5)) else none
  | 0x27 => if w.extractLsb' 0 6 = 0x0 then some (.fsub (gd w) (w.extractLsb' 16 5) (w.extractLsb' 11 5) (w.extractLsb' 6 5)) else none
  | 0x28 => if w.extractLsb' 0 6 = 0x0 then some (.fmul (gd w) (w.extractLsb' 16 5) (w.extractLsb' 11 5) (w.extractLsb' 6 5)) else none
  | 0x29 => if w.extractLsb' 0 6 = 0x0 then some (.ffma (gd w) (w.extractLsb' 16 5) (w.extractLsb' 11 5) (w.extractLsb' 6 5)) else none
  | 0x2a => if w.extractLsb' 0 6 = 0x0 then some (.fmin (gd w) (w.extractLsb' 16 5) (w.extractLsb' 11 5) (w.extractLsb' 6 5)) else none
  | 0x2b => if w.extractLsb' 0 6 = 0x0 then some (.fmax (gd w) (w.extractLsb' 16 5) (w.extractLsb' 11 5) (w.extractLsb' 6 5)) else none
  | 0x2c => if w.extractLsb' 6 5 = 0x0 then some (.fcvt (gd w) (w.extractLsb' 16 5) (w.extractLsb' 11 5) (w.extractLsb' 3 3) (w.extractLsb' 0 3)) else none
  | 0x2d => if w.extractLsb' 20 1 = 0x0 ∧ w.extractLsb' 3 3 = 0x0 then some (.fcmp (gd w) (w.extractLsb' 16 4) (w.extractLsb' 11 5) (w.extractLsb' 6 5) (w.extractLsb' 0 3)) else none
  | 0x30 => some (.br (gd w) (w.extractLsb' 0 21))
  | 0x31 => if w.extractLsb' 16 5 = 0x0 ∧ w.extractLsb' 0 11 = 0x0 then some (.jmp (gd w) (w.extractLsb' 11 5)) else none
  | 0x32 => some (.call (gd w) (w.extractLsb' 16 5) (w.extractLsb' 0 16))
  | 0x33 => if w.extractLsb' 0 6 = 0x0 then some (.calli (gd w) (w.extractLsb' 16 5) (w.extractLsb' 11 5) (w.extractLsb' 6 5)) else none
  | 0x34 => if w.extractLsb' 0 21 = 0x0 then some (.ret (gd w)) else none
  | 0x35 => some (.callr (gd w) (w.extractLsb' 16 5) (w.extractLsb' 0 16))
  | 0x36 => some (.loop (gd w) (w.extractLsb' 16 5) (w.extractLsb' 0 16))
  | 0x37 => if w = 0x6e00000 then some .endl else none
  | 0x38 => if w.extractLsb' 16 5 = 0x0 then some (.trap (gd w) (w.extractLsb' 0 16)) else none
  | 0x39 => if w.extractLsb' 0 21 = 0x0 then some (.endt (gd w)) else none
  | 0x3a => if w.extractLsb' 16 5 = 0x0 then some (.fmtset (gd w) (w.extractLsb' 0 16)) else none
  | _ => none

/-- Class S1 by opcode (R32), before the field rules. -/
def rawS1 (w : BitVec 32) : Option Instr :=
  match (w.extractLsb' 21 6).toNat with
  | 0x0 => if w = 0 then some .nop else none
  | 0x1 => if w.extractLsb' 0 6 = 0x0 then some (.add (gd w) (w.extractLsb' 16 5) (w.extractLsb' 11 5) (w.extractLsb' 6 5)) else none
  | 0x2 => some (.addI (gd w) (w.extractLsb' 16 5) (w.extractLsb' 11 5) (w.extractLsb' 0 11))
  | 0x3 => if w.extractLsb' 0 6 = 0x0 then some (.sub (gd w) (w.extractLsb' 16 5) (w.extractLsb' 11 5) (w.extractLsb' 6 5)) else none
  | 0x4 => if w.extractLsb' 0 6 = 0x0 then some (.mul (gd w) (w.extractLsb' 16 5) (w.extractLsb' 11 5) (w.extractLsb' 6 5)) else none
  | 0x5 => if w.extractLsb' 1 5 = 0x0 then some (.mulh (gd w) (w.extractLsb' 16 5) (w.extractLsb' 11 5) (w.extractLsb' 6 5) (w.getLsbD 0)) else none
  | 0x6 => if w.extractLsb' 1 5 = 0x0 then some (.div (gd w) (w.extractLsb' 16 5) (w.extractLsb' 11 5) (w.extractLsb' 6 5) (w.getLsbD 0)) else none
  | 0x7 => if w.extractLsb' 1 5 = 0x0 then some (.rem (gd w) (w.extractLsb' 16 5) (w.extractLsb' 11 5) (w.extractLsb' 6 5) (w.getLsbD 0)) else none
  | 0x8 => if w.extractLsb' 0 6 = 0x0 then some (.and (gd w) (w.extractLsb' 16 5) (w.extractLsb' 11 5) (w.extractLsb' 6 5)) else none
  | 0x9 => some (.andI (gd w) (w.extractLsb' 16 5) (w.extractLsb' 11 5) (w.extractLsb' 0 11))
  | 0xa => if w.extractLsb' 0 6 = 0x0 then some (.or (gd w) (w.extractLsb' 16 5) (w.extractLsb' 11 5) (w.extractLsb' 6 5)) else none
  | 0xb => some (.orI (gd w) (w.extractLsb' 16 5) (w.extractLsb' 11 5) (w.extractLsb' 0 11))
  | 0xc => if w.extractLsb' 0 6 = 0x0 then some (.xor (gd w) (w.extractLsb' 16 5) (w.extractLsb' 11 5) (w.extractLsb' 6 5)) else none
  | 0xd => some (.xorI (gd w) (w.extractLsb' 16 5) (w.extractLsb' 11 5) (w.extractLsb' 0 11))
  | 0xe => if w.extractLsb' 0 6 = 0x0 then some (.andn (gd w) (w.extractLsb' 16 5) (w.extractLsb' 11 5) (w.extractLsb' 6 5)) else none
  | 0xf => if w.extractLsb' 0 6 = 0x0 then some (.shl (gd w) (w.extractLsb' 16 5) (w.extractLsb' 11 5) (w.extractLsb' 6 5)) else none
  | 0x10 => if w.extractLsb' 6 5 = 0x0 then some (.shlI (gd w) (w.extractLsb' 16 5) (w.extractLsb' 11 5) (w.extractLsb' 0 6)) else none
  | 0x11 => if w.extractLsb' 0 6 = 0x0 then some (.shr (gd w) (w.extractLsb' 16 5) (w.extractLsb' 11 5) (w.extractLsb' 6 5)) else none
  | 0x12 => if w.extractLsb' 6 5 = 0x0 then some (.shrI (gd w) (w.extractLsb' 16 5) (w.extractLsb' 11 5) (w.extractLsb' 0 6)) else none
  | 0x13 => if w.extractLsb' 0 6 = 0x0 then some (.sar (gd w) (w.extractLsb' 16 5) (w.extractLsb' 11 5) (w.extractLsb' 6 5)) else none
  | 0x14 => if w.extractLsb' 6 5 = 0x0 then some (.sarI (gd w) (w.extractLsb' 16 5) (w.extractLsb' 11 5) (w.extractLsb' 0 6)) else none
  | 0x15 => if w.extractLsb' 0 6 = 0x0 then some (.rol (gd w) (w.extractLsb' 16 5) (w.extractLsb' 11 5) (w.extractLsb' 6 5)) else none
  | 0x16 => if w.extractLsb' 6 5 = 0x0 then some (.rolI (gd w) (w.extractLsb' 16 5) (w.extractLsb' 11 5) (w.extractLsb' 0 6)) else none
  | 0x17 => if w.extractLsb' 1 5 = 0x0 then some (.min (gd w) (w.extractLsb' 16 5) (w.extractLsb' 11 5) (w.extractLsb' 6 5) (w.getLsbD 0)) else none
  | 0x18 => if w.extractLsb' 1 5 = 0x0 then some (.max (gd w) (w.extractLsb' 16 5) (w.extractLsb' 11 5) (w.extractLsb' 6 5) (w.getLsbD 0)) else none
  | 0x19 => if w.extractLsb' 0 11 = 0x0 then some (.clz (gd w) (w.extractLsb' 16 5) (w.extractLsb' 11 5)) else none
  | 0x1a => if w.extractLsb' 0 11 = 0x0 then some (.popc (gd w) (w.extractLsb' 16 5) (w.extractLsb' 11 5)) else none
  | 0x1b => if w.extractLsb' 1 5 = 0x0 then some (.bfx (gd w) (w.extractLsb' 16 5) (w.extractLsb' 11 5) (w.extractLsb' 6 5) (w.getLsbD 0)) else none
  | 0x1c => if w.extractLsb' 0 6 = 0x0 then some (.bfi (gd w) (w.extractLsb' 16 5) (w.extractLsb' 11 5) (w.extractLsb' 6 5)) else none
  | 0x1d => if w.extractLsb' 4 2 = 0x0 then some (.sel (gd w) (w.extractLsb' 16 5) (w.extractLsb' 11 5) (w.extractLsb' 6 5) (w.extractLsb' 0 4)) else none
  | 0x1e => if w.extractLsb' 0 11 = 0x0 then some (.mov (gd w) (w.extractLsb' 16 5) (w.extractLsb' 11 5)) else none
  | 0x1f => some (.movi (gd w) (w.extractLsb' 16 5) (w.extractLsb' 0 16))
  | 0x20 => some (.movk (gd w) (w.extractLsb' 16 5) (w.extractLsb' 0 16))
  | 0x21 => if w.extractLsb' 20 1 = 0x0 ∧ w.extractLsb' 4 2 = 0x0 then some (.cmp (gd w) (w.extractLsb' 16 4) (w.extractLsb' 11 5) (w.extractLsb' 6 5) (w.extractLsb' 0 4)) else none
  | 0x22 => if w.extractLsb' 20 1 = 0x0 ∧ w.extractLsb' 15 1 = 0x0 ∧ w.extractLsb' 10 1 = 0x0 ∧ w.extractLsb' 2 4 = 0x0 then some (.pand (gd w) (w.extractLsb' 16 4) (w.extractLsb' 11 4) (w.extractLsb' 6 4) (w.getLsbD 1) (w.getLsbD 0)) else none
  | 0x23 => if w.extractLsb' 20 1 = 0x0 ∧ w.extractLsb' 15 1 = 0x0 ∧ w.extractLsb' 10 1 = 0x0 ∧ w.extractLsb' 2 4 = 0x0 then some (.por (gd w) (w.extractLsb' 16 4) (w.extractLsb' 11 4) (w.extractLsb' 6 4) (w.getLsbD 1) (w.getLsbD 0)) else none
  | 0x24 => if w.extractLsb' 20 1 = 0x0 ∧ w.extractLsb' 15 1 = 0x0 ∧ w.extractLsb' 10 1 = 0x0 ∧ w.extractLsb' 2 4 = 0x0 then some (.pxor (gd w) (w.extractLsb' 16 4) (w.extractLsb' 11 4) (w.extractLsb' 6 4) (w.getLsbD 1) (w.getLsbD 0)) else none
  | 0x25 => if w.extractLsb' 20 1 = 0x0 ∧ w.extractLsb' 15 1 = 0x0 ∧ w.extractLsb' 1 10 = 0x0 then some (.pmov (gd w) (w.extractLsb' 16 4) (w.extractLsb' 11 4) (w.getLsbD 0)) else none
  | 0x26 => some (.ldB (gd w) (w.extractLsb' 16 5) (w.extractLsb' 11 5) (w.extractLsb' 0 11))
  | 0x27 => some (.ldH (gd w) (w.extractLsb' 16 5) (w.extractLsb' 11 5) (w.extractLsb' 0 11))
  | 0x28 => some (.ldW (gd w) (w.extractLsb' 16 5) (w.extractLsb' 11 5) (w.extractLsb' 0 11))
  | 0x29 => some (.ldD (gd w) (w.extractLsb' 16 5) (w.extractLsb' 11 5) (w.extractLsb' 0 11))
  | 0x2a => some (.ldSb (gd w) (w.extractLsb' 16 5) (w.extractLsb' 11 5) (w.extractLsb' 0 11))
  | 0x2b => some (.ldSh (gd w) (w.extractLsb' 16 5) (w.extractLsb' 11 5) (w.extractLsb' 0 11))
  | 0x2c => some (.ldSw (gd w) (w.extractLsb' 16 5) (w.extractLsb' 11 5) (w.extractLsb' 0 11))
  | 0x2d => some (.stB (gd w) (w.extractLsb' 16 5) (w.extractLsb' 11 5) (w.extractLsb' 0 11))
  | 0x2e => some (.stH (gd w) (w.extractLsb' 16 5) (w.extractLsb' 11 5) (w.extractLsb' 0 11))
  | 0x2f => some (.stW (gd w) (w.extractLsb' 16 5) (w.extractLsb' 11 5) (w.extractLsb' 0 11))
  | 0x30 => some (.stD (gd w) (w.extractLsb' 16 5) (w.extractLsb' 11 5) (w.extractLsb' 0 11))
  | 0x31 => some (.vld (gd w) (w.extractLsb' 16 5) (w.extractLsb' 11 5) (w.extractLsb' 0 11))
  | 0x32 => some (.vst (gd w) (w.extractLsb' 16 5) (w.extractLsb' 11 5) (w.extractLsb' 0 11))
  | 0x33 => some (.ldg (gd w) (w.extractLsb' 16 5) (w.extractLsb' 11 5) (w.extractLsb' 9 2) (w.extractLsb' 0 9))
  | 0x34 => if w.extractLsb' 9 2 = 0x0 then some (.stg (gd w) (w.extractLsb' 16 5) (w.extractLsb' 11 5) (w.extractLsb' 0 9)) else none
  | 0x35 => if w.extractLsb' 16 5 = 0x0 then some (.pref (gd w) (w.extractLsb' 11 5) (w.extractLsb' 9 2) (w.extractLsb' 0 9)) else none
  | 0x36 =>
    match (w.extractLsb' 0 6).toNat with
    | 0 => some (.atomAdd (gd w) (w.extractLsb' 16 5) (w.extractLsb' 11 5) (w.extractLsb' 6 5))
    | 1 => some (.atomMin (gd w) (w.extractLsb' 16 5) (w.extractLsb' 11 5) (w.extractLsb' 6 5))
    | 2 => some (.atomMax (gd w) (w.extractLsb' 16 5) (w.extractLsb' 11 5) (w.extractLsb' 6 5))
    | 3 => some (.atomOr (gd w) (w.extractLsb' 16 5) (w.extractLsb' 11 5) (w.extractLsb' 6 5))
    | 4 => some (.atomExch (gd w) (w.extractLsb' 16 5) (w.extractLsb' 11 5) (w.extractLsb' 6 5))
    | 5 => some (.atomCas (gd w) (w.extractLsb' 16 5) (w.extractLsb' 11 5) (w.extractLsb' 6 5))
    | 6 => some (.atomFadd (gd w) (w.extractLsb' 16 5) (w.extractLsb' 11 5) (w.extractLsb' 6 5))
    | _ => none
  | 0x37 => if w.extractLsb' 2 19 = 0x0 then some (.fence (gd w) (w.extractLsb' 0 2)) else none
  | _ => none

/-- Class V by opcode (R34), before the field rules. -/
def rawV (w : BitVec 32) : Option Instr :=
  match (w.extractLsb' 21 6).toNat with
  | 0x0 => if w = 0 then some .nop else none
  | 0x1 => some (.vadd (gd w) (w.extractLsb' 16 5) (w.extractLsb' 11 5) (w.extractLsb' 6 5) (w.extractLsb' 3 3) (w.extractLsb' 0 3))
  | 0x2 => some (.vsub (gd w) (w.extractLsb' 16 5) (w.extractLsb' 11 5) (w.extractLsb' 6 5) (w.extractLsb' 3 3) (w.extractLsb' 0 3))
  | 0x3 => some (.vmul (gd w) (w.extractLsb' 16 5) (w.extractLsb' 11 5) (w.extractLsb' 6 5) (w.extractLsb' 3 3) (w.extractLsb' 0 3))
  | 0x4 => if w.extractLsb' 0 3 = 0x0 then some (.vfma (gd w) (w.extractLsb' 16 5) (w.extractLsb' 11 5) (w.extractLsb' 6 5) (w.extractLsb' 3 3)) else none
  | 0x5 => some (.vmin (gd w) (w.extractLsb' 16 5) (w.extractLsb' 11 5) (w.extractLsb' 6 5) (w.extractLsb' 3 3) (w.extractLsb' 0 3))
  | 0x6 => some (.vmax (gd w) (w.extractLsb' 16 5) (w.extractLsb' 11 5) (w.extractLsb' 6 5) (w.extractLsb' 3 3) (w.extractLsb' 0 3))
  | 0x7 => if w.extractLsb' 6 5 = 0x0 then some (.vabs (gd w) (w.extractLsb' 16 5) (w.extractLsb' 11 5) (w.extractLsb' 3 3) (w.extractLsb' 0 3)) else none
  | 0x8 => if w.extractLsb' 6 5 = 0x0 then some (.vneg (gd w) (w.extractLsb' 16 5) (w.extractLsb' 11 5) (w.extractLsb' 3 3) (w.extractLsb' 0 3)) else none
  | 0x9 => if w.extractLsb' 0 3 = 0x0 then some (.vand (gd w) (w.extractLsb' 16 5) (w.extractLsb' 11 5) (w.extractLsb' 6 5) (w.extractLsb' 3 3)) else none
  | 0xa => if w.extractLsb' 0 3 = 0x0 then some (.vor (gd w) (w.extractLsb' 16 5) (w.extractLsb' 11 5) (w.extractLsb' 6 5) (w.extractLsb' 3 3)) else none
  | 0xb => if w.extractLsb' 0 3 = 0x0 then some (.vxor (gd w) (w.extractLsb' 16 5) (w.extractLsb' 11 5) (w.extractLsb' 6 5) (w.extractLsb' 3 3)) else none
  | 0xc => if w.extractLsb' 0 3 = 0x0 then some (.vshl (gd w) (w.extractLsb' 16 5) (w.extractLsb' 11 5) (w.extractLsb' 6 5) (w.extractLsb' 3 3)) else none
  | 0xd => some (.vshr (gd w) (w.extractLsb' 16 5) (w.extractLsb' 11 5) (w.extractLsb' 6 5) (w.extractLsb' 3 3) (w.extractLsb' 0 3))
  | 0xe => if w.extractLsb' 19 2 = 0x0 then some (.vcmpF (gd w) (w.extractLsb' 16 3) (w.extractLsb' 11 5) (w.extractLsb' 6 5) (w.extractLsb' 3 3) (w.extractLsb' 0 3)) else none
  | 0xf => if w.extractLsb' 19 2 = 0x0 then some (.vcmpI (gd w) (w.extractLsb' 16 3) (w.extractLsb' 11 5) (w.extractLsb' 6 5) (w.extractLsb' 3 3) (w.extractLsb' 0 3)) else none
  | 0x10 => if w.extractLsb' 0 3 = 0x0 then some (.vsel (gd w) (w.extractLsb' 16 5) (w.extractLsb' 11 5) (w.extractLsb' 6 5) (w.extractLsb' 3 3)) else none
  | 0x11 => if w.extractLsb' 9 2 = 0x0 then some (.vcvt (gd w) (w.extractLsb' 16 5) (w.extractLsb' 11 5) (w.extractLsb' 6 3) (w.extractLsb' 3 3) (w.extractLsb' 0 3)) else none
  | 0x12 => if w.extractLsb' 6 5 = 0x0 ∧ w.extractLsb' 0 3 = 0x0 then some (.vexp2 (gd w) (w.extractLsb' 16 5) (w.extractLsb' 11 5) (w.extractLsb' 3 3)) else none
  | 0x13 => if w.extractLsb' 6 5 = 0x0 ∧ w.extractLsb' 0 3 = 0x0 then some (.vlog2 (gd w) (w.extractLsb' 16 5) (w.extractLsb' 11 5) (w.extractLsb' 3 3)) else none
  | 0x14 => if w.extractLsb' 6 5 = 0x0 ∧ w.extractLsb' 0 3 = 0x0 then some (.vrcp (gd w) (w.extractLsb' 16 5) (w.extractLsb' 11 5) (w.extractLsb' 3 3)) else none
  | 0x15 => if w.extractLsb' 6 5 = 0x0 ∧ w.extractLsb' 0 3 = 0x0 then some (.vrsq (gd w) (w.extractLsb' 16 5) (w.extractLsb' 11 5) (w.extractLsb' 3 3)) else none
  | 0x16 => if w.extractLsb' 6 5 = 0x0 ∧ w.extractLsb' 0 3 = 0x0 then some (.vbcast (gd w) (w.extractLsb' 16 5) (w.extractLsb' 11 5) (w.extractLsb' 3 3)) else none
  | 0x17 => if w.extractLsb' 0 3 = 0x0 then some (.vperm (gd w) (w.extractLsb' 16 5) (w.extractLsb' 11 5) (w.extractLsb' 6 5) (w.extractLsb' 3 3)) else none
  | 0x18 => if w.extractLsb' 6 5 = 0x0 then some (.vredadd (gd w) (w.extractLsb' 16 5) (w.extractLsb' 11 5) (w.extractLsb' 3 3) (w.extractLsb' 0 3)) else none
  | 0x19 => if w.extractLsb' 6 5 = 0x0 then some (.vredmax (gd w) (w.extractLsb' 16 5) (w.extractLsb' 11 5) (w.extractLsb' 3 3) (w.extractLsb' 0 3)) else none
  | 0x1a => if w.extractLsb' 6 10 = 0x0 ∧ w.extractLsb' 0 3 = 0x0 then some (.viota (gd w) (w.extractLsb' 16 5) (w.extractLsb' 3 3)) else none
  | 0x1b => if w.extractLsb' 0 3 = 0x0 then some (.vrng (gd w) (w.extractLsb' 16 5) (w.extractLsb' 11 5) (w.extractLsb' 6 5) (w.extractLsb' 3 3)) else none
  | 0x1c => if w.extractLsb' 16 5 = 0x0 ∧ w.extractLsb' 6 5 = 0x0 ∧ w.extractLsb' 0 3 = 0x0 then some (.vnfin (gd w) (w.extractLsb' 11 5) (w.extractLsb' 3 3)) else none
  | _ => none

/-- Keep an instruction only when its fields obey the rules of R29, R32, R33, R34. -/
def keepWf (i : Option Instr) : Option Instr := i.filter Instr.wf

/-- The class of a slot (R26). -/
inductive SlotClass where
  | s0 | s1 | v
  deriving DecidableEq, Repr

/-- Slot 0 is class S0, slot 1 class S1, slots 2 and 3 class V (R26). -/
def slotClass : Nat → SlotClass
  | 0 => .s0
  | 1 => .s1
  | _ => .v

/-- The operation that a slot word of a class encodes; `none` where the word raises ILLEGAL (R31). -/
def decodeSlot (c : SlotClass) (w : BitVec 32) : Option Instr :=
  match c with
  | .s0 => keepWf (rawS0 w)
  | .s1 => keepWf (rawS1 w)
  | .v => keepWf (rawV w)

/-- A word of four bytes, lowest address first (R3). -/
def wordOfBytes (b0 b1 b2 b3 : Byte) : BitVec 32 := b3 ++ b2 ++ b1 ++ b0

/-- The four bytes of a word, lowest address first (R3). -/
def bytesOfWord (w : BitVec 32) : List Byte :=
  [w.extractLsb' 0 8, w.extractLsb' 8 8, w.extractLsb' 16 8, w.extractLsb' 24 8]

/-- The first `n` words of a byte list, and the rest. -/
def takeWords : Nat → List Byte → Option (List (BitVec 32) × List Byte)
  | 0, bs => some ([], bs)
  | n + 1, b0 :: b1 :: b2 :: b3 :: bs =>
    match takeWords n bs with
    | some (ws, r) => some (wordOfBytes b0 b1 b2 b3 :: ws, r)
    | none => none
  | _ + 1, _ => none

/-- The four operations of a bundle of 16 bytes, slot 0 first; `none` where some slot raises ILLEGAL (R26, R31). -/
def decodeBundle (bs : List Byte) : Option (List Instr) :=
  match takeWords 4 bs with
  | some ([w0, w1, w2, w3], _) =>
    match decodeSlot .s0 w0, decodeSlot .s1 w1, decodeSlot .v w2, decodeSlot .v w3 with
    | some a, some b, some c, some d => some [a, b, c, d]
    | _, _, _, _ => none
  | _ => none

/-- A native move word (R38). -/
def decodeMove (w : BitVec 32) : Move :=
  { dst := w.extractLsb' 22 10,
    mv := { src := w.extractLsb' 12 10, imm := w.getLsbD 11, g := w.extractLsb' 7 4, n := w.getLsbD 6,
            tag := w.extractLsb' 3 3, lf := w.extractLsb' 0 3 } }

/-- A native move word, field by field (R38). -/
def encodeMove (m : Move) : BitVec 32 :=
  m.dst ++ m.mv.src ++ BitVec.ofBool m.mv.imm ++ m.mv.g ++ BitVec.ofBool m.mv.n ++ m.mv.tag ++ m.mv.lf

/-- The row of the opcode table that a move to a port is, where the table has one (R42, R43). -/
def moveInstr (m : Move) : Option Instr :=
  match m.dst.toNat with
  | 452 => some (.ldgNative 0 m.mv)
  | 453 => some (.ldgNative 1 m.mv)
  | 454 => some (.ldgNative 2 m.mv)
  | 455 => some (.ldgNative 3 m.mv)
  | 456 => some (.stgNative m.mv)
  | 468 => some (.fenceNative 0 m.mv)
  | 469 => some (.fenceNative 1 m.mv)
  | 470 => some (.fenceNative 2 m.mv)
  | 471 => some (.fenceNative 3 m.mv)
  | 68 => some (.brNative m.mv)
  | 69 => some (.jmpNative m.mv)
  | 70 => some (.callNative m.mv)
  | 71 => some (.calliNative m.mv)
  | 73 => some (.callrNative m.mv)
  | 72 => some (.retNative m.mv)
  | 74 => some (.loopNative m.mv)
  | 75 => if m.mv.g = 0 ∧ m.mv.n = false ∧ m.mv.tag = 0 ∧ m.mv.lf = 0 then some (.endlNative m.mv.src m.mv.imm) else none
  | 76 => some (.trapNative m.mv)
  | 77 => some (.endtNative m.mv)
  | 79 => some (.fmtsetNative m.mv)
  | 78 => some (.nopNative m.mv)
  | 113 => some (.cxc 0 m.mv)
  | 241 => some (.cxc 1 m.mv)
  | 369 => some (.cxc 2 m.mv)
  | 497 => some (.cxc 3 m.mv)
  | 625 => some (.cxc 4 m.mv)
  | 753 => some (.cxc 5 m.mv)
  | 881 => some (.cxc 6 m.mv)
  | 1009 => some (.cxc 7 m.mv)
  | 114 => some (.cbcast 0 m.mv)
  | 242 => some (.cbcast 1 m.mv)
  | 370 => some (.cbcast 2 m.mv)
  | 498 => some (.cbcast 3 m.mv)
  | 626 => some (.cbcast 4 m.mv)
  | 754 => some (.cbcast 5 m.mv)
  | 882 => some (.cbcast 6 m.mv)
  | 1010 => some (.cbcast 7 m.mv)
  | 337 => some (.ldt m.mv)
  | 401 => some (.ldtLs1 m.mv)
  | 80 => some (.lset m.mv)
  | 81 => some (.spred m.mv)
  | 82 => some (.buck m.mv)
  | 83 => some (.iclk m.mv)
  | 84 => some (.icul m.mv)
  | 85 => some (.tnow m.mv)
  | 86 => some (.gcyrd m.mv)
  | 87 => some (.launch m.mv)
  | 88 => some (.join m.mv)
  | 89 => some (.cancel m.mv)
  | 90 => some (.cntrd m.mv)
  | 91 => some (.corid m.mv)
  | 92 => some (.yield m.mv)
  | 93 => some (.syscall m.mv)
  | 94 => some (.rft m.mv)
  | 95 => some (.csrr m.mv)
  | 96 => some (.csrw m.mv)
  | 97 => some (.tlbi m.mv)
  | 98 => some (.subq m.mv)
  | 99 => some (.bsend m.mv)
  | 100 => some (.bfetch m.mv)
  | 101 => some (.bred m.mv)
  | 102 => some (.bexp m.mv)
  | 103 => some (.bwait m.mv)
  | 104 => some (.bgrad m.mv)
  | 105 => some (.bsub m.mv)
  | 106 => some (.enrd m.mv)
  | 107 => some (.enreq m.mv)
  | 772 => some (.qcfg m.mv)
  | 773 => some (.qpush m.mv)
  | 774 => some (.qadv m.mv)
  | 775 => some (.qwait m.mv)
  | 776 => some (.qstat m.mv)
  | 708 => some (.shape m.mv)
  | 709 => some (.cpy m.mv)
  | 710 => some (.cpys m.mv)
  | 711 => some (.echk m.mv)
  | 712 => some (.wsload m.mv)
  | 713 => some (.wsref m.mv)
  | 516 => some (.mcfg false m.mv)
  | 580 => some (.mcfg true m.mv)
  | 517 => some (.mlw false m.mv)
  | 581 => some (.mlw true m.mv)
  | 518 => some (.mswp false m.mv)
  | 582 => some (.mswp true m.mv)
  | 519 => some (.mstr false m.mv)
  | 583 => some (.mstr true m.mv)
  | 520 => some (.mop false m.mv)
  | 584 => some (.mop true m.mv)
  | 521 => some (.mrd false m.mv)
  | 585 => some (.mrd true m.mv)
  | 522 => some (.mclr false m.mv)
  | 586 => some (.mclr true m.mv)
  | 644 => some (.wmax m.mv)
  | 645 => some (.wmin m.mv)
  | 646 => some (.wmed m.mv)
  | 647 => some (.wclmp m.mv)
  | 648 => some (.wssum m.mv)
  | 649 => some (.adjb m.mv)
  | 650 => some (.wtag m.mv)
  | 651 => some (.wrel m.mv)
  | _ => none

/-- The destination port of a native row and the rest of its move word; `none` for every other row. -/
def nativeMove : Instr → Option Move
  | .ldgNative r m => some ⟨BitVec.ofNat 10 (452 + r.toNat), m⟩
  | .stgNative m => some ⟨456, m⟩
  | .fenceNative r m => some ⟨BitVec.ofNat 10 (468 + r.toNat), m⟩
  | .brNative m => some ⟨68, m⟩
  | .jmpNative m => some ⟨69, m⟩
  | .callNative m => some ⟨70, m⟩
  | .calliNative m => some ⟨71, m⟩
  | .callrNative m => some ⟨73, m⟩
  | .retNative m => some ⟨72, m⟩
  | .loopNative m => some ⟨74, m⟩
  | .endlNative s i => some ⟨75, ⟨s, i, 0, false, 0, 0⟩⟩
  | .trapNative m => some ⟨76, m⟩
  | .endtNative m => some ⟨77, m⟩
  | .fmtsetNative m => some ⟨79, m⟩
  | .nopNative m => some ⟨78, m⟩
  | .cxc c m => some ⟨BitVec.ofNat 10 (c.toNat * 128 + 113), m⟩
  | .cbcast c m => some ⟨BitVec.ofNat 10 (c.toNat * 128 + 114), m⟩
  | .ldt m => some ⟨337, m⟩
  | .ldtLs1 m => some ⟨401, m⟩
  | .lset m => some ⟨80, m⟩
  | .spred m => some ⟨81, m⟩
  | .buck m => some ⟨82, m⟩
  | .iclk m => some ⟨83, m⟩
  | .icul m => some ⟨84, m⟩
  | .tnow m => some ⟨85, m⟩
  | .gcyrd m => some ⟨86, m⟩
  | .launch m => some ⟨87, m⟩
  | .join m => some ⟨88, m⟩
  | .cancel m => some ⟨89, m⟩
  | .cntrd m => some ⟨90, m⟩
  | .corid m => some ⟨91, m⟩
  | .yield m => some ⟨92, m⟩
  | .syscall m => some ⟨93, m⟩
  | .rft m => some ⟨94, m⟩
  | .csrr m => some ⟨95, m⟩
  | .csrw m => some ⟨96, m⟩
  | .tlbi m => some ⟨97, m⟩
  | .subq m => some ⟨98, m⟩
  | .bsend m => some ⟨99, m⟩
  | .bfetch m => some ⟨100, m⟩
  | .bred m => some ⟨101, m⟩
  | .bexp m => some ⟨102, m⟩
  | .bwait m => some ⟨103, m⟩
  | .bgrad m => some ⟨104, m⟩
  | .bsub m => some ⟨105, m⟩
  | .enrd m => some ⟨106, m⟩
  | .enreq m => some ⟨107, m⟩
  | .qcfg m => some ⟨772, m⟩
  | .qpush m => some ⟨773, m⟩
  | .qadv m => some ⟨774, m⟩
  | .qwait m => some ⟨775, m⟩
  | .qstat m => some ⟨776, m⟩
  | .shape m => some ⟨708, m⟩
  | .cpy m => some ⟨709, m⟩
  | .cpys m => some ⟨710, m⟩
  | .echk m => some ⟨711, m⟩
  | .wsload m => some ⟨712, m⟩
  | .wsref m => some ⟨713, m⟩
  | .mcfg x m => some ⟨if x then 580 else 516, m⟩
  | .mlw x m => some ⟨if x then 581 else 517, m⟩
  | .mswp x m => some ⟨if x then 582 else 518, m⟩
  | .mstr x m => some ⟨if x then 583 else 519, m⟩
  | .mop x m => some ⟨if x then 584 else 520, m⟩
  | .mrd x m => some ⟨if x then 585 else 521, m⟩
  | .mclr x m => some ⟨if x then 586 else 522, m⟩
  | .wmax m => some ⟨644, m⟩
  | .wmin m => some ⟨645, m⟩
  | .wmed m => some ⟨646, m⟩
  | .wclmp m => some ⟨647, m⟩
  | .wssum m => some ⟨648, m⟩
  | .adjb m => some ⟨649, m⟩
  | .wtag m => some ⟨650, m⟩
  | .wrel m => some ⟨651, m⟩
  | _ => none

/-- The LIW that holds one native row and nothing else (R36): bank A bus 0, or the first bus of the cluster for the
exchange triggers. -/
def liwOf (i : Instr) : Option Liw :=
  match nativeMove i with
  | none => none
  | some m =>
    match i with
    | .cxc _ _ => some (liwOfMoveB m.dst m.mv)
    | .cbcast _ _ => some (liwOfMoveB m.dst m.mv)
    | _ => some (liwOfMove m.dst m.mv)

/-- Header A of an LIW, its low word first (R3, R37). -/
def liwHeader (l : Liw) : List (BitVec 32) :=
  [BitVec.ofBool (!l.hasB) ++ l.pop ++ l.nt ++ l.tests, l.maskA]

/-- The words of an LIW in order (R36). -/
def liwWords (l : Liw) : List (BitVec 32) :=
  liwHeader l ++ (if l.hasB then [l.maskB] else []) ++ l.moves.map encodeMove ++ l.targets ++ l.longs

/-- The LIW at the head of a byte list, and the bytes after it (R36). -/
def decodeLiw (bs : List Byte) : Option (Liw × List Byte) :=
  match takeWords 2 bs with
  | some ([lo, hi], r0) =>
    let hasB := !lo.getLsbD 31
    match takeWords (if hasB then 1 else 0) r0 with
    | some (hb, r1) =>
      let maskB := hb.headD 0
      let nt : BitVec 3 := lo.extractLsb' 20 3
      match takeWords ((setBits hi).length + (setBits maskB).length) r1 with
      | some (mw, r2) =>
        let moves := mw.map decodeMove
        match takeWords nt.toNat r2 with
        | some (targets, r3) =>
          match takeWords (moves.filter fun x => isLong x.mv).length r3 with
          | some (longs, r4) =>
            some ({ maskA := hi, hasB := hasB, pop := lo.extractLsb' 23 8, nt := nt, tests := lo.extractLsb' 0 20,
                    maskB := maskB, moves := moves, targets := targets, longs := longs }, r4)
          | none => none
        | none => none
      | none => none
    | none => none
  | _ => none

/-- The native instruction at the head of a byte list, and the bytes after it: a row of the table when the LIW holds
that one move and nothing else, otherwise the issue of the whole LIW. -/
def decodeNative (bs : List Byte) : Option (Instr × List Byte) :=
  match decodeLiw bs with
  | none => none
  | some (l, r) =>
    match l.moves with
    | [m] =>
      match moveInstr m with
      | some i => if i.wf && liwOf i = some l then some (i, r) else some (.liwIssue l, r)
      | none => some (.liwIssue l, r)
    | _ => some (.liwIssue l, r)

/-- The operation that a bundle stands for when it holds at most one: that operation, or NOP (R31). -/
def soleOp (ops : List Instr) : Option Instr :=
  match ops.filter (· ≠ .nop) with
  | [] => some .nop
  | [i] => some i
  | _ => none

/-- The slot word of a Peman row (R27, R28, R32, R34), field by field; 0 for every other row. -/
def encodeSlot : Instr → BitVec 32
  | .nop => 0x0
  | .add g d a b => g.p ++ BitVec.ofBool g.n ++ (0x1 : BitVec 6) ++ d ++ a ++ b ++ (0x0 : BitVec 6)
  | .addI g d a i => g.p ++ BitVec.ofBool g.n ++ (0x2 : BitVec 6) ++ d ++ a ++ i
  | .sub g d a b => g.p ++ BitVec.ofBool g.n ++ (0x3 : BitVec 6) ++ d ++ a ++ b ++ (0x0 : BitVec 6)
  | .mul g d a b => g.p ++ BitVec.ofBool g.n ++ (0x4 : BitVec 6) ++ d ++ a ++ b ++ (0x0 : BitVec 6)
  | .mulh g d a b u => g.p ++ BitVec.ofBool g.n ++ (0x5 : BitVec 6) ++ d ++ a ++ b ++ (0x0 : BitVec 5) ++ BitVec.ofBool u
  | .div g d a b u => g.p ++ BitVec.ofBool g.n ++ (0x6 : BitVec 6) ++ d ++ a ++ b ++ (0x0 : BitVec 5) ++ BitVec.ofBool u
  | .rem g d a b u => g.p ++ BitVec.ofBool g.n ++ (0x7 : BitVec 6) ++ d ++ a ++ b ++ (0x0 : BitVec 5) ++ BitVec.ofBool u
  | .and g d a b => g.p ++ BitVec.ofBool g.n ++ (0x8 : BitVec 6) ++ d ++ a ++ b ++ (0x0 : BitVec 6)
  | .andI g d a i => g.p ++ BitVec.ofBool g.n ++ (0x9 : BitVec 6) ++ d ++ a ++ i
  | .or g d a b => g.p ++ BitVec.ofBool g.n ++ (0xa : BitVec 6) ++ d ++ a ++ b ++ (0x0 : BitVec 6)
  | .orI g d a i => g.p ++ BitVec.ofBool g.n ++ (0xb : BitVec 6) ++ d ++ a ++ i
  | .xor g d a b => g.p ++ BitVec.ofBool g.n ++ (0xc : BitVec 6) ++ d ++ a ++ b ++ (0x0 : BitVec 6)
  | .xorI g d a i => g.p ++ BitVec.ofBool g.n ++ (0xd : BitVec 6) ++ d ++ a ++ i
  | .andn g d a b => g.p ++ BitVec.ofBool g.n ++ (0xe : BitVec 6) ++ d ++ a ++ b ++ (0x0 : BitVec 6)
  | .shl g d a b => g.p ++ BitVec.ofBool g.n ++ (0xf : BitVec 6) ++ d ++ a ++ b ++ (0x0 : BitVec 6)
  | .shlI g d a i => g.p ++ BitVec.ofBool g.n ++ (0x10 : BitVec 6) ++ d ++ a ++ (0x0 : BitVec 5) ++ i
  | .shr g d a b => g.p ++ BitVec.ofBool g.n ++ (0x11 : BitVec 6) ++ d ++ a ++ b ++ (0x0 : BitVec 6)
  | .shrI g d a i => g.p ++ BitVec.ofBool g.n ++ (0x12 : BitVec 6) ++ d ++ a ++ (0x0 : BitVec 5) ++ i
  | .sar g d a b => g.p ++ BitVec.ofBool g.n ++ (0x13 : BitVec 6) ++ d ++ a ++ b ++ (0x0 : BitVec 6)
  | .sarI g d a i => g.p ++ BitVec.ofBool g.n ++ (0x14 : BitVec 6) ++ d ++ a ++ (0x0 : BitVec 5) ++ i
  | .rol g d a b => g.p ++ BitVec.ofBool g.n ++ (0x15 : BitVec 6) ++ d ++ a ++ b ++ (0x0 : BitVec 6)
  | .rolI g d a i => g.p ++ BitVec.ofBool g.n ++ (0x16 : BitVec 6) ++ d ++ a ++ (0x0 : BitVec 5) ++ i
  | .min g d a b u => g.p ++ BitVec.ofBool g.n ++ (0x17 : BitVec 6) ++ d ++ a ++ b ++ (0x0 : BitVec 5) ++ BitVec.ofBool u
  | .max g d a b u => g.p ++ BitVec.ofBool g.n ++ (0x18 : BitVec 6) ++ d ++ a ++ b ++ (0x0 : BitVec 5) ++ BitVec.ofBool u
  | .clz g d a => g.p ++ BitVec.ofBool g.n ++ (0x19 : BitVec 6) ++ d ++ a ++ (0x0 : BitVec 11)
  | .popc g d a => g.p ++ BitVec.ofBool g.n ++ (0x1a : BitVec 6) ++ d ++ a ++ (0x0 : BitVec 11)
  | .bfx g d a b x => g.p ++ BitVec.ofBool g.n ++ (0x1b : BitVec 6) ++ d ++ a ++ b ++ (0x0 : BitVec 5) ++ BitVec.ofBool x
  | .bfi g d a b => g.p ++ BitVec.ofBool g.n ++ (0x1c : BitVec 6) ++ d ++ a ++ b ++ (0x0 : BitVec 6)
  | .sel g d a b p => g.p ++ BitVec.ofBool g.n ++ (0x1d : BitVec 6) ++ d ++ a ++ b ++ (0x0 : BitVec 2) ++ p
  | .mov g d a => g.p ++ BitVec.ofBool g.n ++ (0x1e : BitVec 6) ++ d ++ a ++ (0x0 : BitVec 11)
  | .movi g d i => g.p ++ BitVec.ofBool g.n ++ (0x1f : BitVec 6) ++ d ++ i
  | .movk g d i => g.p ++ BitVec.ofBool g.n ++ (0x20 : BitVec 6) ++ d ++ i
  | .cmp g p a b c => g.p ++ BitVec.ofBool g.n ++ (0x21 : BitVec 6) ++ (0x0 : BitVec 1) ++ p ++ a ++ b ++ (0x0 : BitVec 2) ++ c
  | .pand g d a b y x => g.p ++ BitVec.ofBool g.n ++ (0x22 : BitVec 6) ++ (0x0 : BitVec 1) ++ d ++ (0x0 : BitVec 1) ++ a ++ (0x0 : BitVec 1) ++ b ++ (0x0 : BitVec 4) ++ BitVec.ofBool y ++ BitVec.ofBool x
  | .por g d a b y x => g.p ++ BitVec.ofBool g.n ++ (0x23 : BitVec 6) ++ (0x0 : BitVec 1) ++ d ++ (0x0 : BitVec 1) ++ a ++ (0x0 : BitVec 1) ++ b ++ (0x0 : BitVec 4) ++ BitVec.ofBool y ++ BitVec.ofBool x
  | .pxor g d a b y x => g.p ++ BitVec.ofBool g.n ++ (0x24 : BitVec 6) ++ (0x0 : BitVec 1) ++ d ++ (0x0 : BitVec 1) ++ a ++ (0x0 : BitVec 1) ++ b ++ (0x0 : BitVec 4) ++ BitVec.ofBool y ++ BitVec.ofBool x
  | .pmov g d a x => g.p ++ BitVec.ofBool g.n ++ (0x25 : BitVec 6) ++ (0x0 : BitVec 1) ++ d ++ (0x0 : BitVec 1) ++ a ++ (0x0 : BitVec 10) ++ BitVec.ofBool x
  | .fadd g d a b => g.p ++ BitVec.ofBool g.n ++ (0x26 : BitVec 6) ++ d ++ a ++ b ++ (0x0 : BitVec 6)
  | .fsub g d a b => g.p ++ BitVec.ofBool g.n ++ (0x27 : BitVec 6) ++ d ++ a ++ b ++ (0x0 : BitVec 6)
  | .fmul g d a b => g.p ++ BitVec.ofBool g.n ++ (0x28 : BitVec 6) ++ d ++ a ++ b ++ (0x0 : BitVec 6)
  | .ffma g d a b => g.p ++ BitVec.ofBool g.n ++ (0x29 : BitVec 6) ++ d ++ a ++ b ++ (0x0 : BitVec 6)
  | .fmin g d a b => g.p ++ BitVec.ofBool g.n ++ (0x2a : BitVec 6) ++ d ++ a ++ b ++ (0x0 : BitVec 6)
  | .fmax g d a b => g.p ++ BitVec.ofBool g.n ++ (0x2b : BitVec 6) ++ d ++ a ++ b ++ (0x0 : BitVec 6)
  | .fcvt g d a t s => g.p ++ BitVec.ofBool g.n ++ (0x2c : BitVec 6) ++ d ++ a ++ (0x0 : BitVec 5) ++ t ++ s
  | .fcmp g p a b c => g.p ++ BitVec.ofBool g.n ++ (0x2d : BitVec 6) ++ (0x0 : BitVec 1) ++ p ++ a ++ b ++ (0x0 : BitVec 3) ++ c
  | .ldB g d b i => g.p ++ BitVec.ofBool g.n ++ (0x26 : BitVec 6) ++ d ++ b ++ i
  | .ldH g d b i => g.p ++ BitVec.ofBool g.n ++ (0x27 : BitVec 6) ++ d ++ b ++ i
  | .ldW g d b i => g.p ++ BitVec.ofBool g.n ++ (0x28 : BitVec 6) ++ d ++ b ++ i
  | .ldD g d b i => g.p ++ BitVec.ofBool g.n ++ (0x29 : BitVec 6) ++ d ++ b ++ i
  | .ldSb g d b i => g.p ++ BitVec.ofBool g.n ++ (0x2a : BitVec 6) ++ d ++ b ++ i
  | .ldSh g d b i => g.p ++ BitVec.ofBool g.n ++ (0x2b : BitVec 6) ++ d ++ b ++ i
  | .ldSw g d b i => g.p ++ BitVec.ofBool g.n ++ (0x2c : BitVec 6) ++ d ++ b ++ i
  | .stB g d b i => g.p ++ BitVec.ofBool g.n ++ (0x2d : BitVec 6) ++ d ++ b ++ i
  | .stH g d b i => g.p ++ BitVec.ofBool g.n ++ (0x2e : BitVec 6) ++ d ++ b ++ i
  | .stW g d b i => g.p ++ BitVec.ofBool g.n ++ (0x2f : BitVec 6) ++ d ++ b ++ i
  | .stD g d b i => g.p ++ BitVec.ofBool g.n ++ (0x30 : BitVec 6) ++ d ++ b ++ i
  | .vld g v b i => g.p ++ BitVec.ofBool g.n ++ (0x31 : BitVec 6) ++ v ++ b ++ i
  | .vst g v b i => g.p ++ BitVec.ofBool g.n ++ (0x32 : BitVec 6) ++ v ++ b ++ i
  | .ldg g d b r i => g.p ++ BitVec.ofBool g.n ++ (0x33 : BitVec 6) ++ d ++ b ++ r ++ i
  | .stg g d b i => g.p ++ BitVec.ofBool g.n ++ (0x34 : BitVec 6) ++ d ++ b ++ (0x0 : BitVec 2) ++ i
  | .pref g b r i => g.p ++ BitVec.ofBool g.n ++ (0x35 : BitVec 6) ++ (0x0 : BitVec 5) ++ b ++ r ++ i
  | .atomAdd g d a b => g.p ++ BitVec.ofBool g.n ++ (0x36 : BitVec 6) ++ d ++ a ++ b ++ (0x0 : BitVec 6)
  | .atomMin g d a b => g.p ++ BitVec.ofBool g.n ++ (0x36 : BitVec 6) ++ d ++ a ++ b ++ (0x1 : BitVec 6)
  | .atomMax g d a b => g.p ++ BitVec.ofBool g.n ++ (0x36 : BitVec 6) ++ d ++ a ++ b ++ (0x2 : BitVec 6)
  | .atomOr g d a b => g.p ++ BitVec.ofBool g.n ++ (0x36 : BitVec 6) ++ d ++ a ++ b ++ (0x3 : BitVec 6)
  | .atomExch g d a b => g.p ++ BitVec.ofBool g.n ++ (0x36 : BitVec 6) ++ d ++ a ++ b ++ (0x4 : BitVec 6)
  | .atomCas g d a b => g.p ++ BitVec.ofBool g.n ++ (0x36 : BitVec 6) ++ d ++ a ++ b ++ (0x5 : BitVec 6)
  | .atomFadd g d a b => g.p ++ BitVec.ofBool g.n ++ (0x36 : BitVec 6) ++ d ++ a ++ b ++ (0x6 : BitVec 6)
  | .fence g s => g.p ++ BitVec.ofBool g.n ++ (0x37 : BitVec 6) ++ (0x0 : BitVec 19) ++ s
  | .br g o => g.p ++ BitVec.ofBool g.n ++ (0x30 : BitVec 6) ++ o
  | .jmp g a => g.p ++ BitVec.ofBool g.n ++ (0x31 : BitVec 6) ++ (0x0 : BitVec 5) ++ a ++ (0x0 : BitVec 11)
  | .call g o f => g.p ++ BitVec.ofBool g.n ++ (0x32 : BitVec 6) ++ o ++ f
  | .calli g o a b => g.p ++ BitVec.ofBool g.n ++ (0x33 : BitVec 6) ++ o ++ a ++ b ++ (0x0 : BitVec 6)
  | .callr g o i => g.p ++ BitVec.ofBool g.n ++ (0x35 : BitVec 6) ++ o ++ i
  | .ret g => g.p ++ BitVec.ofBool g.n ++ (0x34 : BitVec 6) ++ (0x0 : BitVec 21)
  | .loop g c o => g.p ++ BitVec.ofBool g.n ++ (0x36 : BitVec 6) ++ c ++ o
  | .endl => 0x6e00000
  | .trap g c => g.p ++ BitVec.ofBool g.n ++ (0x38 : BitVec 6) ++ (0x0 : BitVec 5) ++ c
  | .endt g => g.p ++ BitVec.ofBool g.n ++ (0x39 : BitVec 6) ++ (0x0 : BitVec 21)
  | .fmtset g i => g.p ++ BitVec.ofBool g.n ++ (0x3a : BitVec 6) ++ (0x0 : BitVec 5) ++ i
  | .vadd g v a b k f => g.p ++ BitVec.ofBool g.n ++ (0x1 : BitVec 6) ++ v ++ a ++ b ++ k ++ f
  | .vsub g v a b k f => g.p ++ BitVec.ofBool g.n ++ (0x2 : BitVec 6) ++ v ++ a ++ b ++ k ++ f
  | .vmul g v a b k f => g.p ++ BitVec.ofBool g.n ++ (0x3 : BitVec 6) ++ v ++ a ++ b ++ k ++ f
  | .vfma g v a b k => g.p ++ BitVec.ofBool g.n ++ (0x4 : BitVec 6) ++ v ++ a ++ b ++ k ++ (0x0 : BitVec 3)
  | .vmin g v a b k f => g.p ++ BitVec.ofBool g.n ++ (0x5 : BitVec 6) ++ v ++ a ++ b ++ k ++ f
  | .vmax g v a b k f => g.p ++ BitVec.ofBool g.n ++ (0x6 : BitVec 6) ++ v ++ a ++ b ++ k ++ f
  | .vabs g v a k f => g.p ++ BitVec.ofBool g.n ++ (0x7 : BitVec 6) ++ v ++ a ++ (0x0 : BitVec 5) ++ k ++ f
  | .vneg g v a k f => g.p ++ BitVec.ofBool g.n ++ (0x8 : BitVec 6) ++ v ++ a ++ (0x0 : BitVec 5) ++ k ++ f
  | .vand g v a b k => g.p ++ BitVec.ofBool g.n ++ (0x9 : BitVec 6) ++ v ++ a ++ b ++ k ++ (0x0 : BitVec 3)
  | .vor g v a b k => g.p ++ BitVec.ofBool g.n ++ (0xa : BitVec 6) ++ v ++ a ++ b ++ k ++ (0x0 : BitVec 3)
  | .vxor g v a b k => g.p ++ BitVec.ofBool g.n ++ (0xb : BitVec 6) ++ v ++ a ++ b ++ k ++ (0x0 : BitVec 3)
  | .vshl g v a b k => g.p ++ BitVec.ofBool g.n ++ (0xc : BitVec 6) ++ v ++ a ++ b ++ k ++ (0x0 : BitVec 3)
  | .vshr g v a b k f => g.p ++ BitVec.ofBool g.n ++ (0xd : BitVec 6) ++ v ++ a ++ b ++ k ++ f
  | .vcmpF g m a b k c => g.p ++ BitVec.ofBool g.n ++ (0xe : BitVec 6) ++ (0x0 : BitVec 2) ++ m ++ a ++ b ++ k ++ c
  | .vcmpI g m a b k c => g.p ++ BitVec.ofBool g.n ++ (0xf : BitVec 6) ++ (0x0 : BitVec 2) ++ m ++ a ++ b ++ k ++ c
  | .vsel g v a b k => g.p ++ BitVec.ofBool g.n ++ (0x10 : BitVec 6) ++ v ++ a ++ b ++ k ++ (0x0 : BitVec 3)
  | .vcvt g v a s k t => g.p ++ BitVec.ofBool g.n ++ (0x11 : BitVec 6) ++ v ++ a ++ (0x0 : BitVec 2) ++ s ++ k ++ t
  | .vexp2 g v a k => g.p ++ BitVec.ofBool g.n ++ (0x12 : BitVec 6) ++ v ++ a ++ (0x0 : BitVec 5) ++ k ++ (0x0 : BitVec 3)
  | .vlog2 g v a k => g.p ++ BitVec.ofBool g.n ++ (0x13 : BitVec 6) ++ v ++ a ++ (0x0 : BitVec 5) ++ k ++ (0x0 : BitVec 3)
  | .vrcp g v a k => g.p ++ BitVec.ofBool g.n ++ (0x14 : BitVec 6) ++ v ++ a ++ (0x0 : BitVec 5) ++ k ++ (0x0 : BitVec 3)
  | .vrsq g v a k => g.p ++ BitVec.ofBool g.n ++ (0x15 : BitVec 6) ++ v ++ a ++ (0x0 : BitVec 5) ++ k ++ (0x0 : BitVec 3)
  | .vbcast g v s k => g.p ++ BitVec.ofBool g.n ++ (0x16 : BitVec 6) ++ v ++ s ++ (0x0 : BitVec 5) ++ k ++ (0x0 : BitVec 3)
  | .vperm g v a b k => g.p ++ BitVec.ofBool g.n ++ (0x17 : BitVec 6) ++ v ++ a ++ b ++ k ++ (0x0 : BitVec 3)
  | .vredadd g v a k f => g.p ++ BitVec.ofBool g.n ++ (0x18 : BitVec 6) ++ v ++ a ++ (0x0 : BitVec 5) ++ k ++ f
  | .vredmax g v a k f => g.p ++ BitVec.ofBool g.n ++ (0x19 : BitVec 6) ++ v ++ a ++ (0x0 : BitVec 5) ++ k ++ f
  | .viota g v k => g.p ++ BitVec.ofBool g.n ++ (0x1a : BitVec 6) ++ v ++ (0x0 : BitVec 10) ++ k ++ (0x0 : BitVec 3)
  | .vrng g v a b k => g.p ++ BitVec.ofBool g.n ++ (0x1b : BitVec 6) ++ v ++ a ++ b ++ k ++ (0x0 : BitVec 3)
  | .vnfin g a k => g.p ++ BitVec.ofBool g.n ++ (0x1c : BitVec 6) ++ (0x0 : BitVec 5) ++ a ++ (0x0 : BitVec 5) ++ k ++ (0x0 : BitVec 3)
  | _ => 0

/-- The words of a well-formed instruction: one slot word for a Peman row, the LIW of the move for a native row, the
words of the LIW itself; none for a step without an encoding. -/
def encode (i : Instr) : List (BitVec 32) :=
  match i with
  | .liwIssue l => liwWords l
  | .ldgNative _ _ => ((liwOf i).map liwWords).getD []
  | .stgNative _ => ((liwOf i).map liwWords).getD []
  | .fenceNative _ _ => ((liwOf i).map liwWords).getD []
  | .brNative _ => ((liwOf i).map liwWords).getD []
  | .jmpNative _ => ((liwOf i).map liwWords).getD []
  | .callNative _ => ((liwOf i).map liwWords).getD []
  | .calliNative _ => ((liwOf i).map liwWords).getD []
  | .callrNative _ => ((liwOf i).map liwWords).getD []
  | .retNative _ => ((liwOf i).map liwWords).getD []
  | .loopNative _ => ((liwOf i).map liwWords).getD []
  | .endlNative _ _ => ((liwOf i).map liwWords).getD []
  | .trapNative _ => ((liwOf i).map liwWords).getD []
  | .endtNative _ => ((liwOf i).map liwWords).getD []
  | .fmtsetNative _ => ((liwOf i).map liwWords).getD []
  | .nopNative _ => ((liwOf i).map liwWords).getD []
  | .cxc _ _ => ((liwOf i).map liwWords).getD []
  | .cbcast _ _ => ((liwOf i).map liwWords).getD []
  | .ldt _ => ((liwOf i).map liwWords).getD []
  | .ldtLs1 _ => ((liwOf i).map liwWords).getD []
  | .lset _ => ((liwOf i).map liwWords).getD []
  | .spred _ => ((liwOf i).map liwWords).getD []
  | .buck _ => ((liwOf i).map liwWords).getD []
  | .iclk _ => ((liwOf i).map liwWords).getD []
  | .icul _ => ((liwOf i).map liwWords).getD []
  | .tnow _ => ((liwOf i).map liwWords).getD []
  | .gcyrd _ => ((liwOf i).map liwWords).getD []
  | .launch _ => ((liwOf i).map liwWords).getD []
  | .join _ => ((liwOf i).map liwWords).getD []
  | .cancel _ => ((liwOf i).map liwWords).getD []
  | .cntrd _ => ((liwOf i).map liwWords).getD []
  | .corid _ => ((liwOf i).map liwWords).getD []
  | .yield _ => ((liwOf i).map liwWords).getD []
  | .syscall _ => ((liwOf i).map liwWords).getD []
  | .rft _ => ((liwOf i).map liwWords).getD []
  | .csrr _ => ((liwOf i).map liwWords).getD []
  | .csrw _ => ((liwOf i).map liwWords).getD []
  | .tlbi _ => ((liwOf i).map liwWords).getD []
  | .subq _ => ((liwOf i).map liwWords).getD []
  | .bsend _ => ((liwOf i).map liwWords).getD []
  | .bfetch _ => ((liwOf i).map liwWords).getD []
  | .bred _ => ((liwOf i).map liwWords).getD []
  | .bexp _ => ((liwOf i).map liwWords).getD []
  | .bwait _ => ((liwOf i).map liwWords).getD []
  | .bgrad _ => ((liwOf i).map liwWords).getD []
  | .bsub _ => ((liwOf i).map liwWords).getD []
  | .enrd _ => ((liwOf i).map liwWords).getD []
  | .enreq _ => ((liwOf i).map liwWords).getD []
  | .qcfg _ => ((liwOf i).map liwWords).getD []
  | .qpush _ => ((liwOf i).map liwWords).getD []
  | .qadv _ => ((liwOf i).map liwWords).getD []
  | .qwait _ => ((liwOf i).map liwWords).getD []
  | .qstat _ => ((liwOf i).map liwWords).getD []
  | .shape _ => ((liwOf i).map liwWords).getD []
  | .cpy _ => ((liwOf i).map liwWords).getD []
  | .cpys _ => ((liwOf i).map liwWords).getD []
  | .echk _ => ((liwOf i).map liwWords).getD []
  | .wsload _ => ((liwOf i).map liwWords).getD []
  | .wsref _ => ((liwOf i).map liwWords).getD []
  | .mcfg _ _ => ((liwOf i).map liwWords).getD []
  | .mlw _ _ => ((liwOf i).map liwWords).getD []
  | .mswp _ _ => ((liwOf i).map liwWords).getD []
  | .mstr _ _ => ((liwOf i).map liwWords).getD []
  | .mop _ _ => ((liwOf i).map liwWords).getD []
  | .mrd _ _ => ((liwOf i).map liwWords).getD []
  | .mclr _ _ => ((liwOf i).map liwWords).getD []
  | .wmax _ => ((liwOf i).map liwWords).getD []
  | .wmin _ => ((liwOf i).map liwWords).getD []
  | .wmed _ => ((liwOf i).map liwWords).getD []
  | .wclmp _ => ((liwOf i).map liwWords).getD []
  | .wssum _ => ((liwOf i).map liwWords).getD []
  | .adjb _ => ((liwOf i).map liwWords).getD []
  | .wtag _ => ((liwOf i).map liwWords).getD []
  | .wrel _ => ((liwOf i).map liwWords).getD []
  | .nop => [encodeSlot i]
  | .add _ _ _ _ => [encodeSlot i]
  | .addI _ _ _ _ => [encodeSlot i]
  | .sub _ _ _ _ => [encodeSlot i]
  | .mul _ _ _ _ => [encodeSlot i]
  | .mulh _ _ _ _ _ => [encodeSlot i]
  | .div _ _ _ _ _ => [encodeSlot i]
  | .rem _ _ _ _ _ => [encodeSlot i]
  | .and _ _ _ _ => [encodeSlot i]
  | .andI _ _ _ _ => [encodeSlot i]
  | .or _ _ _ _ => [encodeSlot i]
  | .orI _ _ _ _ => [encodeSlot i]
  | .xor _ _ _ _ => [encodeSlot i]
  | .xorI _ _ _ _ => [encodeSlot i]
  | .andn _ _ _ _ => [encodeSlot i]
  | .shl _ _ _ _ => [encodeSlot i]
  | .shlI _ _ _ _ => [encodeSlot i]
  | .shr _ _ _ _ => [encodeSlot i]
  | .shrI _ _ _ _ => [encodeSlot i]
  | .sar _ _ _ _ => [encodeSlot i]
  | .sarI _ _ _ _ => [encodeSlot i]
  | .rol _ _ _ _ => [encodeSlot i]
  | .rolI _ _ _ _ => [encodeSlot i]
  | .min _ _ _ _ _ => [encodeSlot i]
  | .max _ _ _ _ _ => [encodeSlot i]
  | .clz _ _ _ => [encodeSlot i]
  | .popc _ _ _ => [encodeSlot i]
  | .bfx _ _ _ _ _ => [encodeSlot i]
  | .bfi _ _ _ _ => [encodeSlot i]
  | .sel _ _ _ _ _ => [encodeSlot i]
  | .mov _ _ _ => [encodeSlot i]
  | .movi _ _ _ => [encodeSlot i]
  | .movk _ _ _ => [encodeSlot i]
  | .cmp _ _ _ _ _ => [encodeSlot i]
  | .pand _ _ _ _ _ _ => [encodeSlot i]
  | .por _ _ _ _ _ _ => [encodeSlot i]
  | .pxor _ _ _ _ _ _ => [encodeSlot i]
  | .pmov _ _ _ _ => [encodeSlot i]
  | .fadd _ _ _ _ => [encodeSlot i]
  | .fsub _ _ _ _ => [encodeSlot i]
  | .fmul _ _ _ _ => [encodeSlot i]
  | .ffma _ _ _ _ => [encodeSlot i]
  | .fmin _ _ _ _ => [encodeSlot i]
  | .fmax _ _ _ _ => [encodeSlot i]
  | .fcvt _ _ _ _ _ => [encodeSlot i]
  | .fcmp _ _ _ _ _ => [encodeSlot i]
  | .ldB _ _ _ _ => [encodeSlot i]
  | .ldH _ _ _ _ => [encodeSlot i]
  | .ldW _ _ _ _ => [encodeSlot i]
  | .ldD _ _ _ _ => [encodeSlot i]
  | .ldSb _ _ _ _ => [encodeSlot i]
  | .ldSh _ _ _ _ => [encodeSlot i]
  | .ldSw _ _ _ _ => [encodeSlot i]
  | .stB _ _ _ _ => [encodeSlot i]
  | .stH _ _ _ _ => [encodeSlot i]
  | .stW _ _ _ _ => [encodeSlot i]
  | .stD _ _ _ _ => [encodeSlot i]
  | .vld _ _ _ _ => [encodeSlot i]
  | .vst _ _ _ _ => [encodeSlot i]
  | .ldg _ _ _ _ _ => [encodeSlot i]
  | .stg _ _ _ _ => [encodeSlot i]
  | .pref _ _ _ _ => [encodeSlot i]
  | .atomAdd _ _ _ _ => [encodeSlot i]
  | .atomMin _ _ _ _ => [encodeSlot i]
  | .atomMax _ _ _ _ => [encodeSlot i]
  | .atomOr _ _ _ _ => [encodeSlot i]
  | .atomExch _ _ _ _ => [encodeSlot i]
  | .atomCas _ _ _ _ => [encodeSlot i]
  | .atomFadd _ _ _ _ => [encodeSlot i]
  | .fence _ _ => [encodeSlot i]
  | .br _ _ => [encodeSlot i]
  | .jmp _ _ => [encodeSlot i]
  | .call _ _ _ => [encodeSlot i]
  | .calli _ _ _ _ => [encodeSlot i]
  | .callr _ _ _ => [encodeSlot i]
  | .ret _ => [encodeSlot i]
  | .loop _ _ _ => [encodeSlot i]
  | .endl => [encodeSlot i]
  | .trap _ _ => [encodeSlot i]
  | .endt _ => [encodeSlot i]
  | .fmtset _ _ => [encodeSlot i]
  | .vadd _ _ _ _ _ _ => [encodeSlot i]
  | .vsub _ _ _ _ _ _ => [encodeSlot i]
  | .vmul _ _ _ _ _ _ => [encodeSlot i]
  | .vfma _ _ _ _ _ => [encodeSlot i]
  | .vmin _ _ _ _ _ _ => [encodeSlot i]
  | .vmax _ _ _ _ _ _ => [encodeSlot i]
  | .vabs _ _ _ _ _ => [encodeSlot i]
  | .vneg _ _ _ _ _ => [encodeSlot i]
  | .vand _ _ _ _ _ => [encodeSlot i]
  | .vor _ _ _ _ _ => [encodeSlot i]
  | .vxor _ _ _ _ _ => [encodeSlot i]
  | .vshl _ _ _ _ _ => [encodeSlot i]
  | .vshr _ _ _ _ _ _ => [encodeSlot i]
  | .vcmpF _ _ _ _ _ _ => [encodeSlot i]
  | .vcmpI _ _ _ _ _ _ => [encodeSlot i]
  | .vsel _ _ _ _ _ => [encodeSlot i]
  | .vcvt _ _ _ _ _ _ => [encodeSlot i]
  | .vexp2 _ _ _ _ => [encodeSlot i]
  | .vlog2 _ _ _ _ => [encodeSlot i]
  | .vrcp _ _ _ _ => [encodeSlot i]
  | .vrsq _ _ _ _ => [encodeSlot i]
  | .vbcast _ _ _ _ => [encodeSlot i]
  | .vperm _ _ _ _ _ => [encodeSlot i]
  | .vredadd _ _ _ _ _ => [encodeSlot i]
  | .vredmax _ _ _ _ _ => [encodeSlot i]
  | .viota _ _ _ => [encodeSlot i]
  | .vrng _ _ _ _ _ => [encodeSlot i]
  | .vnfin _ _ _ => [encodeSlot i]
  | _ => []

/-- The first class, in the order S0, S1, V, in which a word is legal, with its operation. -/
def decodeAnySlot (w : BitVec 32) : Option (Nat × Instr) :=
  match decodeSlot .s0 w with
  | some i => some (0, i)
  | none =>
    match decodeSlot .s1 w with
    | some i => some (1, i)
    | none =>
      match decodeSlot .v w with
      | some i => some (2, i)
      | none => none

/-- A native move word read alone: the row it is, when its LIW is well formed. -/
def decodeMoveWord (w : BitVec 32) : Option Instr :=
  match moveInstr (decodeMove w) with
  | some i => if i.wf then some i else none
  | none => none

/-- Where a table word stands: a native row, or a Peman row with its slot. One word can be legal in several places
(R26), so an order must be fixed: a word whose bits [31:27] are 0 is a Peman word with the guard "always"; any other is
a native trigger row where it is one, and a Peman word otherwise (DESIGN CHOICE, log 6). -/
def placeTableWord (w : BitVec 32) : Option (Option Nat × Instr) :=
  let peman := (decodeAnySlot w).map fun x => (some x.1, x.2)
  if w.extractLsb' 27 5 = 0 then peman
  else
    match decodeMoveWord w with
    | some i => some (none, i)
    | none => peman

/-- The instruction the decoder reads from a table word (fixed name of the host's interface). -/
def decodeTableWord (nbits w : Nat) : Option Instr :=
  if nbits = 0 then none else (placeTableWord (BitVec.ofNat 32 (w % 2 ^ nbits))).map (·.2)

end Sys2Proof
end

