-- ==== Sys2Proof/Machine/State.lean ====
section
/-! DEFINITION. The state of a Q9 package, as plain data: the unit in focus with its task, the units parked beside it, the
contexts, the memories, the fabric and the package's own registers; and the state right after module reset. -/

namespace Sys2Proof.Machine

/-- Determinism level of a launch (R20). -/
inductive Level where
  | dl0 | dl1 | dl2
  deriving DecidableEq, Repr

/-- Privilege level (R279). -/
inductive Priv where
  | user | supervisor | system
  deriving DecidableEq, Repr

/-- The faults of R287, by name. These are the spec's own faults: taking one is a next state, never a stop of the model. -/
inductive FaultCode where
  | illegal | callSig | launchFit | xlate | priv | alignShape | alignLocal | alignCopy | prot | key | timing
  | earlyRead | witnessStale | stackOvf | wsRo | mcfgBusy | queue | memUe | fabric | trap
  deriving DecidableEq, Repr

/-- A fault as a check reports it: its code, TVAL (R289), and the bus or slot of the failing move (0xFF when none). -/
structure FaultInfo where
  code : FaultCode
  tval : Word
  bus  : BitVec 8
  deriving DecidableEq, Repr

/-- The four sticky flags of R62. -/
structure Flags where
  nv  : Bool
  dz  : Bool
  ovf : Bool
  nf  : Bool
  deriving DecidableEq, Repr

/-- No flag. -/
def Flags.none : Flags := { nv := false, dz := false, ovf := false, nf := false }

/-- Where a result in flight lands: a bank A latch by port, a cluster latch by its .y port, 16 lanes of a vector register
of a cluster (R44, R155, R156), or nowhere (only its flags). -/
inductive PipeDest where
  | latchA (port : Nat)
  | latchB (port : Nat)
  | vreg (cluster reg : Nat)
  | flagsOnly
  deriving DecidableEq, Repr

/-- A result in flight (R117): readable from τ `ready`, with the value or the 16 lanes it brings, the lanes written
(R121) and the flags it sets at the end of τ `ready` − 1 (R66). -/
structure Pipe where
  ready : Nat
  dest  : PipeDest
  val   : Word
  lanes : List Lane
  mask  : BitVec 16
  flags : Flags
  deriving DecidableEq, Repr

/-- An Eddy entry (R282): a result in flight, or a pending FMTSET value, readable from τ T + d. -/
inductive EddyVal where
  | result (p : Pipe)
  | fmt (v : BitVec 16)
  deriving DecidableEq, Repr

/-- An Eddy entry with the τ from which its result is readable. -/
structure Eddy where
  ready : Nat
  val   : EddyVal
  deriving DecidableEq, Repr

/-- FMT (R63). -/
structure Fmt where
  sat   : Bool
  rm    : BitVec 2
  flags : Flags
  deriving DecidableEq, Repr

/-- The loop configuration that LSET leaves for the next loop trigger (R87, R88). -/
structure LoopCfg where
  e       : BitVec 3
  r       : Bool
  reg0    : BitVec 5
  reg1    : BitVec 5
  en0     : Bool
  en1     : Bool
  stride0 : Word
  stride1 : Word
  deriving DecidableEq, Repr

/-- The reset value of the pending configuration (R87). -/
def LoopCfg.reset : LoopCfg :=
  { e := 0, r := false, reg0 := 0, reg1 := 0, en0 := false, en1 := false, stride0 := 0, stride1 := 0 }

/-- A scalar register as it is resolved: one of the fixed registers s0 to s7, or a physical entry of the window file. -/
inductive SReg where
  | fixed (i : Nat)
  | phys (i : Nat)
  deriving DecidableEq, Repr

/-- A loop level (R87). -/
structure Loop where
  start   : Word
  stop    : Word
  after   : Word
  n       : Nat
  e       : Nat
  r       : Bool
  j       : Nat
  reg0    : SReg
  reg1    : SReg
  en0     : Bool
  en1     : Bool
  stride0 : Word
  stride1 : Word
  depth   : Nat
  deriving DecidableEq, Repr

/-- The link of a frame (R102): return address and entering slide. -/
structure Link where
  ret : Word
  o   : Nat
  deriving DecidableEq, Repr

/-- A bound queue-head latch (R157, R158). -/
structure QBind where
  j     : Nat
  addr  : Nat
  base  : Nat
  esz   : Nat
  depth : Nat
  head  : Nat
  tail  : Nat
  fill  : Nat
  deriving DecidableEq, Repr

/-- The format codes of R33. -/
inductive Format where
  | fp32 | fp16 | bf16 | e4m3 | e5m2 | int8 | int32 | d2p8
  deriving DecidableEq, Repr

/-- A shape (R168): element size, dimensions, strides, bank map. -/
structure Shape where
  esz  : Nat
  dims : List Nat
  strs : List Int
  bm   : Bool
  deriving DecidableEq, Repr

/-- How the bytes of a copy operand lie: `n` bytes in a row, or the elements of a shape in visiting order (R168, R170, R171). -/
inductive Layout where
  | row (n : Nat)
  | shape (s : Shape)
  deriving DecidableEq, Repr

/-- The address spaces an engine reads or writes (R206). -/
inductive Space where
  | local | weight | device
  deriving DecidableEq, Repr

/-- A Braid command block as read at its trigger (R330). -/
structure Block where
  kind  : Nat
  la    : Word
  doff  : Word
  cpl   : Word
  rank  : Nat
  n     : Nat
  blk   : Nat
  shard : Nat
  win   : Nat
  tag   : BitVec 16
  flags : BitVec 16
  round : Nat                  -- a BRED's round (R339)
  deriving DecidableEq, Repr

/-- What a pending engine command does (R165). -/
inductive CmdKind where
  /-- CPY or CPYS (R170, R171); the queue latch when the destination is a queue. -/
  | copy (src dst : Space) (sa da : Word) (sl dl : Layout) (queue : Option Nat)
  /-- WSLOAD (R180). -/
  | wsload (sa : Word) (w n : Nat)
  /-- MLW of array `arr` (R187): source space, address, stride, transposition, weight format. -/
  | mlw (arr : Nat) (src : Space) (sa : Word) (stride : Nat) (tr : Bool) (wf : Format)
  /-- MSWP of array `arr` (R190). -/
  | mswp (arr : Nat)
  /-- An MSTR or MOP step (R192, R195): tile, ACC, rows, the bases and strides of its operands, its formats, rows per τ. -/
  | step (arr : Nat) (mop : Bool) (tile : Nat) (acc : Bool) (rows : Nat) (a sa g sg : Nat) (af wf : Format) (r : Nat)
  /-- MRD of array `arr` (R197): its writes and flags, formed at the trigger. -/
  | mrd (arr : Nat)
  /-- A witness reduction (R246). -/
  | wit
  /-- An ADJB (R249). -/
  | adjb
  /-- A Braid block command before its start τ (R332). -/
  | braid (b : Block)
  /-- A BFETCH with a LOCAL destination, after its start τ (R332): the number of its message, destination and length. -/
  | bfetch (msg la n : Nat)
  deriving DecidableEq, Repr

/-- A pending engine command (R165). `start` and `due` are in the task's τ; `up` tells that the engine has taken it up;
`gt` is the GCYC a GT command waits for; `strict` is ST at DL0; `late` tells that its data is not in place at its due τ;
`src` and `dst` are the DPA ranges that its enqueue found for DEVICE operands (log 7); `deps` are the writes in flight that its
operands or data were read from (R229); `data` is what has been read so
far, `cells` the active plane's cells as a step found them at its start τ (R193), `writes` and `lanes` are the writes already formed, `flags` those to be set. -/
structure Cmd where
  id     : Nat
  kind   : CmdKind
  start  : Nat
  due    : Nat
  up     : Bool
  gt     : Option Nat
  strict : Bool
  late   : Bool
  src    : List (Nat × Nat)
  dst    : List (Nat × Nat)
  deps   : List Nat
  data   : List Byte
  cells  : Sparse 32
  writes : List (Nat × Byte)
  lanes  : List (Nat × Lane)
  flags  : Flags
  deriving DecidableEq, Repr

/-- An armed ECHK range (R177). -/
structure EchkRange where
  idx  : Nat
  base : Nat
  len  : Nat
  deriving DecidableEq, Repr

/-- The flags an accumulator tile records (R183). -/
structure TileFlags where
  nv  : Bool
  ovf : Bool
  deriving DecidableEq, Repr

/-- A matrix array (R183). Planes hold 4 bytes per cell (element bits [15:0] with a D2P8 scale in [15:8], format in
[26:24], as the context image has them, R284), keyed by 64 × k + n; tiles hold FP32 patterns keyed by 64 × m + n. -/
structure MxArray where
  oscale : Lane
  wf     : Format
  af     : Format
  act    : Bool
  plane0 : Sparse 32
  plane1 : Sparse 32
  tile0  : Sparse 32
  tile1  : Sparse 32
  flags0 : TileFlags
  flags1 : TileFlags
  done   : Nat                 -- completion τ of the last completed step, 0 before the first (R186)
  deriving DecidableEq, Repr

/-- An array at task start (R183). -/
def MxArray.reset : MxArray :=
  { oscale := 0x3F800000, wf := .bf16, af := .bf16, act := false, plane0 := [], plane1 := [], tile0 := [], tile1 := [],
    flags0 := ⟨false, false⟩, flags1 := ⟨false, false⟩, done := 0 }

/-- The atomics of R225. -/
inductive AtomOp where
  | add | min | max | or | exch | cas | fadd
  deriving DecidableEq, Repr

/-- An outstanding load-type access (R221): its number, the register it will write, its DPA, how many bytes, its reuse
hint, and for an atomic its operation, operand and comparand; `old` once the atomic has been performed. -/
structure LoadReq where
  id   : Nat
  dest : Option SReg
  dpa  : Nat
  size : Nat
  hint : Nat
  atom : Option AtomOp
  b    : Word
  cmp  : Word
  old  : Option Word
  mark : Nat                   -- the number of the next write when it was issued: later writes of its task come after it (R229)
  deps : List Nat              -- writes that its address or operand depends on (R229)
  deriving DecidableEq, Repr

/-- An arrival entry (R334) with its entry number. -/
structure Arrival where
  e   : Nat
  src : BitVec 32
  tag : BitVec 16
  exp : BitVec 32
  arr : BitVec 32
  deriving DecidableEq, Repr

/-- FENCE scopes (R226). -/
inductive Scope where
  | core | die | pkg | sys
  deriving DecidableEq, Repr

/-- How a unit leaves its core after an LIW that has issued: TRAP with its LIW's address and code (R291), ENDT (R273), RFT
(R292), YIELD (R274). -/
inductive Leaving where
  | trap (pc code : Word) | ended | rft (resume : Bool) | yield
  deriving DecidableEq, Repr

/-- What an LIW that has come up for issue waits for; or, `leave`, what the unit does once the writes that are due at the end of
the LIW just issued have been performed (R165, R174); or, `unit`, the native unit that is performed next for the CALLR just issued, with the
window entries that R317 leaves open after it (R320). -/
inductive Wait where
  | load | fence (s : Scope) | tlbi | qwait | join | barrier | bwait | endt | rft
  | syscall (service : Nat) | room | call (cmd : Nat) | memory (dpa : Nat) | leave (l : Leaving) | unit (n keep top : Nat)
  deriving DecidableEq, Repr

/-- TSTAT (R259). -/
structure TStat where
  taint : Bool
  gang  : Bool
  prio  : BitVec 2
  wl    : Bool
  dl    : Level
  deriving DecidableEq, Repr

/-- A unit's footprint (R148), in bytes. -/
structure Foot where
  tile  : Nat
  queue : Nat
  wit   : Nat
  spill : Nat
  deriving DecidableEq, Repr

/-- F (R148). -/
def Foot.size (f : Foot) : Nat := f.tile + f.queue + f.wit + f.spill

/-- The registers a task's frames use (R101, R102). `glob` holds s1 to s7 by number, `win` the 256 physical entries. -/
structure Frames where
  glob   : Sparse 64
  win    : Sparse 64
  fb     : Nat
  rb     : Nat
  low    : Nat                 -- the depth of the oldest resident frame (R102, R108)
  depth  : Nat
  bsbase : Nat
  bslim  : Nat
  links  : List Link
  deriving DecidableEq, Repr

/-- The sequencer (R87) and the locked instruction-cache lines (R98). -/
structure Sequencer where
  pc     : Word
  tau    : Nat
  cfg    : LoopCfg
  loops  : List Loop
  ilocks : List Word
  deriving DecidableEq, Repr

/-- The units' ports (R41 to R43): bank A operand ports and latches by port number; bank B ones by 16 × port + lane;
`unw` holds, by .y port, the lanes whose written bit is 0 (R121). -/
structure Ports where
  a   : Sparse 64
  b   : Sparse 32
  unw : Sparse 16
  deriving DecidableEq, Repr

/-- An entry of the substitution table (R314). -/
structure SubstEntry where
  digest : BitVec 256
  unit   : BitVec 16
  near   : Bool
  cver   : BitVec 16
  na     : Nat
  nr     : Nat
  eb     : BitVec 32
  ranges : List (BitVec 32)
  deriving DecidableEq, Repr

/-- The CALLR at which a fault in a restart=entry routine is reported (R318): the callee's depth, the CALLR's address, and
s2, RB and the number of loop levels just before it. -/
structure Restart where
  depth : Nat
  pc    : Word
  s2    : Word
  rb    : Nat
  loops : Nat
  deriving DecidableEq, Repr

/-- A frame in which a routine runs that a CALLR has called (R317 to R320): its depth; the entry whose unit stands in the body's
place, `none` for the body itself; an entry of the routine, for its numbers of arguments and results; and what stood at the CALLR: FMT's
flags, the flags that the caller's results and commands in flight still set and the CLRs pending, by their τ, the caller's outstanding
accesses by number, the output ranges and the result registers. -/
structure CallFrame where
  depth  : Nat
  entry  : Option SubstEntry
  known  : Option SubstEntry
  flags  : Flags
  owed   : List (Nat × Flags)
  clears : List Nat
  loads  : List Nat
  bytes  : List (Nat × List Byte)
  regs   : List (SReg × Word)
  deriving DecidableEq, Repr

/-- The architectural state of a task (R254, R284): registers, sequencer, ports, results in flight, LOCAL, queues,
pending commands, arrays, witness tags, loads, arrival entries, status. -/
structure Task where
  fr      : Frames
  sq      : Sequencer
  preds   : BitVec 16
  masks   : Sparse 128
  vregs   : Sparse 32
  ports   : Ports
  pipe    : List Pipe
  eddy    : List Eddy
  fmt     : Fmt
  fmtPend : List (Nat × BitVec 16)
  lmem    : Sparse 8
  foot    : Foot
  queues  : List QBind
  cmds    : List Cmd
  nextCmd : Nat
  echk    : List EchkRange
  mxa     : MxArray
  mxb     : MxArray
  tagOn   : BitVec 256
  tagGen  : Sparse 8
  loads   : List LoadReq
  arrivals : List Arrival
  tstat   : TStat
  rounds  : Nat
  restart : Option Restart
  calls   : List CallFrame     -- the frames in which routines run, innermost first (R317 to R320)
  deriving DecidableEq, Repr

/-- What a unit runs as (R279, R288, R303, R341). -/
inductive UnitKind where
  | user | handler | firmware | errorEntry | tannery
  deriving DecidableEq, Repr

/-- Where a unit stands. `trapped` units wait for their handler (R288), `out` units are switched out (R281), at a point or
at a wait. -/
inductive UnitStatus where
  | ready | waiting (w : Wait) | trapped | out (w : Option Wait)
  deriving DecidableEq, Repr

/-- A unit (R254): where it belongs and runs, how it stands, and its task. -/
structure QUnit where
  uid      : Nat
  ctx      : Nat
  launch   : Nat
  index    : Nat
  core     : Nat
  lcore    : Nat
  pages    : BitVec 512        -- the 4 KiB pages of its core's scratchpad that hold its footprint, in ascending order (R149, R258)
  kind     : UnitKind
  priv     : Priv
  status   : UnitStatus
  task     : Task
  serves   : Option Nat        -- a handler: the unit it serves (R288)
  trap     : Option (FaultInfo × Word)  -- a trapped unit: its fault and the PC of the faulting LIW (R289, R290)
  preempt  : Bool              -- pre-emption has been requested (R280)
  atPoint  : Bool              -- the last LIW left a pre-emption point (R97)
  cancel   : Bool              -- cancellation has been requested (R272)
  barReg   : Bool              -- the barrier LIW that waits has registered its arrival (R271)
  since    : Option Nat        -- the GCYC at which the waiting LIW first came up (R337)
  energy   : Nat               -- metered nJ since task start (R363)
  nextG    : Nat               -- the earliest GCYC of its next issue (R79, R362)
  lag      : Nat               -- τ of the bundle or routine that has issued which still pass before the next LIW (R79, R312)
  run      : Nat               -- LIWs since the last pre-emption point (R97)
  answer   : Option Word       -- SYSTEM's answer to a SYSCALL, once given (R293)
  seen     : List Nat          -- writes in flight that the task has performed or read from (R229, R230)
  fenced   : List (Nat × Scope)  -- those that a fence orders before its later accesses
  floor    : List (Nat × Nat)  -- by location, how much of its home order the task has read or written (R228)
  origins  : List (Nat × List Nat)  -- by register or port, the writes in flight that its value was read from (R229)
  deriving DecidableEq, Repr

/-- A weight-store region's state (R179). -/
inductive Region where
  | free | read (c : Nat) | write
  deriving DecidableEq, Repr

/-- A launch (R254, R256) and how far it has come. -/
structure Launch where
  h       : Nat
  graph   : Nat
  entry   : Nat
  preds   : List Nat
  record  : Word
  u       : Nat
  kdesc   : Word
  lid     : Nat
  est     : Nat
  seed    : Word
  foot    : Foot
  rset    : BitVec 96
  wset    : BitVec 96
  args    : List Word
  wl      : Bool
  gang    : Bool
  prio    : Nat
  level   : Level
  granted : Option Nat          -- GCYC of the grant (R264)
  boost   : Nat                 -- levels risen by aging (R267)
  reserve : Bool                -- a gang that has reserved its dies (R268)
  placed  : List Nat            -- unit indices placed
  completed : Nat
  cancelled : Nat
  arrived : Nat
  barrier : List (Nat × Nat)    -- (unit index, arrivals registered) (R271)
  counted : List Nat            -- unit indices counted (R254)
  late    : List Nat            -- writes of counted units that were in flight when they were counted (R260, R271)
  behind  : List (Nat × Nat)    -- gangs (context, handle) that held a reservation when aging promoted this launch (R275)
  taint   : Bool
  dead    : Bool                -- cancelled as a whole (R272)
  deriving DecidableEq, Repr

/-- A graph, a phase or a job (R254). `members` are handles of the level below; `issued` is `none` while not fixed. -/
structure Group where
  h         : Nat
  members   : List Nat
  issued    : Option Nat
  completed : Nat
  cancelled : Nat
  parent    : Nat               -- phase of a graph, job of a phase, 0 for none
  after     : Nat               -- predecessor phase of a graph's launches, 0 for none (R260)
  number    : Word              -- phase number (R254)
  cond      : Word              -- Braid condition block of a phase, 0 for none (R344)
  born      : Nat               -- GCYC of creation
  incomplete : Bool             -- the deadline passed (R344)
  met       : List Nat          -- entries of the condition block that have been met (R254, R344)
  ended     : Bool              -- the phase has finished (R254)
  dead      : Bool
  counted   : List Nat
  deriving DecidableEq, Repr

/-- What a packet in work waits for (R260). -/
inductive PacketWork where
  | done (status : Nat) (handle : Nat)
  | object (handle : Nat)
  | signal (addr value : Word)
  | loading (m : Nat)
  deriving DecidableEq, Repr

/-- A packet in work, with its completion word's address. -/
structure Packet where
  cpl  : Word
  work : PacketWork
  deriving DecidableEq, Repr

/-- A function descriptor in the descriptor map (R110, R114). -/
structure Desc where
  addr  : Word
  entry : Word
  cls   : BitVec 16
  succ  : List Word
  deriving DecidableEq, Repr

/-- A routine record as bound at link (R53, R313). -/
structure Routine where
  id      : BitVec 16
  entry   : Word
  restart : Bool
  digest  : BitVec 256
  eq      : Option SubstEntry
  nearU   : Option SubstEntry
  deriving DecidableEq, Repr

/-- A linked module (R114): where its texts lie, the bytes of its texts by address, the LIW starts, its descriptors and
routines. `live` is set at publication; `unload` when the runtime has asked for its removal (R115). -/
structure Module where
  id       : Nat
  live     : Bool
  unload   : Bool
  native   : Word × Nat
  peman    : Word × Nat
  text     : Sparse 8
  starts   : List Word
  exports  : List (Nat × Word)   -- global symbols: name tag and value (log 25)
  descs    : List Desc
  routines : List Routine
  deriving DecidableEq, Repr

/-- A window (R328). -/
inductive Window where
  | region (base : Word) (size : Nat)
  | queue (core j : Nat)
  deriving DecidableEq, Repr

/-- A shard-map entry (R328). -/
structure ShardMap where
  sid : Nat
  pri : Nat
  mir : Nat
  b   : Nat
  e   : Nat
  deriving DecidableEq, Repr

/-- A context's Braid tables (R328). -/
structure BraidTab where
  rank    : Nat
  ranks   : Nat
  pkgOf   : List Nat
  windows : List (Nat × Window)
  groups  : List (Nat × List Nat)
  shards  : List ShardMap
  deriving DecidableEq, Repr

/-- The host-visible rings of a context (R354). -/
structure Rings where
  cqBase : Word
  cqSize : Nat
  cqHead : Nat
  cqTail : Nat
  evBase : Word
  evSize : Nat
  evHead : Nat
  evTail : Nat
  evLost : Nat
  xfBase : Word
  xfSize : Nat
  xfHead : Nat
  xfTail : Nat
  braidTab : Word
  deriving DecidableEq, Repr

/-- Energy of a context (R360, R363). -/
structure Energy where
  grant : Nat
  nextGrant : Nat
  committed : Nat
  metered : Nat
  asked : Bool
  deriving DecidableEq, Repr

/-- A context (R279, R294, R354). -/
structure Ctx where
  id      : Nat
  dies    : List Nat
  level   : Level
  ptroot  : Word
  tvec    : Word
  share   : Nat
  served  : Nat
  hadWork : Bool
  energy  : Energy
  rings   : Rings
  braid   : Option BraidTab
  launches : List Launch
  graphs  : List Group
  phases  : List Group
  jobs    : List Group
  serials : Nat × Nat × Nat × Nat
  packets : List Packet
  modules : List Module
  keys    : List Nat
  rounds  : List (Nat × Nat × Nat)     -- (group, TAG, BREDs issued) (R339)
  resend  : List Msg                   -- its commands that have no status yet (R342, R346)
  subs    : List (Nat × Nat × Nat)     -- (SID, WIN, step-word offset) of its own subscriptions (R344, R345)
  nextMsg : Nat
  tdisp   : Bool
  deriving DecidableEq, Repr

/-- A DEVICE write in flight (R228, R230): its bytes by DPA, its writer (no unit: another agent, R233), the die it left, the
writes that causally precede it with the scope that orders them, whether it has its place in home order, and the dies that have applied it. -/
structure DevWrite where
  id    : Nat
  bytes : List (Nat × Byte)
  ctx   : Nat
  uid   : Option Nat
  die   : Nat
  deps  : List (Nat × Scope)
  homed : Option Nat
  dies  : List Nat
  deriving DecidableEq, Repr

/-- A line of a die's L2 (R215 to R217, R299, R300). `line` is DPA >> 7; `hurt` is an
error not yet detected: `true` when it is uncorrectable; `leaving` tells that its eviction has met that error; `dram` holds what
DRAM has in the bytes that a dirty line has overwritten. Way 24 stands for a DRAM word no way holds. -/
structure L2Line where
  die    : Nat
  way    : Nat
  line   : Nat
  owner  : Nat
  dirty  : Bool
  rrpv   : Nat
  poison : Bool
  hurt   : Option Bool
  leaving : Bool
  dram   : List (Nat × Byte)
  deriving DecidableEq, Repr

/-- Soft-error registers (R300). -/
structure Health where
  pages   : Nat
  qways   : Nat
  ueSeen  : Bool
  ceSeen  : Bool
  replace : Bool
  errlog  : List Word          -- the record V marks, then the queue: 16 at most
  waiting : List Word          -- detections that wait for room
  frames  : List Nat           -- 64 KiB frames retired
  quar    : List (Nat × Nat × Nat)   -- (die, set group, way)
  badCores : List Nat
  badDies : List Nat
  repairs : List (Nat × Nat × List Nat)  -- (core, array, failed physical rows)
  wsPoison : List (Nat × Nat)  -- (die, region)
  deriving DecidableEq, Repr

/-- A contribution held at a primary (R342). -/
structure Held where
  src : Nat
  o   : Origin
  step : Nat
  blk : Nat
  g   : List Lane
  deriving DecidableEq, Repr

/-- A subscription (R345). -/
structure Subscr where
  o       : Origin
  win     : Nat
  doff    : Word
  stepOff : Nat
  fmt     : Nat
  tag     : BitVec 16
  node    : Nat
  deriving DecidableEq, Repr

/-- A shard this package serves (R340): its context, its descriptor's DEVICE address, whether it serves as a mirror, and
the node's working state. A block is named by its step and its index. -/
structure Shard where
  ctx       : Nat
  sid       : Nat
  desc      : Word
  mirror    : Bool
  held      : List Held                  -- contributions until their block is confirmed (R342)
  started   : List (Nat × Nat)           -- blocks whose rule has been called (R343)
  done      : List (Nat × Nat)           -- blocks applied
  confirmed : List (Nat × Nat)           -- blocks confirmed
  hyp       : List (Nat × List Byte)     -- hyperparameter snapshots by step (R343)
  refused   : List (Nat × Nat × Nat)     -- (rank, step, block) refused as EARLY (R342)
  outs      : List (Nat × Nat × List Lane) -- w' of the blocks of steps LAST and LAST + 1 as they were applied (R346)
  subs      : List Subscr
  deriving DecidableEq, Repr

/-- A BRED round that gathers its contributions (R339). -/
structure Round where
  group : Nat
  ctx   : Nat
  tag   : BitVec 16
  round : Nat
  got   : List Msg
  flags : Flags                -- those of the fold, once it has run
  left  : List Nat             -- members whose delivery is awaited, once it has run
  fails : List (Nat × Nat)     -- (member, status) of deliveries that failed
  deriving DecidableEq, Repr

/-- A fabric message that waits at this package; `again` is the GCYC before which a refused arrival is not retried (R335). `begun`:
its writes have been entered, with their numbers and whether it is to be counted as an arrival once they are applied. -/
structure InMsg where
  msg   : Msg
  again : Nat
  begun : Option (List Nat × Bool)
  deriving DecidableEq, Repr

/-- The fabric as this package sees it (R326, R327, R346). -/
structure Fabric where
  ports    : List (Nat × Nat)      -- (port, version trained)
  inbox    : List InMsg
  outbox   : List (Nat × Msg)      -- (destination package, message)
  lastSeq  : List (Nat × Nat)      -- (source package, next sequence number expected)
  held     : List Flit             -- flits that wait for an earlier one
  failed   : List Nat              -- packages declared failed
  heard    : List (Nat × Nat)      -- (package, GCYC of the last flit from it)
  stuck    : List (Nat × Nat × Msg) -- (context, destination rank, message) that no route carries yet
  owed     : List (QUnit × Cmd)    -- commands that have started and whose unit was terminated before their snapshot (R332)
  behind   : List (Nat × Nat × Origin × Msg) -- (unit, command, …) puts behind one of the unit's to that window that has not started (R333)
  keepalives : Nat
  rounds   : List Round
  shards   : List Shard
  deriving DecidableEq, Repr

/-- What the module tells management and the host (R356, R365, R368): alerts, signed measurements, interrupts, and the answers to the
host's reads of a context's register block, supervisor registers and DEVICE memory, and to management's of DEV_HEALTH, temperature and
power. -/
inductive Report where
  | alert (what : String)
  | spdm (answer : List Byte)
  | msix (ctx : Nat)
  | register (ctx off : Nat) (value : Word)
  | supervisor (ctx csr : Nat) (value : Word)
  | data (ctx : Nat) (bytes : List Byte)
  | module (health : Word) (celsius watts : Nat)
  deriving DecidableEq, Repr

/-- What the host, its runtime or SYSTEM's scheduler asks for beside the rows of the opcode table (log 5): reads of a register block
(R6, R354), writes and reads of DEVICE memory (R356), a context's supervisor registers and TLBI (R279), IDE streams (R357), the SPDM version (R367),
the start of a firmware procedure on a system core (R303), management's reads of the module's health (R368). -/
inductive HostOp where
  | readRegister (c off : Nat)
  | writeDevice (c : Nat) (va : Word) (bytes : List Byte)
  | readDevice (c : Nat) (va : Word) (n : Nat)
  | setSupervisor (c csr : Nat) (v : Word)
  | readSupervisor (c csr : Nat)
  | ideUp (c : Nat)
  | ideDown (c : Nat)
  | spdmVersion (v : Nat)
  | firmware (core : Nat) (entry : Word)
  | tlbi (c : Nat) (va : Word) (all : Bool)
  | readModule
  deriving DecidableEq, Repr

/-- An outside input still to come (log 5): a step of the opcode table, or a request of the host. -/
inductive Input where
  | row (i : Instr)
  | op (o : HostOp)
  deriving DecidableEq, Repr

/-- The devices around the compute cores. -/
structure Board where
  links    : List (Nat × Nat × Nat)      -- (link, generation, width)
  slots    : List Nat                    -- key slots loaded
  table    : Nat × List SubstEntry       -- substitution table: version, entries
  budget   : Nat
  fwText   : Sparse 8
  fwStarts : List Word
  fwLocal  : List (Nat × Sparse 8)       -- firmware scratchpad of each system core
  errBusy  : Bool                        -- an error entry runs (R304)
  sysDown  : List Nat                    -- system cores that a fault has stopped (R303)
  recovery : Bool
  stopped  : Bool
  reports  : List Report
  host     : Sparse 8                    -- host memory by IOVA
  refresh  : Option Nat                  -- bank under refresh (R181)
  interval : Nat                         -- the last energy interval begun (R360)
  meters   : List ((Nat × Nat) × Nat)    -- nJ by core and engine of it (0 the core itself), modulo 2^64 (R359)
  ide      : List Nat                    -- contexts whose function has an IDE stream (R357)
  msiWait  : List Nat                    -- contexts whose MSI-X waits for its link (R353)
  hostWrites : List (Nat × Nat)          -- (context, number) of the host's writes that may be in flight (R356)
  spdm     : Nat                         -- the SPDM version in use, 12 or 13 (R367)
  celsius  : Option Nat                  -- the die temperature that the thermal limit last met (R368)
  deriving DecidableEq, Repr

/-- A cached translation (R214): of a core, or shared by a die; context, page number, page size, and the entry. -/
structure TlbEntry where
  shared : Bool
  place  : Nat
  ctx    : Nat
  page   : Nat
  big    : Bool
  entry  : Word
  deriving DecidableEq, Repr

/-- The memories (R206): the four dies' views of DEVICE memory by DPA, their weight stores, the writes in flight. -/
structure Memory where
  view0  : Sparse 8
  view1  : Sparse 8
  view2  : Sparse 8
  view3  : Sparse 8
  ws0    : Sparse 8
  ws1    : Sparse 8
  ws2    : Sparse 8
  ws3    : Sparse 8
  writes : List DevWrite
  nextW  : Nat
  nextHome : Nat
  l2     : List L2Line
  einj   : Word                          -- EINJ (R300)
  tlb    : List TlbEntry
  regions : List (Nat × Nat × Region)    -- (die, region, state), FREE when not listed
  residue : List (Nat × Nat × Sparse 8)  -- (core, context, bytes that its units left there, by place in the scratchpad) (R258)
  deriving DecidableEq, Repr

/-- The machine. `on` tells whether `cur` is in focus; every other unit stands in `parked`. `tick` counts the free choices
made and `inbox` holds the outside inputs still to come, oldest first (the model's own fields, log 2, log 5). -/
structure State where
  on     : Bool
  cur    : QUnit
  parked : List QUnit
  nextUid : Nat
  ctxs   : List Ctx
  mem    : Memory
  health : Health
  fabric : Fabric
  board  : Board
  gcyc   : Nat
  tick   : Nat
  inbox  : List Input
  deriving DecidableEq, Repr

/-- Why the model's machine stops with a fault. -/
inductive Fault where
  /-- The module has stopped at a thermal stop above 115 °C (R368). Raised by every step of such a module but MODULE_RESET. Safe. -/
  | moduleStopped
  deriving DecidableEq, Repr

/-- Why the model refuses a step. -/
inductive Refusal where
  /-- The instruction has no meaning in the model yet. Raised by its arm of `exec`. Safe. -/
  | notModelled (mnemonic : String)
  deriving DecidableEq, Repr

/-- Frames at task start, before the launch record's arguments (R101). -/
def Frames.reset : Frames :=
  { glob := [], win := [], fb := 0, rb := 0, low := 0, depth := 0, bsbase := 0, bslim := 0, links := [] }

/-- The task state a unit starts with, before its launch record is applied (R258). -/
def Task.reset : Task :=
  { fr := Frames.reset,
    sq := { pc := 0, tau := 0, cfg := LoopCfg.reset, loops := [], ilocks := [] },
    preds := 0, masks := [], vregs := [], ports := { a := [], b := [], unw := [] }, pipe := [], eddy := [],
    fmt := { sat := false, rm := 0, flags := Flags.none }, fmtPend := [], lmem := [],
    foot := { tile := 0, queue := 0, wit := 0, spill := 0 }, queues := [], cmds := [], nextCmd := 0, echk := [],
    mxa := MxArray.reset, mxb := MxArray.reset, tagOn := 0, tagGen := [], loads := [], arrivals := [],
    tstat := { taint := false, gang := false, prio := 0, wl := false, dl := .dl0 }, rounds := 0, restart := none, calls := [] }

/-- A unit with the task state of R258 and no place yet. -/
def QUnit.reset : QUnit :=
  { uid := 0, ctx := 0, launch := 0, index := 0, core := 0, lcore := 0, pages := 0, kind := .user, priv := .user, status := .ready,
    task := Task.reset, serves := none, trap := none, preempt := false, atPoint := false, cancel := false, barReg := false,
    since := none, energy := 0, nextG := 0, lag := 0, run := 0, answer := none, seen := [], fenced := [], floor := [],
    origins := [] }

/-- The machine right after module reset: GCYC 0 (R13), no context, no unit, nothing pending, registers at their reset
values (R300, R354, R360); what the spec gives no reset value stands at the value of log 10 and log 11. -/
def State.reset : State :=
  { on := false, cur := QUnit.reset, parked := [], nextUid := 0, ctxs := [],
    mem := { view0 := [], view1 := [], view2 := [], view3 := [], ws0 := [], ws1 := [], ws2 := [], ws3 := [],
             writes := [], nextW := 0, nextHome := 0, l2 := [], einj := 0, tlb := [], regions := [], residue := [] },
    health := { pages := 0, qways := 0, ueSeen := false, ceSeen := false, replace := false, errlog := [], waiting := [],
                frames := [], quar := [], badCores := [], badDies := [], repairs := [], wsPoison := [] },
    fabric := { ports := [], inbox := [], outbox := [], lastSeq := [], held := [], failed := [], heard := [], stuck := [], owed := [], behind := [], keepalives := 0,
                rounds := [], shards := [] },
    board := { links := [], slots := [], table := (0, []), budget := 2250000, fwText := [], fwStarts := [], fwLocal := [],
               errBusy := false, sysDown := [], recovery := false, stopped := false, reports := [], host := [],
               refresh := some 0, interval := 0, meters := [], ide := [], msiWait := [], hostWrites := [], spdm := 13, celsius := none },
    gcyc := 0, tick := 0, inbox := [] }

end Sys2Proof.Machine
end

