-- ==== Sys2Proof/Machine/Fp.lean ====
section
/-! DEFINITION. Number formats and exact arithmetic (03_numbers.md): decoding to exact values, rounding (R59, R60),
the FP32 helpers (R78), conversions (R67, R68), D2P8 (R69 to R72), group sums (R73, R74), the elementary functions of
R135 and the counter-based generator (R77). -/

namespace Sys2Proof.Machine

/-- Rounding modes (R59), as FMT.RM codes them (R63). -/
inductive Rm where
  | rne | rz | ru | rd
  deriving DecidableEq, Repr

/-- FMT.RM (R63). -/
def rmOf (c : BitVec 2) : Rm :=
  match c.toNat with
  | 0 => .rne
  | 1 => .rz
  | 2 => .ru
  | _ => .rd

/-- The union of two flag sets. -/
def Flags.or (a b : Flags) : Flags :=
  { nv := a.nv || b.nv, dz := a.dz || b.dz, ovf := a.ovf || b.ovf, nf := a.nf || b.nf }

/-- NV alone. -/
def flagNv : Flags := { Flags.none with nv := true }
/-- DZ alone. -/
def flagDz : Flags := { Flags.none with dz := true }
/-- OF alone, when `b`. -/
def flagOf (b : Bool) : Flags := { Flags.none with ovf := b }

/-- Mantissa field width M (R56). -/
def mbits : Format → Nat
  | .fp32 => 23
  | .fp16 => 10
  | .bf16 => 7
  | .e4m3 => 3
  | .e5m2 => 2
  | _ => 0

/-- Exponent field width (R56). -/
def ebits : Format → Nat
  | .fp32 => 8
  | .fp16 => 5
  | .bf16 => 8
  | .e4m3 => 4
  | .e5m2 => 5
  | _ => 0

/-- Exponent bias (R56). -/
def fbias (f : Format) : Nat := 2 ^ (ebits f - 1) - 1

/-- Element size in bytes: FP32 and INT32 four, FP16 and BF16 two, the others one (R153, R187). -/
def fsize : Format → Nat
  | .fp32 => 4
  | .int32 => 4
  | .fp16 => 2
  | .bf16 => 2
  | _ => 1

/-- The format is a float format of R56. -/
def isFloat : Format → Bool
  | .int8 => false
  | .int32 => false
  | .d2p8 => false
  | _ => true

/-- The format has infinities (R56). -/
def hasInf (f : Format) : Bool := f ≠ .e4m3

/-- The format codes of R33. -/
def formatOf (c : Nat) : Format :=
  match c with
  | 0 => .fp32
  | 1 => .fp16
  | 2 => .bf16
  | 3 => .e4m3
  | 4 => .e5m2
  | 5 => .int8
  | 6 => .int32
  | _ => .d2p8

/-- The code of a format (R33). -/
def formatCode : Format → Nat
  | .fp32 => 0
  | .fp16 => 1
  | .bf16 => 2
  | .e4m3 => 3
  | .e5m2 => 4
  | .int8 => 5
  | .int32 => 6
  | .d2p8 => 7

/-- A float taken apart: NaN with sign and mantissa field, infinity, or the exact value (−1)^neg × m × 2^e. -/
inductive FVal where
  | nan (neg : Bool) (frac : Nat)
  | inf (neg : Bool)
  | fin (neg : Bool) (m : Nat) (e : Int)
  deriving DecidableEq, Repr

/-- The value of a bit pattern in a float format (R56, R57). Bits above the format are ignored. -/
def unpack (f : Format) (x : Nat) : FVal :=
  let mb := mbits f
  let eb := ebits f
  let frac := x % 2 ^ mb
  let ex := (x / 2 ^ mb) % 2 ^ eb
  let neg := (x / 2 ^ (mb + eb)) % 2 = 1
  let emin : Int := 1 - (fbias f : Int)
  if ex = 2 ^ eb - 1 && hasInf f then
    if frac = 0 then .inf neg else .nan neg frac
  else if ex = 2 ^ eb - 1 && frac = 2 ^ mb - 1 then .nan neg frac
  else if ex = 0 then .fin neg frac (emin - mb)
  else .fin neg (frac + 2 ^ mb) ((ex : Int) - fbias f - mb)

/-- The sign bit of a format in place. -/
def signBit (f : Format) (neg : Bool) : Nat := if neg then 2 ^ (mbits f + ebits f) else 0

/-- Infinity of a format that has one. -/
def infBits (f : Format) (neg : Bool) : Nat := signBit f neg + (2 ^ ebits f - 1) * 2 ^ mbits f

/-- The largest finite value of a format (R56). -/
def maxBits (f : Format) (neg : Bool) : Nat :=
  if hasInf f then infBits f neg - 1
  else signBit f neg + (2 ^ ebits f - 1) * 2 ^ mbits f + (2 ^ mbits f - 2)

/-- The NaN a conversion into E4M3 makes from an overflow or an infinity, with its sign (R58, R60). -/
def e4m3Nan (neg : Bool) : Nat := signBit .e4m3 neg + 127

/-- What an overflow gives (R59, R60). -/
def overflowBits (f : Format) (neg : Bool) (rm : Rm) (satb : Bool) : Nat :=
  if satb then maxBits f neg
  else
    let out := if hasInf f then infBits f neg else e4m3Nan neg
    match rm with
    | .rne => out
    | .rz => maxBits f neg
    | .ru => if neg then maxBits f neg else out
    | .rd => if neg then out else maxBits f neg

/-- Whether rounding goes up in magnitude: the kept part's parity, the remainder against half, and whether anything lies
below the remainder (R59). -/
def roundsUp (rm : Rm) (neg : Bool) (odd : Bool) (rem half : Nat) (sticky : Bool) : Bool :=
  match rm with
  | .rne => half < rem || (half = rem && 0 < half && (sticky || odd))
  | .rz => false
  | .ru => !neg && (0 < rem || sticky)
  | .rd => neg && (0 < rem || sticky)

/-- round(v, F, rm, satb) for v = (−1)^neg × (m × 2^e + what `sticky` tells lies below), with whether it overflowed
(R59, R60). -/
def roundTo (f : Format) (rm : Rm) (satb : Bool) (neg : Bool) (m : Nat) (e : Int) (sticky : Bool) : Nat × Bool :=
  let p : Nat := mbits f + 1
  let emin : Int := 1 - (fbias f : Int)
  let qmin : Int := emin - mbits f
  let top : Int := (Nat.log2 m : Int) + e
  let q : Int := (if emin ≤ top then top else emin) - mbits f
  let sh : Int := q - e
  let k : Nat := if sh ≤ 0 then m * 2 ^ (-sh).toNat else m / 2 ^ sh.toNat
  let rem : Nat := if sh ≤ 0 then 0 else m % 2 ^ sh.toNat
  let half : Nat := if sh ≤ 0 then 0 else 2 ^ (sh.toNat - 1)
  let k1 := if roundsUp rm neg (k % 2 = 1) rem half sticky then k + 1 else k
  let k2 := if k1 = 2 ^ p then k1 / 2 else k1
  let q2 : Int := if k1 = 2 ^ p then q + 1 else q
  let ef : Nat := (q2 - qmin).toNat + 1          -- the exponent field of a normal result
  let maxE : Nat := if hasInf f then 2 ^ ebits f - 2 else 2 ^ ebits f - 1
  let tooBig := maxE < ef || (!hasInf f && ef = maxE && k2 = 2 ^ p - 1)
  if k2 < 2 ^ mbits f then (signBit f neg + k2, false)
  else if tooBig then (overflowBits f neg rm satb, true)
  else (signBit f neg + ef * 2 ^ mbits f + (k2 - 2 ^ mbits f), false)

/-- An exact dyadic number m × 2^e. -/
structure Dy where
  m : Int
  e : Int
  deriving DecidableEq, Repr

/-- The signed value of a finite float. -/
def dyOf (neg : Bool) (m : Nat) (e : Int) : Dy := { m := if neg then -(m : Int) else m, e := e }

/-- The exact sum. -/
def Dy.add (a b : Dy) : Dy :=
  let e := if a.e ≤ b.e then a.e else b.e
  { m := a.m * 2 ^ (a.e - e).toNat + b.m * 2 ^ (b.e - e).toNat, e := e }

/-- The exact product. -/
def Dy.mul (a b : Dy) : Dy := { m := a.m * b.m, e := a.e + b.e }

/-- round of a non-zero dyadic; a zero keeps the sign `negZero` gives. -/
def Dy.round (f : Format) (rm : Rm) (satb negZero : Bool) (v : Dy) : Nat × Bool :=
  if v.m = 0 then (signBit f negZero, false)
  else roundTo f rm satb (v.m < 0) v.m.natAbs v.e false

/-- The canonical NaN of FP32 (R58). -/
def canonNan : Lane := 0x7FC00000

/-- Force the quiet bit (R58). -/
def quiet (x : Lane) : Lane := x ||| 0x00400000

/-- The FP32 pattern is a NaN. -/
def isNan32 (x : Lane) : Bool := x.extractLsb' 23 8 = 0xFF && x.extractLsb' 0 23 ≠ 0

/-- The FP32 pattern is an infinity. -/
def isInf32 (x : Lane) : Bool := x.extractLsb' 23 8 = 0xFF && x.extractLsb' 0 23 = 0

/-- Invert the sign (R78): of anything but a NaN. -/
def negate32 (x : Lane) : Lane := if isNan32 x then x else x ^^^ 0x80000000

/-- Infinity of FP32. -/
def inf32 (neg : Bool) : Lane := if neg then 0xFF800000 else 0x7F800000

/-- The sign an exact zero sum takes (R61), from the addends' signs when both are zeros. -/
def zeroSumNeg (rm : Rm) (bothZero sa sb : Bool) : Bool :=
  if bothZero && sa = sb then sa else rm = .rd

/-- A rounded FP32 result with its OF. -/
def fin32 (r : Nat × Bool) : Lane × Flags := (BitVec.ofNat 32 r.1, flagOf r.2)

/-- fp_add (R78). -/
def fpAdd (rm : Rm) (a b : Lane) : Lane × Flags :=
  match unpack .fp32 a.toNat, unpack .fp32 b.toNat with
  | .nan _ _, _ => (quiet a, Flags.none)
  | _, .nan _ _ => (quiet b, Flags.none)
  | .inf x, .inf y => if x = y then (a, Flags.none) else (canonNan, flagNv)
  | .inf _, _ => (a, Flags.none)
  | _, .inf _ => (b, Flags.none)
  | .fin sa ma ea, .fin sb mb eb =>
    fin32 (((dyOf sa ma ea).add (dyOf sb mb eb)).round .fp32 rm false (zeroSumNeg rm (ma = 0 && mb = 0) sa sb))

/-- FP32 subtraction (R78): the subtrahend's sign is inverted unless it is a NaN. -/
def fpSub (rm : Rm) (a b : Lane) : Lane × Flags := fpAdd rm a (negate32 b)

/-- fp_mul (R78). -/
def fpMul (rm : Rm) (a b : Lane) : Lane × Flags :=
  match unpack .fp32 a.toNat, unpack .fp32 b.toNat with
  | .nan _ _, _ => (quiet a, Flags.none)
  | _, .nan _ _ => (quiet b, Flags.none)
  | .inf x, .inf y => (inf32 (x ^^ y), Flags.none)
  | .inf x, .fin y m _ => if m = 0 then (canonNan, flagNv) else (inf32 (x ^^ y), Flags.none)
  | .fin x m _, .inf y => if m = 0 then (canonNan, flagNv) else (inf32 (x ^^ y), Flags.none)
  | .fin sa ma ea, .fin sb mb eb =>
    fin32 (((dyOf sa ma ea).mul (dyOf sb mb eb)).round .fp32 rm false (sa ^^ sb))

/-- fp_fma (R78): a × b + c with one rounding. -/
def fpFma (rm : Rm) (a b c : Lane) : Lane × Flags :=
  match unpack .fp32 a.toNat, unpack .fp32 b.toNat, unpack .fp32 c.toNat with
  | .nan _ _, _, _ => (quiet a, Flags.none)
  | _, .nan _ _, _ => (quiet b, Flags.none)
  | _, _, .nan _ _ => (quiet c, Flags.none)
  | .fin sa ma ea, .fin sb mb eb, .fin sc mc ec =>
    let p := (dyOf sa ma ea).mul (dyOf sb mb eb)
    fin32 ((p.add (dyOf sc mc ec)).round .fp32 rm false (zeroSumNeg rm (p.m = 0 && mc = 0) (sa ^^ sb) sc))
  | .fin _ _ _, .fin _ _ _, .inf _ => (c, Flags.none)
  | va, vb, vc =>
    let zeroOf : FVal → Bool := fun v => match v with
      | .fin _ m _ => m = 0
      | _ => false
    let negOf : FVal → Bool := fun v => match v with
      | .fin s _ _ => s
      | .inf s => s
      | .nan s _ => s
    let s := negOf va ^^ negOf vb
    if zeroOf va || zeroOf vb then (canonNan, flagNv)
    else match vc with
      | .inf t => if t = s then (inf32 s, Flags.none) else (canonNan, flagNv)
      | _ => (inf32 s, Flags.none)

/-- The order of FMIN and FMAX on numbers (R128): −0 lies below +0. -/
def orderKey (x : Lane) : Int :=
  if x.getLsbD 31 then -(x.extractLsb' 0 31).toNat - 1 else (x.extractLsb' 0 31).toNat

/-- The order of FCMP on numbers (R130): +0 equals −0. -/
def cmpKey (x : Lane) : Int :=
  if x.getLsbD 31 then -((x.extractLsb' 0 31).toNat : Int) else (x.extractLsb' 0 31).toNat

/-- FMIN (R128). -/
def fpMin (a b : Lane) : Lane :=
  if isNan32 a then quiet a else if isNan32 b then quiet b
  else if orderKey b < orderKey a then b else a

/-- FMAX (R128). -/
def fpMax (a b : Lane) : Lane :=
  if isNan32 a then quiet a else if isNan32 b then quiet b
  else if orderKey a < orderKey b then b else a

/-- FCMP (R130), under codes 0 through 7 of R33. -/
def fpCmp (cc : Nat) (a b : Lane) : Bool :=
  let un := isNan32 a || isNan32 b
  match cc with
  | 0 => !un && cmpKey a = cmpKey b
  | 1 => un || cmpKey a ≠ cmpKey b
  | 2 => !un && cmpKey a < cmpKey b
  | 3 => !un && cmpKey a ≤ cmpKey b
  | 4 => !un && cmpKey b < cmpKey a
  | 5 => !un && cmpKey b ≤ cmpKey a
  | 6 => un
  | _ => !un

/-- Round a finite value to an integer under a mode (R68). -/
def roundInt (rm : Rm) (neg : Bool) (m : Nat) (e : Int) : Int :=
  let k : Nat :=
    if 0 ≤ e then m * 2 ^ e.toNat
    else
      let s := (-e).toNat
      let q := m / 2 ^ s
      if roundsUp rm neg (q % 2 = 1) (m % 2 ^ s) (2 ^ (s - 1)) false then q + 1 else q
  if neg then -(k : Int) else k

/-- The NaN of a format with a sign and the source's mantissa field (R58, narrowing and widening). -/
def convNan (src dst : Format) (neg : Bool) (frac : Nat) : Nat :=
  if dst = .e4m3 then e4m3Nan neg
  else
    let ms := mbits src
    let md := mbits dst
    let f := if md ≤ ms then frac / 2 ^ (ms - md) else frac * 2 ^ (md - ms)
    let q := 2 ^ (md - 1)
    infBits dst neg + (if (f / q) % 2 = 1 then f else f + q)

/-- The signed value of an integer format's bits. -/
def intVal (f : Format) (x : Nat) : Int :=
  if f = .int8 then (BitVec.ofNat 8 x).toInt else (BitVec.ofNat 32 x).toInt

/-- Clamp to a range: sat of R78. -/
def satInt (x lo hi : Int) : Int := if x < lo then lo else if hi < x then hi else x

/-- The lower end of an integer format. -/
def intLo (f : Format) : Int := if f = .int8 then -128 else -2147483648
/-- The upper end of an integer format. -/
def intHi (f : Format) : Int := if f = .int8 then 127 else 2147483647

/-- An integer clamped into a format, as lane bits (R119), with NV when it was out of range (R68). -/
def toInt32 (f : Format) (v : Int) : Lane × Flags :=
  let c := satInt v (intLo f) (intHi f)
  (BitVec.ofInt 32 c, if c = v then Flags.none else flagNv)

/-- cvt (R67, R68, R78) between the formats other than D2P8. The result stands in a lane as R119 places it. -/
def cvt (x : Lane) (src dst : Format) (rm : Rm) (satb : Bool) : Lane × Flags :=
  let sb := satb && dst ≠ .fp32
  if isFloat src then
    match unpack src x.toNat with
    | .nan s fr =>
      if isFloat dst then (BitVec.ofNat 32 (convNan src dst s fr), Flags.none) else (0, flagNv)
    | .inf s =>
      if isFloat dst then
        (BitVec.ofNat 32 (if hasInf dst then infBits dst s else if sb then maxBits dst s else e4m3Nan s), Flags.none)
      else (BitVec.ofInt 32 (if s then intLo dst else intHi dst), flagNv)
    | .fin s m e =>
      if isFloat dst then fin32 (if m = 0 then (signBit dst s, false) else roundTo dst rm sb s m e false)
      else toInt32 dst (roundInt rm s m e)
  else
    let v := intVal src x.toNat
    if isFloat dst then
      fin32 (if v = 0 then (0, false) else roundTo dst rm sb (v < 0) v.natAbs 0 false)
    else (BitVec.ofInt 32 (satInt v (intLo dst) (intHi dst)), Flags.none)

/-! ### D2P8 -/

/-- The value of one D2P8 term in units of 2^−6 (R69). -/
def d2Term (s : Bool) (k : Nat) : Int := if k = 7 then 0 else if s then -(2 ^ (6 - k) : Int) else 2 ^ (6 - k)

/-- term1 + term2 of a D2P8 byte in units of 2^−6 (R69). -/
def d2Value (x : Byte) : Int :=
  d2Term (x.getLsbD 7) (x.extractLsb' 4 3).toNat + d2Term (x.getLsbD 3) (x.extractLsb' 0 3).toNat

/-- The exact value of a D2P8 element under its block scale; `none` for an element of a NaN block (R69, R70). -/
def d2Exact (x scale : Byte) : Option Dy :=
  if scale = 0xFF then none else some { m := d2Value x, e := (scale.toNat : Int) - 133 }

/-- A D2P8 element decoded to FP32 (R70). -/
def d2Decode (x scale : Byte) : Lane × Flags :=
  match d2Exact x scale with
  | none => (canonNan, Flags.none)
  | some v => fin32 (v.round .fp32 .rne false false)

/-- The canonical encodings in the order of R72: zero, one term, two terms of equal signs, two terms of unequal signs. -/
def d2Canon : List Byte :=
  let ks := List.range 7
  [(0x77 : Byte)]
    ++ [false, true].flatMap (fun s => ks.map fun k => BitVec.ofNat 8 ((if s then 128 else 0) + 16 * k + 7))
    ++ [false, true].flatMap (fun s => ks.flatMap fun k1 => (ks.filter (k1 ≤ ·)).map fun k2 =>
        BitVec.ofNat 8 ((if s then 136 else 0) + 16 * k1 + k2))
    ++ [false, true].flatMap (fun s => ks.flatMap fun k1 => (ks.filter (k1 < ·)).map fun k2 =>
        BitVec.ofNat 8 ((if s then 128 else 8) + 16 * k1 + k2))

/-- The distance of an exact value from a D2P8 value, scaled by a common power of two. -/
def d2Dist (x : Dy) (v : Int) : Nat :=
  let e := if x.e ≤ -6 then x.e else -6
  (x.m * 2 ^ (x.e - e).toNat - v * 2 ^ (-6 - e).toNat).natAbs

/-- The better of two candidates for a value: nearer, then of smaller magnitude (R71); the earlier one on a full tie, so
that the first canonical encoding of a value stands. -/
def d2Better (x : Dy) (a b : Byte) : Byte :=
  let da := d2Dist x (d2Value a)
  let db := d2Dist x (d2Value b)
  if db < da then b
  else if da = db && (d2Value b).natAbs < (d2Value a).natAbs then b
  else a

/-- The canonical byte nearest to an exact value (R71, R72). -/
def d2Encode (x : Dy) : Byte := d2Canon.foldl (d2Better x) 0x77

/-- floor(log2) of a finite non-zero magnitude. -/
def floorLog2 (m : Nat) (e : Int) : Int := (Nat.log2 m : Int) + e

/-- The magnitude order of a list of FP32 patterns: floor(log2 M) of the largest magnitude, `none` when all are zero. -/
def maxLog2 (xs : List Lane) : Option Int :=
  let m := xs.foldl (fun a x => max a (x.extractLsb' 0 31).toNat) 0
  match unpack .fp32 m with
  | .fin _ k e => if k = 0 then none else some (floorLog2 k e)
  | _ => none

/-- A finite value scaled by 2^s. -/
def scaled (x : Lane) (s : Int) : Dy :=
  match unpack .fp32 x.toNat with
  | .fin n m e => dyOf n m (e + s)
  | _ => { m := 0, e := 0 }

/-- VCVT to D2P8 of one block: the scale byte and the elements (R71). -/
def d2Block (xs : List Lane) : Byte × List Byte :=
  if xs.any (fun x => x.extractLsb' 23 8 = 0xFF) then (0xFF, xs.map fun _ => 0x77)
  else
    let e : Int := match maxLog2 xs with
      | none => 127
      | some l => if l + 127 < 0 then 0 else l + 127
    (BitVec.ofInt 8 e, xs.map fun x => d2Encode (scaled x (127 - e)))

/-! ### Matrix-array arithmetic -/

/-- An array operand: NaN, infinity or an exact value. -/
inductive XVal where
  | nan
  | inf (neg : Bool)
  | fin (v : Dy)
  deriving DecidableEq, Repr

/-- An operand from a float format's bits. -/
def xOf (f : Format) (x : Nat) : XVal :=
  match unpack f x with
  | .nan _ _ => .nan
  | .inf s => .inf s
  | .fin s m e => .fin (dyOf s m e)

/-- An operand from a D2P8 element and its scale (R75). -/
def xOfD2 (x scale : Byte) : XVal :=
  match d2Exact x scale with
  | none => .nan
  | some v => .fin v

/-- A product's part in a group sum: NaN input, invalid 0 × ∞, an infinity, or an exact value (R74). -/
inductive Prod where
  | nan | invalid | inf (neg : Bool) | fin (v : Dy)
  deriving DecidableEq, Repr

/-- The sign of an exact value. -/
def Dy.neg? (v : Dy) : Bool := v.m < 0

/-- One product (R74). -/
def xMul : XVal → XVal → Prod
  | .nan, _ => .nan
  | _, .nan => .nan
  | .inf a, .inf b => .inf (a ^^ b)
  | .inf a, .fin v => if v.m = 0 then .invalid else .inf (a ^^ v.neg?)
  | .fin v, .inf b => if v.m = 0 then .invalid else .inf (v.neg? ^^ b)
  | .fin a, .fin b => .fin (a.mul b)

/-- A group sum (R73, R74): its FP32 value with NV and OF. -/
def groupSum (ps : List Prod) : Lane × Flags :=
  let bad := ps.any (· = .invalid) || (ps.any (· = .inf true) && ps.any (· = .inf false))
  let nan := ps.any (· = .nan)
  let fl : Flags := if bad then flagNv else Flags.none
  if bad || nan then (canonNan, fl)
  else if ps.any (· = .inf true) then (inf32 true, fl)
  else if ps.any (· = .inf false) then (inf32 false, fl)
  else
    let s : Dy := ps.foldl (fun (a : Dy) (p : Prod) => match p with
      | .fin v => a.add v
      | _ => a) { m := 0, e := 0 }
    fin32 (s.round .fp32 .rne false false)

/-! ### Elementary functions (R135) -/

/-- floor(sqrt n), bit by bit from bit `b` down. -/
def isqrtFrom : Nat → Nat → Nat → Nat
  | 0, r, n => if (r + 1) * (r + 1) ≤ n then r + 1 else r
  | b + 1, r, n =>
    let c := r + 2 ^ (b + 1)
    isqrtFrom b (if c * c ≤ n then c else r) n

/-- floor(sqrt n). -/
def isqrt (n : Nat) : Nat := isqrtFrom (Nat.log2 n / 2 + 1) 0 n

/-- 1 / (m × 2^e) rounded once. -/
def recip (rm : Rm) (neg : Bool) (m : Nat) (e : Int) : Nat × Bool :=
  let n := Nat.log2 m + 40
  roundTo .fp32 rm false neg (2 ^ n / m) (-e - n) (2 ^ n % m ≠ 0)

/-- 1 / sqrt(m × 2^e) rounded once. -/
def rsqrt (rm : Rm) (m : Nat) (e : Int) : Nat × Bool :=
  let odd := e % 2 ≠ 0
  let m1 := if odd then 2 * m else m
  let e1 := if odd then e - 1 else e
  let n := Nat.log2 m1 / 2 + 40
  let s := isqrt (2 ^ (2 * n) / m1)
  roundTo .fp32 rm false false s (-(e1 / 2) - n) (s * s * m1 ≠ 2 ^ (2 * n))

/-- The working precision of the transcendental functions, in fraction bits (log 15). -/
def workBits : Nat := 300

/-- The product of 2^(2^−i) over the set fraction bits, i rising from 1: `root` is the current 2^(2^−i) and `bits` the
fraction's bits, highest first. -/
def exp2Bits : List Bool → Nat → Nat → Nat
  | [], _, acc => acc
  | b :: bs, root, acc =>
    exp2Bits bs (isqrt (root * 2 ^ workBits)) (if b then acc * root / 2 ^ workBits else acc)

/-- The `n` bits of a number below 2^n, highest first. -/
def bitsDown (x : Nat) : Nat → List Bool
  | 0 => []
  | n + 1 => x.testBit n :: bitsDown x n

/-- 2^v for v = ±m × 2^e, rounded once. -/
def exp2Round (rm : Rm) (neg : Bool) (m : Nat) (e : Int) : Nat × Bool :=
  let s := (-e).toNat
  let v : Int := if neg then -(m : Int) else m
  let n : Int := if 0 ≤ e then v * 2 ^ (min e.toNat 160) else v / 2 ^ s
  let f : Nat := if 0 ≤ e then 0 else (v % 2 ^ s).toNat
  let nc : Int := satInt n (-400) 400
  if f = 0 then roundTo .fp32 rm false false 1 nc false
  else
    let root := isqrt (2 ^ (2 * workBits + 1))
    roundTo .fp32 rm false false (exp2Bits (bitsDown f s) root (2 ^ workBits)) (nc - workBits) true

/-- The first `k` fraction bits of log2 y, for y in [1, 2) with `workBits` fraction bits. -/
def log2Bits : Nat → Nat → Nat → Nat
  | 0, _, acc => acc
  | k + 1, y, acc =>
    let y2 := y * y / 2 ^ workBits
    if 2 ^ (workBits + 1) ≤ y2 then log2Bits k (y2 / 2) (2 * acc + 1) else log2Bits k y2 (2 * acc)

/-- log2 (m × 2^e), rounded once, m ≠ 0. -/
def log2Round (rm : Rm) (m : Nat) (e : Int) : Nat × Bool :=
  let l := Nat.log2 m
  let n : Int := (l : Int) + e
  if m = 2 ^ l then
    if n = 0 then (0, false) else roundTo .fp32 rm false (n < 0) n.natAbs 0 false
  else
    let b := log2Bits 120 (m * 2 ^ (workBits - l)) 0
    let v : Int := n * 2 ^ 120 + b
    if v < 0 then roundTo .fp32 rm false true (v.natAbs - 1) (-120) true
    else roundTo .fp32 rm false false v.natAbs (-120) true

/-- VEXP2 (R135). -/
def vexp2 (rm : Rm) (x : Lane) : Lane × Flags :=
  match unpack .fp32 x.toNat with
  | .nan _ _ => (quiet x, Flags.none)
  | .inf s => (if s then 0 else inf32 false, Flags.none)
  | .fin n m e => if m = 0 then (0x3F800000, Flags.none) else fin32 (exp2Round rm n m e)

/-- VLOG2 (R135). -/
def vlog2 (rm : Rm) (x : Lane) : Lane × Flags :=
  match unpack .fp32 x.toNat with
  | .nan _ _ => (quiet x, Flags.none)
  | .inf s => if s then (canonNan, flagNv) else (inf32 false, Flags.none)
  | .fin n m e =>
    if m = 0 then (inf32 true, flagDz)
    else if n then (canonNan, flagNv)
    else fin32 (log2Round rm m e)

/-- VRCP (R135). -/
def vrcp (rm : Rm) (x : Lane) : Lane × Flags :=
  match unpack .fp32 x.toNat with
  | .nan _ _ => (quiet x, Flags.none)
  | .inf s => (if s then 0x80000000 else 0, Flags.none)
  | .fin n m e => if m = 0 then (inf32 n, flagDz) else fin32 (recip rm n m e)

/-- VRSQ (R135). -/
def vrsq (rm : Rm) (x : Lane) : Lane × Flags :=
  match unpack .fp32 x.toNat with
  | .nan _ _ => (quiet x, Flags.none)
  | .inf s => if s then (canonNan, flagNv) else (0, Flags.none)
  | .fin n m e =>
    if m = 0 then (inf32 n, flagDz)
    else if n then (canonNan, flagNv)
    else fin32 (rsqrt rm m e)

/-! ### Lane reductions and the generator -/

/-- One level of the tree of R76: neighbours are combined, the even one on the left. -/
def pairUp (op : Lane → Lane → Lane × Flags) : List (Lane × Flags) → List (Lane × Flags)
  | (a, fa) :: (b, fb) :: r =>
    let c := op a b
    (c.1, (fa.or fb).or c.2) :: pairUp op r
  | l => l

/-- `n` levels of the tree of R76, from the leaves. -/
def treeLevels (op : Lane → Lane → Lane × Flags) : Nat → List (Lane × Flags) → List (Lane × Flags)
  | 0, l => l
  | n + 1, l => treeLevels op n (pairUp op l)

/-- The reduction of 128 lanes (R76). -/
def laneTree (op : Lane → Lane → Lane × Flags) (xs : List Lane) : Lane × Flags :=
  (treeLevels op 7 (xs.map fun x => (x, Flags.none))).headD (0, Flags.none)

/-- VREDADD (`mx = false`) or VREDMAX over lanes whose masked-off members have been replaced by the identity (R76). -/
def reduceLanes (mx int : Bool) (rm : Rm) (xs : List Lane) : Lane × Flags :=
  match mx, int with
  | false, false => laneTree (fpAdd rm) xs
  | false, true => laneTree (fun a b => (a + b, Flags.none)) xs
  | true, false => laneTree (fun a b => (fpMax a b, Flags.none)) xs
  | true, true => laneTree (fun a b => (if a.toInt < b.toInt then b else a, Flags.none)) xs

/-- The identity of a reduction (R76). -/
def reduceIdent (mx int : Bool) : Lane :=
  match mx, int with
  | false, false => 0x80000000
  | false, true => 0
  | true, false => 0xFF800000
  | true, true => 0x80000000

/-- bmix64 (R77). -/
def bmix64 (x : Word) : Word :=
  let x := x ^^^ (x >>> 30)
  let x := x * 0xBF58476D1CE4E5B9
  let x := x ^^^ (x >>> 27)
  let x := x * 0x94D049BB133111EB
  x ^^^ (x >>> 31)

/-- cbg (R77). -/
def cbg (seed stream index : Word) : Word :=
  bmix64 (seed + bmix64 (stream ^^^ (index * 0x9E3779B97F4A7C15)))

end Sys2Proof.Machine
end

