-- ==== Sys2Proof/Config.lean ====
section
/-! DEFINITION. What the spec leaves open and the model leaves free: opaque constants without a body, so that nothing in
Lean can evaluate them or prove a value of them. Each is named in the assumption log. -/

namespace Sys2Proof.Config

/-- Which of the enabled real-time events comes next at the n-th free choice (log 2). -/
opaque pick : Nat → Nat

/-- How many τ beyond one the translation of a Peman bundle takes (R312), by unit and τ, and a routine performed whole (R317), by
choice; log 3. -/
opaque bundleTau : Nat → Nat

/-- Whether a cached translation still stands when it is asked for (R214; log 24). -/
opaque tlbKeeps : Nat → Bool

/-- Whether a cached translation comes to reflect the table as it stands now (R214; log 24): step, page. -/
opaque tlbDrift : Nat → Nat → Bool

/-- Whether the fetch of a line misses in the instruction cache, whose organisation is not given (R98; log 24). -/
opaque icacheMiss : Nat → Bool

/-- Where in a core's scratchpad the bytes that an earlier unit of the context left lie for a new unit (R258; log 9). -/
opaque placeShift : Nat → Nat

/-- On which of the cores that could take it a unit is resumed (R24, R286; log 9). -/
opaque resumeAt : Nat → Nat

/-- Whether an engine command's data is missing at its due τ (R174; log 18). -/
opaque dataLate : Nat → Bool

/-- The nJ that one event adds to the meters, fixed per part number and not given (R359; log 19): an LIW (0), a trigger (1), a
scratchpad bank access (2), an engine byte (3), a fabric flit (4). -/
opaque energyCoef : Nat → Nat

/-- How many scratchpad bank accesses an LIW makes, which the spec does not count (R359; log 19). -/
opaque bankAccesses : Nat → Nat

/-- How many scratchpad bank accesses or engine bytes a native unit that is performed whole adds to a meter (R320, R359; log 19). -/
opaque unitEvents : Nat → Nat

/-- How many triggers the LIWs of a bundle's translation hold (R312, R359; log 19). -/
opaque bundleTriggers : Nat → Nat

/-- How many GCYC the core stalls for a cause whose clocks the spec does not count: a miss in the instruction cache or a translation
cache, the fetch phase of ICLK, bank conflicts, spills and fills (R18, R80, R105, R147, R214; log 19). -/
opaque stall : Nat → Nat

/-- The word a state outside the promises of R317 holds after a substituted routine (log 13). -/
opaque afterUnit : Nat → Word

/-- What ERRLOG.LINE holds for an error in no DPA's word: of a weight store, of core state (R300; log 20). -/
opaque errLine : Nat → Nat

/-- Whether a signature verifies under Benica's SLH-DSA key (R314, R364; log 17). -/
opaque signatureOk : List Byte → List Byte → Bool

/-- The SHA-256 of the key that is fused into the package (R364; log 17). -/
opaque fusedKeyHash : BitVec 256

/-- The rollback counter fused into the package (R364; log 17). -/
opaque fusedRollback : Nat

/-- The signature the device-identity key gives a measurement report (R365; log 17). -/
opaque deviceSign : List Byte → List Byte

/-- The measurement of the Stitcher (R365; log 17). -/
opaque stitcherHash : BitVec 256

/-- Whether the part implements a native unit other than mb.dot4.bf16's 0x0041 (R315, R322; log 16). -/
opaque hasUnit : Nat → Bool

/-- The number of the native unit of a Mboand routine by its ID; the spec gives mb.dot4.bf16's alone (R322, R323; log 16). -/
opaque unitOf : Nat → Nat

/-- Whether the unit of mb.mx.mm, mb.mx.mmt or mb.mx.op sets FMT's NV and OF for the sums of its steps (R203; log 16). -/
opaque unitFlags : Nat → Bool

/-- Where the further D2P8 weight blocks of mb.mx.mm and mb.mx.mmt lie (R203; log 16): base, stride, block. -/
opaque blockPlace : Nat → Nat → Nat → Nat

/-- The value of a symbol of the Mboand library, by its name tag (R114; log 25). -/
opaque librarySymbol : Nat → Option Nat

/-- Which LIW of an object's native section is the native entry of its i-th descriptor, when the descriptor's own entry lies in
the object's Peman text (R17, R110; log 25): object address, index. -/
opaque nativeEntry : Nat → Nat → Nat

/-- The bytes that an agent outside the model writes into the slots of a queue before it advances its tail (R162; log 55): step,
place in the slots. -/
opaque agentByte : Nat → Nat → Byte

/-- How far, in units in the last place, and whether upward, a NEAR unit's output lies from its body's (R319; log 14). -/
opaque nearUlp : Nat → Nat × Bool

/-- The flags of FMT after a NEAR unit (R319; log 14): NV, DZ, OF, NF. -/
opaque nearFlags : Nat → Bool × Bool × Bool × Bool

/-- The port through which a package is reached, and the lowest Braid version of the further links of that route (R326;
log 28). -/
opaque route : Nat → Nat × Nat

/-- A die temperature that management reads before the thermal limit has met one (R368; log 26). -/
opaque celsius : Nat → Nat

/-- The power that the module draws when management reads it, in watts (R368; log 26). -/
opaque watts : Nat → Nat

end Sys2Proof.Config
end

