-- ==== Sys2Proof/Machine/Sparse.lean ====
section
/-! DEFINITION. Sparse maps: reading, writing, their canonical form, and little-endian accesses of several bytes (R3). -/

namespace Sys2Proof.Machine

/-- Read a key; 0 where it is not listed. -/
def sget {w : Nat} : Sparse w → Nat → BitVec w
  | [], _ => 0
  | (a, v) :: r, k => if a = k then v else sget r k

/-- Insert a value before the first greater key, or in place of the key's own entry. -/
def sins {w : Nat} : Sparse w → Nat → BitVec w → Sparse w
  | [], k, v => [(k, v)]
  | (a, x) :: r, k, v =>
    if k < a then (k, v) :: (a, x) :: r
    else if a = k then (k, v) :: r
    else (a, x) :: sins r k v

/-- Write a key. Writing 0, which an unlisted key reads as, removes the entry. -/
def sset {w : Nat} (m : Sparse w) (k : Nat) (v : BitVec w) : Sparse w :=
  if v = 0 then m.filter (fun x => x.1 ≠ k) else sins m k v

/-- Write several keys, in order. -/
def ssetMany {w : Nat} (m : Sparse w) (l : List (Nat × BitVec w)) : Sparse w :=
  l.foldl (fun m x => sset m x.1 x.2) m

/-- Every key of a map is above a bound and the keys rise, no value is 0. -/
def swfFrom {w : Nat} : Nat → Sparse w → Bool
  | _, [] => true
  | lo, (a, v) :: r => lo ≤ a && v ≠ 0 && swfFrom (a + 1) r

/-- The canonical form: keys strictly rising and no entry equal to 0. -/
def swf {w : Nat} (m : Sparse w) : Bool := swfFrom 0 m

/-- Keep the keys below a bound. -/
def sbelow {w : Nat} (m : Sparse w) (n : Nat) : Sparse w := m.filter fun x => x.1 < n

/-- The `n` bytes from address `a` upward. -/
def readBytes (m : Sparse 8) (a : Nat) : Nat → List Byte
  | 0 => []
  | n + 1 => sget m a :: readBytes m (a + 1) n

/-- Bytes as a number, least significant first (R3). -/
def leNat : List Byte → Nat
  | [] => 0
  | b :: bs => b.toNat + 256 * leNat bs

/-- The low `n` bytes of a number, least significant first (R3). -/
def natLe : Nat → Nat → List Byte
  | 0, _ => []
  | n + 1, x => BitVec.ofNat 8 x :: natLe n (x / 256)

/-- `n` bytes from `a` as a number (R3). -/
def readLe (m : Sparse 8) (a n : Nat) : Nat := leNat (readBytes m a n)

/-- Store bytes from address `a` upward. -/
def writeBytes (m : Sparse 8) (a : Nat) : List Byte → Sparse 8
  | [] => m
  | b :: bs => writeBytes (sset m a b) (a + 1) bs

/-- Pair bytes with rising addresses. -/
def atAddr (a : Nat) : List Byte → List (Nat × Byte)
  | [] => []
  | b :: bs => (a, b) :: atAddr (a + 1) bs

/-- The 32-bit words of a byte list, least significant byte first. -/
def lanesOf : List Byte → List Lane
  | b0 :: b1 :: b2 :: b3 :: bs => (b3 ++ b2 ++ b1 ++ b0) :: lanesOf bs
  | _ => []

/-- The bytes of 32-bit words. -/
def bytesOfLanes (l : List Lane) : List Byte := l.flatMap fun x => natLe 4 x.toNat

/-- Two half-open ranges share a number. -/
def overlap (a n b m : Nat) : Bool := a < b + m && b < a + n && 0 < n && 0 < m

end Sys2Proof.Machine
end

