-- ==== Sys2Proof/Machine/Mem.lean ====
section
/-! DEFINITION. DEVICE memory (11_memory_model.md): page-table walks and access checks (R209 to R214), the L2's lines
(R215 to R219), the four dies' views and the writes in flight between them (R227 to R233). -/

namespace Sys2Proof.Machine

/-- What a die's agents see of DEVICE memory, by DPA (R228). -/
def Memory.view (m : Memory) (d : Nat) : Sparse 8 :=
  match d with
  | 0 => m.view0
  | 1 => m.view1
  | 2 => m.view2
  | _ => m.view3

/-- Replace a die's view. -/
def Memory.setView (m : Memory) (d : Nat) (v : Sparse 8) : Memory :=
  match d with
  | 0 => { m with view0 := v }
  | 1 => { m with view1 := v }
  | 2 => { m with view2 := v }
  | _ => { m with view3 := v }

/-- A die's weight store (R178). -/
def Memory.ws (m : Memory) (d : Nat) : Sparse 8 :=
  match d with
  | 0 => m.ws0
  | 1 => m.ws1
  | 2 => m.ws2
  | _ => m.ws3

/-- Replace a die's weight store. -/
def Memory.setWs (m : Memory) (d : Nat) (v : Sparse 8) : Memory :=
  match d with
  | 0 => { m with ws0 := v }
  | 1 => { m with ws1 := v }
  | 2 => { m with ws2 := v }
  | _ => { m with ws3 := v }

/-- The die of a DPA, modulo the four dies (R208). -/
def dpaDie (dpa : Nat) : Nat := dpa / 2 ^ 38 % 4

/-- What the home die of a DPA holds there: it has applied everything that has a place in home order (R228, R230). -/
def homeByte (m : Memory) (dpa : Nat) : Byte := sget (m.view (dpaDie dpa)) dpa

/-- `n` bytes from a DPA as a number, read at the home die. -/
def homeLe (m : Memory) (dpa n : Nat) : Nat := readLe (m.view (dpaDie dpa)) dpa n

/-- The die a core belongs to (R12). System cores and Tanneries stand under numbers above 383, die by die as well. -/
def coreDie (core : Nat) : Nat := core / 96 % 4

/-! ### Translation -/

/-- The home die of a page number in a partition (R207). -/
def pageHome (dies : List Nat) (page : Nat) : Nat := dies.getD (page % dies.length) 0

/-- PADDR as a DPA (R210). -/
def pteAddr (e : Word) : Nat := (e.extractLsb' 12 28).toNat * 4096

/-- An entry that a walk may use at all: valid, reserved bits 0, PADDR inside its die's DRAM (R210, R211). -/
def pteValid (e : Word) : Bool :=
  e.getLsbD 0 && e.extractLsb' 40 16 = 0 && e.extractLsb' 6 6 = 0 && pteAddr e % 2 ^ 38 < 96 * 2 ^ 30

/-- A valid entry that names the next table, aligned to that table's size (R210, R211). -/
def pteTable (e : Word) (size : Nat) : Bool :=
  pteValid e && !e.getLsbD 1 && e.extractLsb' 2 4 = 0 && e.extractLsb' 56 8 = 0 && pteAddr e % size = 0

/-- A valid leaf, aligned to its page and lying on the page's home die (R207, R211). -/
def pteLeaf (dies : List Nat) (e : Word) (big : Bool) (va : Nat) : Bool :=
  let sz := if big then 2 ^ 25 else 2 ^ 16
  pteValid e && e.getLsbD 1 && pteAddr e % sz = 0 && dpaDie (pteAddr e) = pageHome dies (va / sz)

/-- A walk of a context's page table (R209, R211): the leaf and whether it maps a 32 MiB page; `none` where it fails. -/
def walk (m : Memory) (c : Ctx) (va : Nat) : Option (Word × Bool) :=
  let entry : Nat → Nat → Word := fun table i => BitVec.ofNat 64 (homeLe m (table + 8 * i) 8)
  if 2 ^ 56 ≤ va then none
  else
    let e1 := entry ((c.ptroot.extractLsb' 21 19).toNat * 2 ^ 21) (va / 2 ^ 38)
    if !pteTable e1 (2 ^ 16) then none
    else
      let e2 := entry (pteAddr e1) (va / 2 ^ 25 % 2 ^ 13)
      if pteLeaf c.dies e2 true va then some (e2, true)
      else if !pteTable e2 (2 ^ 12) then none
      else
        let e3 := entry (pteAddr e2) (va / 2 ^ 16 % 2 ^ 9)
        if pteLeaf c.dies e3 false va then some (e3, false) else none

/-- A cached translation serves a compute core's access to an address of a context (R214). -/
def tlbServes (core : Nat) (c : Nat) (va : Nat) (t : TlbEntry) : Bool :=
  core < 384 && t.ctx = c && (if t.shared then t.place = coreDie core else t.place = core)
    && t.page = va / (if t.big then 2 ^ 25 else 2 ^ 16)

/-- The translation an access uses: a cached entry that still stands, or the table as it is (R214). -/
def translate (m : Memory) (tick core : Nat) (c : Ctx) (va : Nat) : Option (Word × Bool) :=
  match m.tlb.find? (tlbServes core c.id va) with
  | some t => if Config.tlbKeeps tick then some (t.entry, t.big) else walk m c va
  | none => walk m c va

/-- The DPAs of the entries that a walk reads (R209). -/
def walkPath (m : Memory) (c : Ctx) (va : Nat) : List Nat :=
  let entry : Nat → Word := fun a => BitVec.ofNat 64 (homeLe m a 8)
  if 2 ^ 56 ≤ va then []
  else
    let a1 := (c.ptroot.extractLsb' 21 19).toNat * 2 ^ 21 + 8 * (va / 2 ^ 38)
    if !pteTable (entry a1) (2 ^ 16) then [a1]
    else
      let a2 := pteAddr (entry a1) + 8 * (va / 2 ^ 25 % 2 ^ 13)
      if pteLeaf c.dies (entry a2) true va || !pteTable (entry a2) (2 ^ 12) then [a1, a2]
      else [a1, a2, pteAddr (entry a2) + 8 * (va / 2 ^ 16 % 2 ^ 9)]

/-- The DPAs of the entries that an access of a core reads: none where a cached translation serves it (R214). -/
def walked (m : Memory) (tick core : Nat) (c : Ctx) (va : Nat) : List Nat :=
  if (m.tlb.find? (tlbServes core c.id va)).isSome && Config.tlbKeeps tick then [] else walkPath m c va

/-- The DPA of an address under a leaf. -/
def leafDpa (e : Word × Bool) (va : Nat) : Nat := pteAddr e.1 + va % (if e.2 then 2 ^ 25 else 2 ^ 16)

/-- What an access does (R212). -/
inductive Access where
  | read | write | atomic | fetch
  deriving DecidableEq, Repr

/-- Whether a leaf allows an access at a privilege level (R212, step 3). -/
def leafAllows (e : Word) (a : Access) (user : Bool) : Bool :=
  (match a with
   | .read => e.getLsbD 2
   | .write => e.getLsbD 3
   | .atomic => e.getLsbD 2 && e.getLsbD 3
   | .fetch => e.getLsbD 5) && (!user || e.getLsbD 4)

/-- A key slot is loaded and granted to a context (R213). -/
def keyGranted (slots : List Nat) (c : Ctx) (k : Nat) : Bool := slots.contains k && c.keys.contains k

/-- Steps 2 to 4 of R212: the DPA, or the fault. -/
def devCheck (m : Memory) (slots : List Nat) (tick core : Nat) (c : Ctx) (va : Nat) (a : Access) (user : Bool) :
    Except FaultCode Nat :=
  if 2 ^ 56 ≤ va then .error .xlate
  else match translate m tick core c va with
    | none => .error .xlate
    | some e =>
      if !leafAllows e.1 a user then .error .prot
      else if !keyGranted slots c (e.1.extractLsb' 56 8).toNat then .error .key
      else .ok (leafDpa e va)

/-- The translations that a core caches at most, and those that a die does (R23, R214). -/
def coreTlb : Nat := 1024
/-- See `coreTlb`. -/
def dieTlb : Nat := 65536

/-- Keep the newest `n` entries of one cache (log 24). -/
def trimTlb (p : TlbEntry → Bool) : Nat → List TlbEntry → List TlbEntry
  | _, [] => []
  | n, t :: ts =>
    if !p t then t :: trimTlb p n ts
    else match n with
      | 0 => trimTlb p 0 ts
      | k + 1 => t :: trimTlb p k ts

/-- Fill the core's and the die's translation caches (R214). A failed translation is never cached (R211). -/
def tlbFill (m : Memory) (tick core : Nat) (c : Ctx) (va : Nat) : Memory :=
  match translate m tick core c va with
  | none => m
  | some (e, big) =>
    if 384 ≤ core then m
    else
      let page := va / (if big then 2 ^ 25 else 2 ^ 16)
      let mk : Bool → Nat → TlbEntry := fun sh pl => { shared := sh, place := pl, ctx := c.id, page := page, big := big, entry := e }
      let keep := m.tlb.filter fun t => !tlbServes core c.id va t
      let all := mk false core :: mk true (coreDie core) :: keep
      { m with tlb := trimTlb (fun t => !t.shared && t.place = core) coreTlb
                        (trimTlb (fun t => t.shared && t.place = coreDie core) dieTlb all) }

/-- Real time passes: a cached translation may come to reflect the table as it stands now (R214, log 24). -/
def driftTlb (m : Memory) (tick : Nat) (ctxs : List Ctx) : Memory :=
  { m with tlb := m.tlb.map fun t => match ctxs.find? (fun c => c.id = t.ctx) with
      | none => t
      | some c => match walk m c (t.page * (if t.big then 2 ^ 25 else 2 ^ 16)) with
        | none => t
        | some (e, big) => if big = t.big && Config.tlbDrift tick t.page then { t with entry := e } else t }

/-! ### The L2 -/

/-- The set of a DPA (R215). -/
def l2Set (line : Nat) : Nat := line % 2 ^ 18

/-- A way is quarantined in a die's set group (R219). -/
def wayQuar (h : Health) (die set way : Nat) : Bool := h.quar.contains (die, set / 4096, way)

/-- The lines of a die's set. -/
def l2Row (m : Memory) (die set : Nat) : List L2Line :=
  m.l2.filter fun l => l.die = die && l2Set l.line = set

/-- RRPV after a miss under a reuse hint, 4 for accesses without one (R217). -/
def missRrpv : Option Nat → Nat
  | some 0 => 0
  | some 1 => 4
  | some 2 => 6
  | some _ => 7
  | none => 4

/-- RRPV after a hit (R217). -/
def hitRrpv : Option Nat → Nat
  | some 3 => 7
  | _ => 0

/-- Raise every line of a set by one, to 7 at most (R217). -/
def ageRow (ls : List L2Line) (die set : Nat) : List L2Line :=
  ls.map fun l => if l.die = die && l2Set l.line = set && l.rrpv < 7 then { l with rrpv := l.rrpv + 1 } else l

/-- The way a miss takes (R217), and the lines after aging: the lowest way that holds no line, else the lowest whose RRPV
is 7, aging the set until there is one. A quarantined way and a poisoned line are never chosen (R219, R299, log 24). -/
def victim (h : Health) (die set : Nat) : Nat → List L2Line → Option Nat × List L2Line
  | 0, ls => (none, ls)
  | n + 1, ls =>
    let row := ls.filter fun l => l.die = die && l2Set l.line = set
    let ways := (List.range 24).filter fun w => !wayQuar h die set w
    match ways.find? fun w => !row.any (fun l => l.way = w) with
    | some w => (some w, ls)
    | none =>
      match ways.find? fun w => row.any (fun l => l.way = w && l.rrpv = 7 && !l.poison) with
      | some w => (some w, ls)
      | none => victim h die set n (ageRow ls die set)

/-- EINJ's target line (R300). -/
def Memory.einjLine (m : Memory) : Nat := (m.einj.extractLsb' 7 33).toNat

/-- An injection is armed (R300). -/
def Memory.einjArmed (m : Memory) : Bool := m.einj.getLsbD 41

/-- The error that an armed injection puts into a line as it enters a die's L2 (R300). -/
def Memory.einjHurt (m : Memory) (die line : Nat) : Option Bool :=
  if m.einjArmed && m.einjLine = line && dpaDie (128 * line) = die then some (m.einj.getLsbD 40) else none

/-- EINJ after an injection: ARM is clear (R300). -/
def disarm (e : Word) : Word := e &&& ~~~ (BitVec.twoPow 64 41)

/-- An access to a line in a die's L2 (R216, R217): a hit sets the RRPV, a miss brings the line in, with an injection that is armed
for it (R300, R305); a write makes it dirty under the writing context, after a write-back when another context had it dirty. An
eviction that meets an error waits, and the line that was to take its way is not kept (R300, log 24). -/
def l2Touch (h : Health) (m : Memory) (die dpa : Nat) (hint : Option Nat) (ctx : Nat) (write : Bool) : Memory :=
  let line := dpa / 128
  let set := l2Set line
  if m.l2.any fun l => l.die = die && l.line = line then
    { m with l2 := m.l2.map fun l =>
        if l.die = die && l.line = line then
          { l with rrpv := hitRrpv hint, dirty := l.dirty || write, owner := if write then ctx else l.owner,
                   dram := if write && l.owner ≠ ctx then [] else l.dram }
        else l }
  else
    match victim h die set 9 m.l2 with
    | (none, ls) => { m with l2 := ls }
    | (some w, ls) =>
      let out : L2Line → Bool := fun x => x.die = die && l2Set x.line = set && x.way = w
      let bad := m.einjHurt die line
      let l : L2Line := { die := die, way := w, line := line, owner := ctx, dirty := write, rrpv := missRrpv hint,
                          poison := false, hurt := bad, leaving := false, dram := [] }
      if ls.any fun x => out x && x.hurt.isSome then { m with l2 := ls.map fun x => if out x then { x with leaving := true } else x }
      else { m with l2 := l :: ls.filter (fun x => !out x), einj := if bad.isSome then disarm m.einj else m.einj }

/-- A die's L2 holds a line. -/
def hasLine (m : Memory) (die line : Nat) : Bool := m.l2.any fun l => l.die = die && l.line = line

/-- A read by an agent of a die brings the line into that die's L2, through the home die's when they differ (R215, R230). -/
def touchRead (h : Health) (m : Memory) (die dpa : Nat) (hint : Option Nat) (ctx : Nat) : Memory :=
  let m1 := if dpaDie dpa = die || hasLine m die (dpa / 128) then m else l2Touch h m (dpaDie dpa) dpa hint ctx false
  l2Touch h m1 die dpa hint ctx false

/-- The lines of a list of DPA ranges, by their first DPA. -/
def rangeLines (rs : List (Nat × Nat)) : List Nat :=
  (rs.flatMap fun r => if r.2 = 0 then [] else (List.range ((r.1 + r.2 - 1) / 128 - r.1 / 128 + 1)).map fun i => 128 * (r.1 / 128 + i)).eraseDups

/-- A line is poisoned, so that no access to it completes (R299). -/
def linePoisoned (m : Memory) (dpa : Nat) : Bool :=
  m.l2.any fun l => l.die = dpaDie dpa && l.line = dpa / 128 && l.poison

/-- A line that an access of a die would read carries an error that has not been detected yet: at home, or in that die's replica
(R300). -/
def lineHurt (m : Memory) (die dpa : Nat) : Bool :=
  m.l2.any fun l => (l.die = dpaDie dpa || l.die = die) && l.line = dpa / 128 && l.hurt.isSome

/-- A line that no access of a die can use now: poisoned, or with an error that has not been met yet (R298, R299). -/
def Memory.blocked (m : Memory) (die dpa : Nat) : Bool := linePoisoned m dpa || lineHurt m die dpa

/-- The first line of some ranges that no access of a die can use now. -/
def Memory.blockedIn (m : Memory) (die : Nat) (rs : List (Nat × Nat)) : Option Nat := (rangeLines rs).find? (m.blocked die)

/-! ### Writes in flight -/

/-- The location of a write: its naturally aligned 8-byte unit (R227). Writes are entered one unit at a time. -/
def DevWrite.loc (w : DevWrite) : Nat :=
  match w.bytes with
  | (a, _) :: _ => a / 8
  | [] => 0

/-- The home die of a write. -/
def DevWrite.home (w : DevWrite) : Nat := dpaDie (8 * w.loc)

/-- A scope reaches from the issuing die to an observing die (R226). -/
def scopeCovers (sc : Scope) (iss obs : Nat) : Bool :=
  match sc with
  | .core => iss = obs
  | .die => iss = obs
  | .pkg => true
  | .sys => true

/-- A write is applied at a die: it is no longer in flight, or it has reached that die. -/
def appliedAt (m : Memory) (id die : Nat) : Bool :=
  match m.writes.find? fun w => w.id = id with
  | none => true
  | some w => w.dies.contains die

/-- The causal predecessors of a write are applied at a die (R230). -/
def depsOk (m : Memory) (w : DevWrite) (die : Nat) : Bool :=
  w.deps.all fun d => !scopeCovers d.2 w.die die || appliedAt m d.1 die

/-- A write of a context to a line would first write it back, dirty from another context, and meet the error it carries (R216, R299). -/
def backMeets (m : Memory) (ctx line : Nat) : Bool :=
  m.l2.any fun l => l.die = dpaDie (128 * line) && l.line = line && l.hurt.isSome && l.dirty && l.owner ≠ ctx

/-- A write waits while the write-back before it meets an error. -/
def backWaits (m : Memory) (w : DevWrite) : Bool := backMeets m w.ctx (8 * w.loc / 128)

/-- A write may take its place in home order (R228): its causal predecessors are applied at home, and so is every earlier
write of the same task to the same location. -/
def homeReady (m : Memory) (w : DevWrite) : Bool :=
  w.homed.isNone && depsOk m w w.home && !linePoisoned m (8 * w.loc) && !backWaits m w
    && m.writes.all fun x => !(x.uid = w.uid && x.loc = w.loc && x.id < w.id) || x.homed.isSome

/-- A die may apply a write (R228, R230): in home order, after its causal predecessors. -/
def remoteReady (m : Memory) (w : DevWrite) (die : Nat) : Bool :=
  match w.homed with
  | none => false
  | some h =>
    !w.dies.contains die && depsOk m w die && die < 4
      && m.writes.all fun x => match x.homed with
          | none => true
          | some k => !(x.loc = w.loc && k < h) || x.dies.contains die

/-- Put a write's bytes into a die's view and record it; a write applied at all four dies is no longer in flight. -/
def applyAt (m : Memory) (w : DevWrite) (die : Nat) : Memory :=
  let w' : DevWrite := { w with dies := die :: w.dies }
  let m' := m.setView die (ssetMany (m.view die) w.bytes)
  let ws := m.writes.map fun x => if x.id = w.id then w' else x
  { m' with writes := if 4 ≤ w'.dies.length then ws.filter (fun x => x.id ≠ w.id) else ws }

/-- A write that covers the whole first word of its line overwrites an injected error there (R300, R305). -/
def mendLine (m : Memory) (w : DevWrite) : Memory :=
  if w.bytes.length = 8 && 8 * w.loc % 128 = 0 then
    { m with l2 := m.l2.map fun l => if l.die = w.home && l.line = 8 * w.loc / 128 then { l with hurt := none } else l }
  else m

/-- Bytes of a view that a write will cover join what is known of DRAM under a dirty line. -/
def saveBytes (v : Sparse 8) (d : List (Nat × Byte)) (bs : List (Nat × Byte)) : List (Nat × Byte) :=
  bs.foldl (fun d b => if d.any (fun x => x.1 = b.1) then d else (b.1, sget v b.1) :: d) d

/-- A write enters its line in the home L2 (R216, R305): the line becomes dirty, and DRAM keeps what it had. -/
def l2Write (h : Health) (m : Memory) (w : DevWrite) : Memory :=
  let m1 := l2Touch h m w.home (8 * w.loc) none w.ctx true
  { m1 with l2 := m1.l2.map fun l =>
      if l.die = w.home && l.line = 8 * w.loc / 128 then { l with dram := saveBytes (m.view w.home) l.dram w.bytes } else l }

/-- The home die applies a write and gives it the next place in home order (R228). -/
def applyHome (h : Health) (m : Memory) (w : DevWrite) : Memory :=
  let w' : DevWrite := { w with homed := some m.nextHome }
  let m1 : Memory := { m with nextHome := m.nextHome + 1, writes := m.writes.map fun x => if x.id = w.id then w' else x }
  applyAt (mendLine (l2Write h m1 w) w) w' w.home

/-- The bytes of one naturally aligned 8-byte unit as writes: one where they cover it, else one for each 4-byte word (R232). -/
def splitUnit (k : Nat) (bs : List (Nat × Byte)) : List (List (Nat × Byte)) :=
  if (List.range 8).all fun i => bs.any fun b => b.1 = 8 * k + i then [bs]
  else [bs.filter (fun b => b.1 / 4 = 2 * k), bs.filter (fun b => b.1 / 4 = 2 * k + 1)].filter fun l => !l.isEmpty

/-- Cut bytes into writes, none wider than an aligned 8-byte unit (R232); the units come in the order of their first bytes. -/
def byUnit (bs : List (Nat × Byte)) : List (List (Nat × Byte)) :=
  ((bs.map fun b => b.1 / 8).eraseDups).flatMap fun k => splitUnit k (bs.filter fun b => b.1 / 8 = k)

/-- Enter one unit's bytes as a write of a task (R223): its causal predecessors are those its fences order and those that its
address or data was read from (R229). -/
def enterUnit (m : Memory) (u : QUnit) (deps : List Nat) (bs : List (Nat × Byte)) : Memory × QUnit :=
  let before := deps.map (fun d => (d, Scope.sys)) ++ u.fenced
  let w : DevWrite := { id := m.nextW, bytes := bs, ctx := u.ctx, uid := some u.uid, die := coreDie u.core,
                        deps := before.filter (fun d => m.writes.any fun x => x.id = d.1), homed := none, dies := [] }
  ({ m with writes := m.writes ++ [w], nextW := m.nextW + 1 }, { u with seen := m.nextW :: u.seen })

/-- Enter a list of bytes as writes of a task. -/
def enterWrites (m : Memory) (u : QUnit) (deps : List Nat) (bs : List (Nat × Byte)) : Memory × QUnit :=
  (byUnit bs).foldl (fun p b => enterUnit p.1 p.2 deps b) (m, u)

/-- The place of a write among others: home order first, then order of entry. -/
def drainKey (w : DevWrite) : Nat × Nat :=
  match w.homed with
  | some h => (0, h)
  | none => (1, w.id)

/-- Insert by `drainKey`. -/
def insertWrite (w : DevWrite) : List DevWrite → List DevWrite
  | [] => [w]
  | x :: xs =>
    let a := drainKey w
    let b := drainKey x
    if a.1 < b.1 || (a.1 = b.1 && a.2 < b.2) then w :: x :: xs else x :: insertWrite w xs

/-- The key under which the origins of a scalar register's value stand, and those of a bank A port, of a lane of a vector register and of
a bank B port, and of a scratchpad byte (R229). -/
def regKey : SReg → Nat
  | .fixed i => i
  | .phys i => 16 + i
/-- See `regKey`. -/
def portKey (p : Nat) : Nat := 1024 + p
/-- See `regKey`. -/
def laneKey (v i : Nat) : Nat := 4096 + 128 * v + i
/-- See `regKey`. -/
def portLaneKey (p i : Nat) : Nat := 8192 + 16 * p + i
/-- See `regKey`. -/
def byteKey (a : Nat) : Nat := 2 ^ 20 + a

/-- The writes in flight that the values under some keys were read from (R229). -/
def originIds (o : List (Nat × List Nat)) (keys : List Nat) : List Nat :=
  ((o.filter fun x => keys.contains x.1).flatMap fun x => x.2).eraseDups

/-- The writes in flight that the bytes of some scratchpad ranges were read from (R229). -/
def localIds (o : List (Nat × List Nat)) (rs : List (Nat × Nat)) : List Nat :=
  ((o.filter fun x => rs.any fun r => byteKey r.1 ≤ x.1 && x.1 < byteKey (r.1 + r.2)).flatMap fun x => x.2).eraseDups

/-- A value under a key was read from some writes. -/
def setOrigin (o : List (Nat × List Nat)) (key : Nat) (ids : List Nat) : List (Nat × List Nat) :=
  let rest := o.filter fun x => x.1 ≠ key
  if ids.isEmpty then rest else (key, ids) :: rest

/-- The bytes of some scratchpad ranges were read from some writes. -/
def setLocal (o : List (Nat × List Nat)) (rs : List (Nat × Nat)) (ids : List Nat) : List (Nat × List Nat) :=
  let rest := o.filter fun x => !rs.any fun r => byteKey r.1 ≤ x.1 && x.1 < byteKey (r.1 + r.2)
  if ids.isEmpty then rest else (rs.flatMap fun r => (List.range r.2).map fun i => (byteKey (r.1 + i), ids)) ++ rest

/-- How many places of a location's home order a task has read or written, so that it reads nothing older there (R228). -/
def floorOf (m : Memory) (u : QUnit) (loc : Nat) : Nat :=
  ((m.writes.filterMap fun (w : DevWrite) => if w.uid = some u.uid && w.loc = loc then w.homed.map fun k => k + 1 else none)
    ++ u.floor.filterMap fun (x : Nat × Nat) => if x.1 = loc then some x.2 else none).foldl max 0

/-- A read of a task at a die, issued when `mark` was the number of the next write, returns a write in flight: the die has applied
it, the task has read that far in its location's home order, or it is an earlier write of the task's own (R228 to R230). -/
def readsWrite (m : Memory) (u : QUnit) (die mark : Nat) (w : DevWrite) : Bool :=
  w.dies.contains die || match w.homed with
    | some k => k < floorOf m u w.loc
    | none => w.uid = some u.uid && w.id < mark

/-- What a task reads from at its die (R228, R229): the die's view under the writes it must see beside, in their order. -/
def unitView (m : Memory) (u : QUnit) (mark : Nat) : Sparse 8 :=
  let die := coreDie u.core
  ((m.writes.filter fun w => !w.dies.contains die && readsWrite m u die mark w).foldr insertWrite []).foldl
    (fun v w => ssetMany v w.bytes) (m.view die)

/-- A task has read `n` bytes at a DPA at a die: the writes in flight it has read from causally precede its later accesses where a
fence or a dependency says so (R229, R230), and it reads nothing older there (R228). -/
def noteRead (m : Memory) (u : QUnit) (die mark dpa n : Nat) : QUnit :=
  let at_ := m.writes.filter fun w => readsWrite m u die mark w && dpa / 8 ≤ w.loc && w.loc ≤ (dpa + n - 1) / 8
  let got := at_.filter fun w => w.bytes.any fun b => dpa ≤ b.1 && b.1 < dpa + n
  { u with seen := ((got.map fun (w : DevWrite) => w.id) ++ u.seen.filter fun i => m.writes.any fun w => w.id = i).eraseDups,
           floor := ((at_.filterMap fun (w : DevWrite) => w.homed.map fun k => (w.loc, k + 1)) ++ u.floor.filter fun (x : Nat × Nat) =>
             m.writes.any fun w => w.loc = x.1).eraseDups }

/-- The writes in flight that a read returns bytes of. -/
def readIds (m : Memory) (u : QUnit) (die mark dpa n : Nat) : List Nat :=
  (m.writes.filter fun w => readsWrite m u die mark w && w.bytes.any fun b => dpa ≤ b.1 && b.1 < dpa + n).map fun w => w.id

/-- A fence of the task: everything it has performed or read from precedes its later accesses under the scope (R229). -/
def noteFence (u : QUnit) (sc : Scope) : QUnit := { u with fenced := (u.seen.map (fun i => (i, sc)) ++ u.fenced).eraseDups }

/-- The task's earlier writes are applied at their home and at every die of a scope (R226). -/
def writesApplied (m : Memory) (u : QUnit) (sc : Scope) : Bool :=
  m.writes.all fun w => w.uid ≠ some u.uid
    || (w.homed.isSome && (List.range 4).all fun d => !scopeCovers sc (coreDie u.core) d || w.dies.contains d)

/-- What precedes an access of a task at a die has been applied there (R229, R230): the writes its fences order, and those its
address or operand depends on. Its own writes it sees in any case. -/
def readAfter (m : Memory) (u : QUnit) (deps : List Nat) (die : Nat) : Bool :=
  (u.fenced.map Prod.fst ++ deps).all fun i => appliedAt m i die || m.writes.any fun w => w.id = i && w.uid = some u.uid

/-- The writes of a line that its home die has applied and another die has not, in home order. -/
def homedOnly (m : Memory) (die line : Nat) : List DevWrite :=
  (m.writes.filter fun w => w.homed.isSome && !w.dies.contains die && 8 * w.loc / 128 = line).foldr insertWrite []

/-- A die that holds no copy of a line may fetch it from the home die (R230): what precedes its writes is applied there, or comes
with it. -/
def fetchOk (m : Memory) (die line : Nat) : Bool :=
  hasLine m die line || (homedOnly m die line).all fun w => w.deps.all fun d =>
    !scopeCovers d.2 w.die die || appliedAt m d.1 die || (homedOnly m die line).any fun x => x.id = d.1

/-- A die without a copy of a line fetches it: it then has every write that the home die has applied to it (R230). -/
def fetchLine (m : Memory) (die line : Nat) : Memory :=
  if hasLine m die line then m
  else (homedOnly m die line).foldl (fun m w => match m.writes.find? fun x => x.id = w.id with
    | some x => applyAt m x die
    | none => m) m

/-- A read of some DPA ranges takes no bytes of a location beside those of an earlier write of its own task that has no place in home
order yet: what stands there may be older than a write that the task's own will follow (R228). -/
def ownWhole (m : Memory) (u : QUnit) (mark : Nat) (rs : List (Nat × Nat)) : Bool :=
  m.writes.all fun w => !(w.uid = some u.uid && w.homed.isNone && w.id < mark)
    || rs.all fun r => (List.range 8).all fun i =>
      let a := 8 * w.loc + i
      !(r.1 ≤ a && a < r.1 + r.2) || w.bytes.any fun b => b.1 = a

/-- A task may read some DPA ranges now, by a read issued when `mark` was the number of the next write (R228 to R230, R299). -/
def readReady (m : Memory) (u : QUnit) (deps : List Nat) (mark : Nat) (rs : List (Nat × Nat)) : Bool :=
  let die := coreDie u.core
  readAfter m u deps die && ownWhole m u mark rs && (rangeLines rs).all fun a => !m.blocked die a && fetchOk m die (a / 128)

/-- The lines of a task's read come into its die's L2 (R215, R217, R230). -/
def bringLines (h : Health) (m : Memory) (u : QUnit) (hint : Option Nat) (rs : List (Nat × Nat)) : Memory :=
  let die := coreDie u.core
  (rangeLines rs).foldl (fun m a => touchRead h (fetchLine m die (a / 128)) die a hint u.ctx) m

/-- The writes that must be applied no later than some others: what they depend on, and what stands before them in home order. -/
def closeStep (m : Memory) (ids : List Nat) : List Nat :=
  let sel := m.writes.filter fun w => ids.contains w.id
  (m.writes.filter fun w => ids.contains w.id
    || sel.any fun x => x.deps.any (fun d => d.1 = w.id) || (x.loc = w.loc && w.homed.isSome)).map fun w => w.id

/-- `n` rounds of `closeStep`. -/
def closeOver (m : Memory) : Nat → List Nat → List Nat
  | 0, ids => ids
  | n + 1, ids => closeOver m n (closeStep m ids)

/-- Finish one write at every die, in home order when it has its place and at the end of that order otherwise. -/
def finishWrite (h : Health) (m : Memory) (id : Nat) : Memory :=
  match m.writes.find? fun w => w.id = id with
  | none => m
  | some w =>
    let m1 := if w.homed.isNone then applyHome h m w else m
    (List.range 4).foldl (fun m d =>
      match m.writes.find? fun w => w.id = id with
      | none => m
      | some w => if w.dies.contains d then m else applyAt m w d) m1

/-- Apply a set of writes in flight at every die, with all that precedes them (R226, R230). -/
def drain (h : Health) (m : Memory) (ids : List Nat) : Memory :=
  let all := closeOver m m.writes.length ids
  let ws := (m.writes.filter fun w => all.contains w.id).foldr insertWrite []
  ws.foldl (fun m w => finishWrite h m w.id) m

/-- Enter one unit's bytes as a write of another agent, after some writes of its own (R227, R233): its home die applies it, unless what
precedes it has not been applied there yet (R230). -/
def agentUnit (h : Health) (m : Memory) (ctx : Nat) (deps : List Nat) (bs : List (Nat × Byte)) : Memory :=
  let w : DevWrite := { id := m.nextW, bytes := bs, ctx := ctx, uid := none, die := 0,
                        deps := (deps.filter fun d => m.writes.any fun x => x.id = d).map (fun d => (d, Scope.sys)), homed := none,
                        dies := [] }
  let m1 : Memory := { m with writes := m.writes ++ [w], nextW := m.nextW + 1 }
  if depsOk m1 w w.home then applyHome h m1 w else m1

/-- A write of another agent for a context (R233): the host, Confluence, a Braid receiver, the Tannery. Its home dies apply it, once what
it comes after has been applied there, and the other dies follow (R228, R231). The numbers of its writes tell what a later write of the agent comes after (log 7). -/
def agentStore (h : Health) (m : Memory) (ctx : Nat) (deps : List Nat) (bs : List (Nat × Byte)) : Memory × List Nat :=
  let m1 := (byUnit bs).foldl (fun m b => agentUnit h m ctx deps b) m
  (m1, (List.range (m1.nextW - m.nextW)).map fun i => m.nextW + i)

/-- A write of another agent that is applied at SYS scope before anything follows it (R260, R335, R356, R358). -/
def agentWrite (h : Health) (m : Memory) (ctx : Nat) (bs : List (Nat × Byte)) : Memory :=
  let p := agentStore h m ctx [] bs
  drain h p.1 p.2

/-- Another agent reads some DPA ranges at their home dies, whose L2s they enter (R215, R217). -/
def agentTouch (h : Health) (m : Memory) (ctx : Nat) (rs : List (Nat × Nat)) : Memory :=
  (rangeLines rs).foldl (fun m a => l2Touch h m (dpaDie a) a none ctx false) m

/-! ### Ranges -/

/-- Cut a range of `n` bytes at 64 KiB boundaries, with fuel. -/
def pageChunks : Nat → Nat → Nat → List (Nat × Nat)
  | 0, _, _ => []
  | f + 1, va, n =>
    if n = 0 then []
    else
      let k := min n (2 ^ 16 - va % 2 ^ 16)
      (va, k) :: pageChunks f (va + k) (n - k)

/-- The chunks of a range. -/
def chunks (va n : Nat) : List (Nat × Nat) := pageChunks (n / 2 ^ 16 + 2) va n

/-- The DPAs of a list of ranges of a context's address space, checked as R212 steps 2 to 4; the first failing step over
all of them decides (XLATE before PROT before KEY, R172). -/
def devRanges (m : Memory) (slots : List Nat) (tick core : Nat) (c : Ctx) (a : Access) (user : Bool)
    (rs : List (Nat × Nat)) : Except FaultCode (List (Nat × Nat)) :=
  let cs := rs.flatMap fun r => chunks r.1 r.2
  let res := cs.map fun r => (devCheck m slots tick core c r.1 a user, r.2)
  let has : FaultCode → Bool := fun f => res.any fun r => match r.1 with
    | .error g => f = g
    | .ok _ => false
  if has .xlate then .error .xlate
  else if has .prot then .error .prot
  else if has .key then .error .key
  else .ok (res.filterMap fun r => match r.1 with
    | .ok d => some (d, r.2)
    | .error _ => none)

/-- The bytes of a list of DPA ranges in a view. -/
def readRanges (v : Sparse 8) (rs : List (Nat × Nat)) : List Byte := rs.flatMap fun r => readBytes v r.1 r.2

/-- Pair bytes with the DPAs of a list of ranges. -/
def placeRanges : List (Nat × Nat) → List Byte → List (Nat × Byte)
  | [], _ => []
  | (a, n) :: rs, bs => atAddr a (bs.take n) ++ placeRanges rs (bs.drop n)

/-! ### The canonical form -/

/-- The memories stand in their canonical form: in the dies' views, the weight stores and the scratchpads left behind, addresses rise
strictly and no entry is 0, which an unlisted address reads as (log 10). -/
def Memory.wf (m : Memory) : Bool :=
  swf m.view0 && swf m.view1 && swf m.view2 && swf m.view3 && swf m.ws0 && swf m.ws1 && swf m.ws2 && swf m.ws3
    && m.residue.all fun r => swf r.2.2

end Sys2Proof.Machine
end

