-- ==== Sys2Proof/Machine/Objects.lean ====
section
/-! DEFINITION. Contexts and the work hierarchy (14_work_scheduler.md): finding objects, counting units and what follows
from it (R254, R255, R260), Braid arrival conditions of a phase (R344), and an agent's accesses to a context's memory. -/

namespace Sys2Proof.Machine

/-- The core number under which agents that are no compute core look addresses up; no translation is cached for it. -/
def agentCore : Nat := 384

/-- A context by number. -/
def State.ctx? (s : State) (c : Nat) : Option Ctx := s.ctxs.find? fun x => x.id = c

/-- Change a context. -/
def State.mapCtx (s : State) (c : Nat) (f : Ctx → Ctx) : State :=
  { s with ctxs := s.ctxs.map fun x => if x.id = c then f x else x }

/-- Every unit of the machine: the one in focus and those parked. -/
def State.units (s : State) : List QUnit := if s.on then s.cur :: s.parked else s.parked

/-- A unit by its number. -/
def State.unit? (s : State) (u : Nat) : Option QUnit := s.units.find? fun x => x.uid = u

/-- Change one unit, wherever it stands. -/
def State.mapUnit (s : State) (u : Nat) (f : QUnit → QUnit) : State :=
  { s with cur := if s.cur.uid = u then f s.cur else s.cur,
           parked := s.parked.map fun x => if x.uid = u then f x else x }

/-- Take a unit out of the machine. -/
def State.dropUnit (s : State) (u : Nat) : State :=
  { s with on := s.on && s.cur.uid ≠ u, cur := if s.cur.uid = u then QUnit.reset else s.cur,
           parked := s.parked.filter fun x => x.uid ≠ u }

/-- The level of a handle (R255): 0 launch, 1 graph, 2 phase, 3 job. -/
def handleLevel (h : Nat) : Nat := h / 2 ^ 30 % 4

/-- A handle from a level and a serial (R255). -/
def mkHandle (level serial : Nat) : Nat := level * 2 ^ 30 + serial

/-- A launch of a context. -/
def Ctx.launch? (c : Ctx) (h : Nat) : Option Launch := c.launches.find? fun l => l.h = h

/-- Change a launch of a context. -/
def Ctx.mapLaunch (c : Ctx) (h : Nat) (f : Launch → Launch) : Ctx :=
  { c with launches := c.launches.map fun l => if l.h = h then f l else l }

/-- A group of a list. -/
def group? (gs : List Group) (h : Nat) : Option Group := gs.find? fun g => g.h = h

/-- Change a group of a list. -/
def mapGroup (gs : List Group) (h : Nat) (f : Group → Group) : List Group :=
  gs.map fun g => if g.h = h then f g else g

/-- Every unit of a launch has been counted (R254). -/
def Launch.done (l : Launch) : Bool := l.completed + l.cancelled = l.u

/-- COMPLETED + CANCELLED has come to ISSUED with ISSUED fixed (R254). A LAUNCH may add items after ISSUED is fixed, and
then more than ISSUED may be counted. -/
def Group.full (g : Group) : Bool := match g.issued with
  | some n => n ≤ g.completed + g.cancelled
  | none => false

/-- The serial of a handle has not fallen behind the newest 65,536 of its level (R255). -/
def Ctx.handleLive (c : Ctx) (h : Nat) : Bool :=
  let top := match handleLevel h with
    | 0 => c.serials.1
    | 1 => c.serials.2.1
    | 2 => c.serials.2.2.1
    | _ => c.serials.2.2.2
  let n := h % 2 ^ 30
  1 ≤ n && n ≤ top && top < n + 65536

/-! ### An agent's accesses -/

/-- The DPAs of a range of a context's memory for a SUPERVISOR access. -/
def ctxRanges (s : State) (c : Ctx) (va n : Nat) (a : Access) : Except FaultCode (List (Nat × Nat)) :=
  devRanges s.mem s.board.slots s.tick agentCore c a false [(va, n)]

/-- The bytes of a list of DPA ranges as the home dies hold them. -/
def homeRanges (m : Memory) (rs : List (Nat × Nat)) : List Byte :=
  rs.flatMap fun r => readBytes (m.view (dpaDie r.1)) r.1 r.2

/-- Bytes of a context's memory, read by Confluence or SYSTEM. -/
def ctxRead (s : State) (c : Ctx) (va n : Nat) : Except FaultCode (List Byte) :=
  match ctxRanges s c va n .read with
  | .ok rs => .ok (homeRanges s.mem rs)
  | .error f => .error f

/-- A little-endian number of a context's memory; `none` when it cannot be read. -/
def ctxLe (s : State) (c : Ctx) (va n : Nat) : Option Nat :=
  match ctxRead s c va n with
  | .ok bs => some (leNat bs)
  | .error _ => none

/-- The walks for another agent's accesses to some ranges of a context's memory enter the home L2s of the entries they read (R217). -/
def agentWalked (s : State) (c : Ctx) (rs : List (Nat × Nat)) : Memory :=
  ((rs.flatMap fun r => chunks r.1 r.2).flatMap fun x => walkPath s.mem c x.1).foldl
    (fun m a => l2Touch s.health m (dpaDie a) a none c.id false) s.mem

/-- Write a context's memory at SYS scope; `none` when the address cannot be written. -/
def ctxWrite (s : State) (c : Ctx) (va : Nat) (bs : List Byte) : Option State :=
  match ctxRanges s c va bs.length .write with
  | .ok rs => some { s with mem := agentWrite s.health (agentWalked s c [(va, bs.length)]) c.id (placeRanges rs bs) }
  | .error _ => none

/-- Write a context's memory as another agent, after some earlier writes of that agent; the dies follow the home dies (R228, R233).
The writes' numbers with the state; `none` when the address cannot be written. -/
def ctxStore (s : State) (c : Ctx) (deps : List Nat) (va : Nat) (bs : List Byte) : Option (State × List Nat) :=
  match ctxRanges s c va bs.length .write with
  | .ok rs =>
    let p := agentStore s.health (agentWalked s c [(va, bs.length)]) c.id deps (placeRanges rs bs)
    some ({ s with mem := p.1 }, p.2)
  | .error _ => none

/-- The DPA ranges of a range of a context's memory, where it can be translated. -/
def ctxDpas (s : State) (c : Ctx) (va n : Nat) : List (Nat × Nat) := ((ctxRanges s c va n .read).toOption).getD []

/-- Another agent's read of a context's memory enters the home L2s (R215, R217). -/
def ctxTouch (s : State) (c : Ctx) (va n : Nat) : State :=
  { s with mem := agentTouch s.health (agentWalked s c [(va, n)]) c.id (ctxDpas s c va n) }

/-- The first line that an agent's access to a context's memory meets and that it cannot use now (R299): it reads the ranges `rd` and
the walks of both, and writes `wr`. A write merges into its line without reading a stored word, so that an error there alone does not
hold it back (R305). -/
def agentBlocked (s : State) (c : Ctx) (rd wr : List (Nat × Nat)) : Option Nat :=
  let lines : List (Nat × Nat) → List Nat := fun rs => rangeLines (rs.flatMap fun r => ctxDpas s c r.1 r.2)
  ((((rd ++ wr).flatMap fun r => (chunks r.1 r.2).flatMap fun x => walkPath s.mem c x.1) ++ lines rd).find? fun a =>
      s.mem.blocked (dpaDie a) a).or
    ((lines wr).find? fun a => linePoisoned s.mem a || backMeets s.mem c.id (a / 128))

/-- Write a completion word (R260): STATUS, TAINT, handle; nothing for CPL = 0 or where it cannot be written. -/
def writeWord (s : State) (c : Ctx) (va : Nat) (w : Nat) : State :=
  if va = 0 then s
  else match ctxWrite s c va (natLe 8 w) with
    | some s' => s'
    | none => s

/-! ### The host link -/

/-- The link of a context (R353). -/
def ctxLink (c : Nat) : Nat := c / 128

/-- A link is trained (R353). -/
def linkTrained (s : State) (link : Nat) : Bool := s.board.links.any fun x => x.1 = link

/-- Requests to a context are refused: its interface is in RUN and it has no IDE stream (R357). -/
def State.unprotected (s : State) (c : Nat) : Bool := (s.ctxs.any fun x => x.id = c && x.tdisp) && !s.board.ide.contains c

/-- A context's traffic to the host can go out (R353, R357). -/
def State.hostReady (s : State) (c : Nat) : Bool := linkTrained s (ctxLink c) && !s.unprotected c

/-- Tell the host or management something. -/
def State.report (s : State) (r : Report) : State := { s with board := { s.board with reports := s.board.reports ++ [r] } }

/-- Send a context's MSI-X, or keep it until its link can carry it (R353, R356). -/
def sendMsix (s : State) (c : Nat) : State :=
  if s.hostReady c then s.report (.msix c) else { s with board := { s.board with msiWait := s.board.msiWait ++ [c] } }

/-- The interrupts that have waited and can go out now (R353). -/
def flushMsix (s : State) : State :=
  s.board.msiWait.foldl sendMsix { s with board := { s.board with msiWait := [] } }

/-! ### Event records -/

/-- An event record of 32 bytes (R358). -/
def eventBytes (type code launch index : Nat) (pc value : Word) : List Byte :=
  natLe 2 type ++ natLe 2 0 ++ natLe 4 code ++ natLe 4 launch ++ natLe 4 index ++ natLe 8 pc.toNat ++ natLe 8 value.toNat

/-- Post an event record to a context's ring at SYS scope and advance EV_TAIL; a full ring, one of no size or one that
cannot be written loses the record (R358). MSI-X follows the record (R356). -/
def postEvent (s : State) (cid : Nat) (bs : List Byte) : State :=
  match s.ctx? cid with
  | none => s
  | some c =>
    let lost := s.mapCtx cid fun c => { c with rings := { c.rings with evLost := c.rings.evLost + 1 } }
    if c.rings.evSize = 0 || (c.rings.evTail + 1) % c.rings.evSize = c.rings.evHead then lost
    else match ctxWrite s c (c.rings.evBase.toNat + 32 * c.rings.evTail) bs with
      | none => lost
      | some s1 =>
        sendMsix (s1.mapCtx cid fun c =>
          { c with rings := { c.rings with evTail := (c.rings.evTail + 1) % c.rings.evSize } }) cid

/-- A management alert, with an ALERT record to every context (R358, R368). -/
def raiseAlert (s : State) (what : String) : State :=
  let s1 := s.report (.alert what)
  s1.ctxs.foldl (fun (s : State) (c : Ctx) => postEvent s c.id (eventBytes 4 0 0 0 0 0)) s1

/-! ### Weight-store regions -/

/-- A region's state; FREE when it is not listed (R179). -/
def regionState (m : Memory) (die r : Nat) : Region :=
  match m.regions.find? fun x => x.1 = die && x.2.1 = r with
  | some x => x.2.2
  | none => .free

/-- Set a region's state. -/
def setRegion (m : Memory) (die r : Nat) (st : Region) : Memory :=
  let rest := m.regions.filter fun x => !(x.1 = die && x.2.1 = r)
  { m with regions := if st = .free then rest else (die, r, st) :: rest }

/-- The regions of a set (R256). -/
def regionList (b : BitVec 96) : List Nat := (List.range 96).filter fun i => b.getLsbD i

/-- Release one region state a reader or a weight launch held (R179). -/
def releaseRegion (m : Memory) (die r : Nat) (write : Bool) : Memory :=
  match regionState m die r, write with
  | .write, true => setRegion m die r .free
  | .read c, false => setRegion m die r (if c ≤ 1 then .free else .read (c - 1))
  | _, _ => m

/-- Release every region state of a granted launch (R179, R273). -/
def releaseRegions (m : Memory) (dies : List Nat) (l : Launch) : Memory :=
  if l.granted.isNone then m
  else dies.foldl (fun m d =>
    let m1 := (regionList l.rset).foldl (fun m r => releaseRegion m d r false) m
    (regionList l.wset).foldl (fun m r => releaseRegion m d r true) m1) m

/-! ### Phases and their conditions -/

/-- An entry of a Braid condition block (R344): kind, rank or shard id, tag (the layout is the model's, log 27). -/
structure CondEntry where
  kind : Nat
  a    : Nat
  tag  : Nat
  deriving DecidableEq, Repr

/-- The entries of a condition block from its bytes. -/
def condEntries : Nat → List Byte → List CondEntry
  | 0, _ => []
  | n + 1, bs =>
    { kind := leNat (bs.take 4), a := leNat ((bs.drop 4).take 4), tag := leNat ((bs.drop 8).take 2) }
      :: condEntries n (bs.drop 16)

/-- The arrival entries that units of a context hold (R334). -/
def ctxArrivals (s : State) (cid : Nat) : List Arrival :=
  (s.units.filter fun u => u.ctx = cid).flatMap fun u => u.task.arrivals

/-- A window of a context (R328). -/
def Ctx.window? (c : Ctx) (w : Nat) : Option Window :=
  match c.braid with
  | none => none
  | some b => match b.windows.find? fun x => x.1 = w with
    | some x => some x.2
    | none => none

/-- A range of a region window (R333): its DEVICE address, or the failing status. -/
def windowRange (c : Ctx) (win : Nat) (doff : Word) (n : Nat) : Except Nat Nat :=
  match c.window? win with
  | some (.region base size) => if size < doff.toNat + n then .error 5 else .ok (base.toNat + doff.toNat)
  | _ => .error 6

/-- The DEVICE bytes of a range of a region window, where it lies in one. -/
def windowBytes (c : Ctx) (win : Nat) (doff : Word) (n : Nat) : List (Nat × Nat) :=
  match windowRange c win doff n with
  | .ok va => [(va, n)]
  | .error _ => []

/-- A shard-map entry of a context (R328). -/
def Ctx.shard? (c : Ctx) (sid : Nat) : Option ShardMap :=
  match c.braid with
  | none => none
  | some b => b.shards.find? fun x => x.sid = sid

/-- One arrival condition of a phase (R344). -/
def condHolds (s : State) (c : Ctx) (number : Word) (e : CondEntry) : Bool :=
  match e.kind with
  | 0 => (ctxArrivals s c.id).any fun a => a.src.toNat = e.a && a.tag.toNat = e.tag && a.exp.toNat ≤ a.arr.toNat
  | 1 =>
    c.subs.any fun x => x.1 = e.a && match c.window? x.2.1, c.shard? e.a with
      | some (.region base _), some sh =>
        (List.range (sh.e / sh.b)).all fun b => ctxLe s c (base.toNat + x.2.2 + 8 * b) 8 = some number.toNat
      | _, _ => false
  | _ =>
    s.fabric.shards.any fun n => n.ctx = c.id && n.sid = e.a && ctxLe s c (n.desc.toNat + 16) 8 = some number.toNat

/-- The entries of a phase's condition block, with their numbers (R344); none without a block. -/
def phaseConds (s : State) (c : Ctx) (g : Group) : List (CondEntry × Nat) :=
  if g.cond = 0 then []
  else
    match ctxLe s c g.cond.toNat 4 with
    | none => []
    | some n =>
      match ctxRead s c (g.cond.toNat + 16) (16 * min n 256) with
      | .error _ => []
      | .ok bs => (condEntries (min n 256) bs).zip (List.range (min n 256))

/-- The entries of a phase's condition block that have not been met (R344). -/
def condMissing (s : State) (c : Ctx) (g : Group) : List CondEntry :=
  ((phaseConds s c g).filter fun e => !g.met.contains e.2 && !condHolds s c g.number e.1).map fun e => e.1

/-- An object is finished (R254, R344): a phase also waits for its arrival conditions, unless it has been cancelled or its
deadline has passed. A phase that has finished stays so. -/
def phaseFinished (s : State) (c : Ctx) (g : Group) : Bool :=
  g.ended || g.incomplete || (g.full && (g.dead || condMissing s c g = []))

/-- What a phase has come to stands: the conditions met so far, and its end (R254, R344). -/
def latchPhase (s : State) (c : Ctx) (g : Group) : Group :=
  let now := ((phaseConds s c g).filter fun e => condHolds s c g.number e.1).map fun e => e.2
  { g with met := g.met ++ (now.filter fun i => !g.met.contains i), ended := phaseFinished s c g }

/-- A context with a phase that has just come to something that is to stand (R254, R344). -/
def State.unlatched (s : State) : Option Nat :=
  (s.ctxs.find? fun c => c.phases.any fun g => latchPhase s c g ≠ g).map fun c => c.id

/-- A graph or a job is finished. -/
def Group.finished (g : Group) : Bool := g.full

/-- Whether the object of a handle is finished; `none` where the handle names no object of the context (R255). -/
def objectFinished (s : State) (c : Ctx) (h : Nat) : Option Bool :=
  if !c.handleLive h then none
  else match handleLevel h with
    | 0 => (c.launch? h).map Launch.done
    | 1 => (group? c.graphs h).map Group.finished
    | 2 => (group? c.phases h).map (phaseFinished s c)
    | _ => (group? c.jobs h).map Group.finished

/-- Count in a group the members that have come to their end: `ended` tells a member's end and whether it ended without
cancellation. -/
def countMembers (ended : Nat → Option Bool) (g : Group) : Group :=
  g.members.foldl (fun g m =>
    if g.counted.contains m then g
    else match ended m with
      | none => g
      | some true => { g with counted := m :: g.counted, completed := g.completed + 1 }
      | some false => { g with counted := m :: g.counted, cancelled := g.cancelled + 1 }) g

/-- A launch has come to its end, and whether no unit of it was cancelled (R254). -/
def launchEnd (c : Ctx) (h : Nat) : Option Bool :=
  match c.launch? h with
  | none => none
  | some l => if l.done then some (l.cancelled = 0) else none

/-- Count the launches in their graphs, the graphs in their phases and the phases in their jobs, and keep what the phases have come to
(R254). -/
def settleCtx (s : State) (c : Ctx) : Ctx :=
  let c1 : Ctx := { c with graphs := c.graphs.map (countMembers (launchEnd c)) }
  let graphEnd : Nat → Option Bool := fun h => match group? c1.graphs h with
    | none => none
    | some g => if g.finished then some (g.cancelled = 0 && !g.dead) else none
  let c2 : Ctx := { c1 with phases := c1.phases.map fun g => latchPhase s c1 (countMembers graphEnd g) }
  let phaseEnd : Nat → Option Bool := fun h => match group? c2.phases h with
    | none => none
    | some g => if phaseFinished s c2 g then some (g.cancelled = 0 && !g.dead) else none
  { c2 with jobs := c2.jobs.map (countMembers phaseEnd) }

/-- Count the ends of objects in a context. -/
def State.settle (s : State) (cid : Nat) : State := s.mapCtx cid (settleCtx s)

/-- Count a unit of a launch once (R254): completed or cancelled, with its TAINT (R259) and its writes still in flight (R260). The launch's regions are released
when its last unit is counted (R273). -/
def countUnit (s : State) (cid h index : Nat) (completed taint : Bool) (late : List Nat := []) : State :=
  match s.ctx? cid with
  | none => s
  | some c =>
    match c.launch? h with
    | none => s
    | some l =>
      if l.counted.contains index then s
      else
        let l' : Launch := { l with counted := index :: l.counted, completed := l.completed + (if completed then 1 else 0),
                                    cancelled := l.cancelled + (if completed then 0 else 1), taint := l.taint || taint,
                                    late := late ++ l.late }
        let s1 := s.mapCtx cid fun c => c.mapLaunch h fun _ => l'
        let s2 := if l'.done then { s1 with mem := releaseRegions s1.mem c.dies l' } else s1
        s2.settle cid

/-! ### What holds back the accesses of other agents (R299) -/

/-- The receiving context of a message: the one of the sender's number (R342). -/
def msgCtx : Msg → Nat
  | .put o _ _ _ _ _ => o.ctx
  | .fetch o _ _ _ _ _ _ _ _ => o.ctx
  | .fetched o _ _ _ _ _ _ => o.ctx
  | .bred o _ _ _ _ _ _ _ _ _ _ => o.ctx
  | .deliver _ _ ctx _ _ _ _ _ _ => ctx
  | .delivered _ _ ctx _ _ _ _ => ctx
  | .status o _ _ _ => o.ctx
  | .grad o _ _ _ _ _ => o.ctx
  | .stepNotice _ ctx _ _ => ctx
  | .forward _ _ ctx _ _ _ _ _ => ctx
  | .confirm _ ctx _ _ _ => ctx
  | .subscribe o _ _ _ _ _ _ _ _ _ => o.ctx
  | .weights _ ctx _ _ _ _ _ _ _ _ => ctx

/-- The receiving context's DEVICE bytes that a message reads when it is met. -/
def msgReads (c : Ctx) : Msg → List (Nat × Nat)
  | .weights _ _ _ win _ stepOff _ _ blk _ => windowBytes c win (BitVec.ofNat 64 (stepOff + 8 * blk)) 8
  | .fetch _ _ win doff n _ _ _ _ => windowBytes c win doff n
  | _ => []

/-- The receiving context's DEVICE bytes that a message writes when it is met. -/
def msgWrites (c : Ctx) : Msg → List (Nat × Nat)
  | .put _ _ win doff _ bytes => windowBytes c win doff bytes.length
  | .deliver _ _ _ _ _ win doff _ bytes => windowBytes c win doff bytes.length
  | .weights _ _ _ win doff _ _ _ blk bytes => windowBytes c win (doff + BitVec.ofNat 64 (blk * bytes.length)) bytes.length
  | .fetched _ _ _ toLocal la _ bytes => if toLocal then [] else [(la.toNat, bytes.length)]
  | _ => []

/-- The line that holds a message back, because no access to it can be performed now (R299). -/
def State.msgBlocked (s : State) (x : InMsg) : Option Nat :=
  match s.ctx? (msgCtx x.msg), x.begun with
  | some c, none => agentBlocked s c (msgReads c x.msg) (msgWrites c x.msg)
  | _, _ => none

/-- The context whose link a request of the host comes over, if it comes over one. -/
def HostOp.over : HostOp → Option Nat
  | .readRegister c _ => some c
  | .writeDevice c _ _ => some c
  | .readDevice c _ _ => some c
  | .setSupervisor c _ _ => some c
  | .readSupervisor c _ => some c
  | .tlbi c _ _ => some c
  | _ => none

/-- The DEVICE bytes that a request of the host reads, and those that it writes. -/
def HostOp.wants : HostOp → List (Nat × Nat) × List (Nat × Nat)
  | .writeDevice _ va bs => ([], [(va.toNat, bs.length)])
  | .readDevice _ va n => ([(va.toNat, n)], [])
  | _ => ([], [])

/-- The line that a request of the host meets and that no access can use now (R299). -/
def opBlocked (s : State) (o : HostOp) : Option Nat :=
  match o.over with
  | none => none
  | some c => (s.ctx? c).bind fun x => agentBlocked s x o.wants.1 o.wants.2

/-- The link that an input of the host comes over: what comes over one link keeps its order (R356). -/
def Input.link : Input → Option Nat
  | .row (.cqDoorbell c _) => some (ctxLink c)
  | .row (.xferDoorbell c _) => some (ctxLink c)
  | .row (.braidCommit c _) => some (ctxLink c)
  | .row (.vfRegisterWrite c _ _) => some (ctxLink c)
  | .row _ => none
  | .op o => o.over.map ctxLink

end Sys2Proof.Machine
end

