-- ==== Sys2Proof/Machine/Regs.lean ====
section
/-! DEFINITION. Reading and writing a task's registers, predicates, masks, vector registers, ports and flags (R41, R43,
R101, R119, R121), results in flight (R117, R155), and FMT with its shadow (R63, R113). -/

namespace Sys2Proof.Machine

/-- The task in focus. -/
def State.task (s : State) : Task := s.cur.task

/-- GCYC as software reads it: a 64-bit counter (R13). -/
def State.clock (s : State) : Nat := s.gcyc % 2 ^ 64

/-- Replace the task in focus. -/
def State.setTask (s : State) (t : Task) : State := { s with cur := { s.cur with task := t } }

/-- Change the task in focus. -/
def State.mapTask (s : State) (f : Task → Task) : State := s.setTask (f s.task)

/-! ### Scalar registers -/

/-- What s0 to s31 name at a frame base (R101). -/
def sregAt (fb i : Nat) : SReg := if i < 8 then .fixed i else .phys ((fb + i - 8) % 256)

/-- Read a resolved register; s0 reads 0 (R41). -/
def Frames.get (f : Frames) : SReg → Word
  | .fixed i => if i = 0 then 0 else sget f.glob i
  | .phys i => sget f.win i

/-- Write a resolved register; a write to s0 is ignored (R41). -/
def Frames.set (f : Frames) (r : SReg) (v : Word) : Frames :=
  match r with
  | .fixed i => if i = 0 then f else { f with glob := sset f.glob i v }
  | .phys i => { f with win := sset f.win i v }

/-- Read register number `i` of the current window. -/
def Task.sreg (t : Task) (i : Nat) : Word := t.fr.get (sregAt t.fr.fb i)

/-- Write register number `i` as it is named at frame base `fb` (R104). -/
def Task.setSregAt (t : Task) (fb i : Nat) (v : Word) : Task := { t with fr := t.fr.set (sregAt fb i) v }

/-- Write a resolved register. -/
def Task.setSReg (t : Task) (r : SReg) (v : Word) : Task := { t with fr := t.fr.set r v }

/-! ### Predicates and masks -/

/-- Read a predicate; p0 reads 1 (R41). -/
def Task.pred (t : Task) (p : Nat) : Bool := p = 0 || t.preds.getLsbD p

/-- Write a predicate; a write to p0 is ignored (R41). -/
def Task.setPred (t : Task) (p : Nat) (b : Bool) : Task :=
  if p = 0 then t
  else { t with preds := if b then t.preds ||| BitVec.twoPow 16 p else t.preds &&& ~~~ (BitVec.twoPow 16 p) }

/-- A guard holds (R27, R38). -/
def Task.guard (t : Task) (p : Nat) (n : Bool) : Bool := t.pred p ^^ n

/-- Read a mask register; k0 reads all ones (R43). -/
def Task.mask (t : Task) (k : Nat) : BitVec 128 := if k = 0 then BitVec.allOnes 128 else sget t.masks k

/-- Write the bits of a mask register that `m` selects; writes to k0 are ignored (R43). -/
def Task.setMask (t : Task) (k : Nat) (m v : BitVec 128) : Task :=
  if k = 0 then t else { t with masks := sset t.masks k ((sget t.masks k &&& ~~~ m) ||| (v &&& m)) }

/-! ### Vector registers -/

/-- Lane `l` of vector register `v` (R119). -/
def Task.vlane (t : Task) (v l : Nat) : Lane := sget t.vregs (128 * v + l)

/-- `n` lanes of a vector register from lane `l`. -/
def Task.vlanes (t : Task) (v l n : Nat) : List Lane := (List.range n).map fun i => t.vlane v (l + i)

/-- Write lanes from lane `l` upward where their mask bit is set. -/
def setLanes (m : Sparse 32) (key : Nat) : List Lane → List Bool → Sparse 32
  | x :: xs, b :: bs => setLanes (if b then sset m key x else m) (key + 1) xs bs
  | _, _ => m

/-- The bits of a mask from lane `l`, `n` of them. -/
def maskBits {w : Nat} (m : BitVec w) (l n : Nat) : List Bool := (List.range n).map fun i => m.getLsbD (l + i)

/-- A mask word from its bits, lowest first. -/
def ofBits (w : Nat) (bs : List Bool) : BitVec w :=
  BitVec.ofNat w (bs.foldr (fun b a => 2 * a + (if b then 1 else 0)) 0)

/-! ### Ports -/

/-- A bank A port's content. -/
def Ports.getA (p : Ports) (i : Nat) : Word := sget p.a i

/-- Write a bank A port. -/
def Ports.setA (p : Ports) (i : Nat) (v : Word) : Ports := { p with a := sset p.a i v }

/-- The 16 lanes of a bank B port. -/
def Ports.getB (p : Ports) (i : Nat) : List Lane := (List.range 16).map fun l => sget p.b (16 * i + l)

/-- Write lanes of a bank B port where their bit is set. -/
def Ports.setB (p : Ports) (i : Nat) (ls : List Lane) (bs : List Bool) : Ports := { p with b := setLanes p.b (16 * i) ls bs }

/-- The written bits of a cluster's .y port (R121). -/
def Ports.written (p : Ports) (i : Nat) : BitVec 16 := ~~~ (sget p.unw i)

/-- Set the written bits of a cluster's .y port (R121). -/
def Ports.setWritten (p : Ports) (i : Nat) (m : BitVec 16) : Ports := { p with unw := sset p.unw i (~~~ m) }

/-! ### Flags and FMT -/

/-- Set sticky flags (R62). -/
def Task.addFlags (t : Task) (f : Flags) : Task := { t with fmt := { t.fmt with flags := t.fmt.flags.or f } }

/-- Set TAINT (R259). -/
def Task.setTaint (t : Task) : Task := { t with tstat := { t.tstat with taint := true } }

/-- FMT as CSRR reads it (R63). -/
def Fmt.word (f : Fmt) : Word :=
  BitVec.ofNat 64 (f.rm.toNat + (if f.sat then 4 else 0) + (if f.flags.nv then 2 ^ 16 else 0)
    + (if f.flags.dz then 2 ^ 17 else 0) + (if f.flags.ovf then 2 ^ 18 else 0) + (if f.flags.nf then 2 ^ 19 else 0))

/-- An FMTSET value takes effect: RM, SAT, and CLR clears the flags (R63, R113). -/
def Fmt.apply (f : Fmt) (v : BitVec 16) : Fmt :=
  { sat := v.getLsbD 2, rm := v.extractLsb' 0 2, flags := if v.getLsbD 15 then Flags.none else f.flags }

/-- The FMTSET values due by the current τ take effect, in order (R113). -/
def Task.settleFmt (t : Task) : Task :=
  let due := t.fmtPend.filter fun x => x.1 ≤ t.sq.tau
  { t with fmt := due.foldl (fun f x => f.apply x.2) t.fmt, fmtPend := t.fmtPend.filter fun x => t.sq.tau < x.1 }

/-- The rounding mode in force (R65). -/
def Task.rm (t : Task) : Rm := rmOf t.fmt.rm

/-- The determinism level of the task (R259). -/
def Task.dl0 (t : Task) : Bool := t.tstat.dl = .dl0

/-- The code of a level (R256, R259). -/
def levelCode : Level → Nat
  | .dl0 => 0
  | .dl1 => 1
  | .dl2 => 2

/-- The level of a code. -/
def levelOf (n : Nat) : Level :=
  match n with
  | 0 => .dl0
  | 1 => .dl1
  | _ => .dl2

/-- TSTAT as CSRR reads it (R259). -/
def TStat.word (x : TStat) : Word :=
  BitVec.ofNat 64 (levelCode x.dl + (if x.wl then 8 else 0) + 16 * x.prio.toNat + (if x.gang then 64 else 0)
    + (if x.taint then 128 else 0))

/-! ### Results in flight -/

/-- Add a result in flight. -/
def Task.push (t : Task) (p : Pipe) : Task := { t with pipe := t.pipe ++ [p] }

/-- A bank A result of latency `l`: readable in latch `port` from τ t + l (R117). -/
def Task.result (t : Task) (l port : Nat) (v : Word) (f : Flags) : Task :=
  t.push { ready := t.sq.tau + l, dest := .latchA port, val := v, lanes := [], mask := 0, flags := f }

/-- A cluster result of latency `l` (R117, R121). -/
def Task.resultB (t : Task) (l port : Nat) (ls : List Lane) (m : BitVec 16) (f : Flags) : Task :=
  t.push { ready := t.sq.tau + l, dest := .latchB port, val := 0, lanes := ls, mask := m, flags := f }

/-- Flags alone, set at the end of τ t + l − 1 (R66). -/
def Task.flagsAt (t : Task) (l : Nat) (f : Flags) : Task :=
  t.push { ready := t.sq.tau + l, dest := .flagsOnly, val := 0, lanes := [], mask := 0, flags := f }

/-- A refused trigger: NV at the end of its τ and nothing else (R375). -/
def Task.refuse (t : Task) : Task := t.flagsAt 1 flagNv

/-- A result arrives in its latch, and its flags are set; vector registers are written later in the τ (R155). -/
def Task.retireLatch (t : Task) (p : Pipe) : Task :=
  let t1 := match p.dest with
    | .latchA port => { t with ports := t.ports.setA port p.val }
    | .latchB port =>
      { t with ports := (t.ports.setB port p.lanes (maskBits p.mask 0 16)).setWritten port p.mask }
    | _ => t
  t1.addFlags p.flags

/-- A load's lanes arrive in their vector register (R155, R156). -/
def Task.retireVreg (t : Task) (p : Pipe) : Task :=
  match p.dest with
  | .vreg c v => { t with vregs := setLanes t.vregs (128 * v + 16 * c) p.lanes (maskBits p.mask 0 16) }
  | _ => t

/-- The results that arrive at the end of the current τ. -/
def Task.arriving (t : Task) : List Pipe := t.pipe.filter fun p => p.ready ≤ t.sq.tau + 1

/-- The results still in flight after it. -/
def Task.inFlight (t : Task) : List Pipe := t.pipe.filter fun p => t.sq.tau + 1 < p.ready

end Sys2Proof.Machine
end

