-- ==== Sys2Proof/Machine/Frames.lean ====
section
/-! DEFINITION. The register window's frames: the call action with its spills (R103, R108), the return with its fill (R109),
and the unwinding of a restart=entry routine to its CALLR (R318). -/

namespace Sys2Proof.Machine

/-- s2, the backing-store pointer (R101). -/
def Task.s2 (t : Task) : Word := t.fr.get (.fixed 2)

/-- Set s2. -/
def Task.setS2 (t : Task) (v : Word) : Task := t.setSReg (.fixed 2) v

/-- The link of the oldest resident frame (R102). -/
def oldestLink (ls : List Link) : Link := ls.getLastD { ret := 0, o := 0 }

/-- The slide of the call that the oldest resident frame made: of its own callee's link (R102). The frame at depth 0 has
no link. -/
def oldestSlide (f : Frames) : Nat := if f.low = 0 then (oldestLink f.links).o else (oldestLink f.links.dropLast).o

/-- Put 64-bit words into scratchpad from an address upward. -/
def writeWords (m : Sparse 8) (a : Nat) : List Word → Sparse 8
  | [] => m
  | w :: ws => writeWords (writeBytes m a (natLe 8 w.toNat)) (a + 8) ws

/-- The record of a spill (R108): private entries, return address, entering slide. -/
def spillRecord (f : Frames) (o : Nat) : List Word :=
  let l := oldestLink f.links
  (List.range o).map (fun i => f.get (.phys ((f.rb + i) % 256)))
    ++ (if f.low = 0 then [0, 0] else [l.ret, BitVec.ofNat 64 l.o])

/-- One spill of the oldest resident frame (R108). -/
def spillOne (t : Task) : Task :=
  let o := oldestSlide t.fr
  let lm := writeWords t.lmem t.s2.toNat (spillRecord t.fr o)
  let fr : Frames := { t.fr with rb := t.fr.rb + o, low := t.fr.low + 1, links := if t.fr.low = 0 then t.fr.links else t.fr.links.dropLast }
  ({ t with lmem := lm, fr := fr }).setS2 (t.s2 + BitVec.ofNat 64 (8 * o + 16))

/-- The call fits without a further spill (R103). -/
def callFits (f : Frames) (o : Nat) : Bool := f.fb + o + 24 ≤ f.rb + 256 && f.links.length + 1 ≤ 32

/-- The spills a call needs (R103); `none` when a record would pass BSLIM. -/
def planSpills (o : Nat) : Nat → Task → Option Task
  | 0, t => some t
  | n + 1, t =>
    if callFits t.fr o then some t
    else if t.fr.bslim < t.s2.toNat + 8 * oldestSlide t.fr + 16 then none
    else planSpills o n (spillOne t)

/-- The checks of a call that follow its form's own (R103). -/
def callCheck (t : Task) (o : Nat) : Option FaultCode :=
  if t.fr.depth = 255 then some .stackOvf
  else if t.s2.toNat % 8 ≠ 0 then some .alignLocal
  else if (planSpills o 256 t).isNone then some .stackOvf
  else none

/-- The call action once its checks have passed (R103): spills, link, slide. It comes after the LIW's own writes (R104): where
one of them wrote s2, the spills go to the s2 that it wrote, and none is performed where they do not fit there (log 53). -/
def doCall (t : Task) (ret : Word) (o : Nat) : Task :=
  let t1 := (planSpills o 256 t).getD t
  { t1 with fr := { t1.fr with links := { ret := ret, o := o } :: t1.fr.links, fb := t1.fr.fb + o,
                               depth := t1.fr.depth + 1 } }

/-- The physical entries that the spills of a call read. -/
def spillTouches (t : Task) (o : Nat) : List SReg :=
  let t1 := (planSpills o 256 t).getD t
  (List.range (t1.fr.rb - t.fr.rb)).map fun i => .phys ((t.fr.rb + i) % 256)

/-- The link of the current frame. A frame whose link was filled after a return through a slide that the task had rewritten to 0 has none
in the core: it reads as return address 0 and slide 0 (log 53). -/
def topLink (f : Frames) : Link := f.links.headD { ret := 0, o := 0 }

/-- The return needs a fill: the caller's frame is spilled (R109). -/
def needsFill (f : Frames) : Bool := f.fb < f.rb + (topLink f).o

/-- The faults of a return (R109). -/
def retCheck (t : Task) : Option FaultCode :=
  if t.fr.depth = 0 then some .illegal
  else if needsFill t.fr then
    if t.s2.toNat % 8 ≠ 0 then some .alignLocal
    else if t.s2.toNat < t.fr.bsbase + 8 * (topLink t.fr).o + 16 then some .stackOvf
    else none
  else none

/-- FB or RB lowered by a slide: a 64-bit counter (R101, R109). -/
def subFb (fb o : Nat) : Nat := if o ≤ fb then fb - o else fb + 2 ^ 64 - o

/-- Fill a spilled frame of slide `o` whose first private entry is number `base`, from the record that ends at s2; its
link goes below the resident ones, unless the frame is the one at depth 0 (R109). Nothing checks where a task-written s2 lies: a
record beyond BSLIM or LOCAL is read as the bytes stand, 0 where there are none (log 53). -/
def fillFrame (t : Task) (o base : Nat) : Task :=
  let s2 := t.s2.toNat - (8 * o + 16)
  let fr1 := (List.range o).foldl (fun (f : Frames) (i : Nat) =>
    f.set (.phys ((base + i) % 256)) (BitVec.ofNat 64 (readLe t.lmem (s2 + 8 * i) 8))) t.fr
  let l : Link := { ret := BitVec.ofNat 64 (readLe t.lmem (s2 + 8 * o) 8), o := readLe t.lmem (s2 + 8 * o + 8) 1 }
  let fr2 : Frames := { fr1 with rb := base, low := t.fr.low - 1, links := if t.fr.low = 1 then fr1.links else fr1.links ++ [l] }
  ({ t with fr := fr2 }).setS2 (BitVec.ofNat 64 s2)

/-- Pop the loop levels pushed at a call depth (R93, R109). -/
def popLevelsAt (ls : List Loop) (d : Nat) : List Loop := ls.filter fun l => l.depth ≠ d

/-- The return once its checks have passed (R109). -/
def doRet (t : Task) : Task :=
  let o := (topLink t.fr).o
  let t1 := if needsFill t.fr then fillFrame t o (subFb t.fr.fb o) else t
  { t1 with fr := { t1.fr with links := t1.fr.links.tail, fb := subFb t1.fr.fb o, depth := t1.fr.depth - 1 },
            sq := { t1.sq with loops := popLevelsAt t1.sq.loops t.fr.depth },
            restart := match t1.restart with
              | some r => if t.fr.depth ≤ r.depth then none else some r
              | none => none,
            calls := t1.calls.filter fun x => x.depth < t.fr.depth }

/-- Return until the depth is `d`, filling as R109 does. -/
def popToDepth (d : Nat) : Nat → Task → Task
  | 0, t => t
  | n + 1, t => if t.fr.depth ≤ d then t else popToDepth d n (doRet t)

/-- Fill the frames below the oldest resident one until RB is `rb` (R318). -/
def fillDown (rb : Nat) : Nat → Task → Task
  | 0, t => t
  | n + 1, t =>
    if t.fr.rb ≤ rb || t.fr.links.isEmpty then t
    else fillDown rb n (fillFrame t (oldestLink t.fr.links).o (subFb t.fr.rb (oldestLink t.fr.links).o))

/-- A native unit stands in the place of the body that runs (R320). -/
def Task.inUnit (t : Task) : Bool := t.calls.any fun x => x.entry.isSome

/-- The caller's own flags at a τ, as they stood at a CALLR and have changed since (R62, R66, R113): a CLR of τ c clears what was
set before the end of τ c. -/
def CallFrame.own (f : CallFrame) (tau : Nat) : Flags :=
  let cs := f.clears.filter fun c => c ≤ tau
  (f.owed.filter fun x => x.1 ≤ tau && cs.all fun c => c < x.1).foldl (fun a x => a.or x.2)
    (if cs = [] then f.flags else Flags.none)

/-- A unit that reports a fault has written nothing: its outputs and result registers, and the flags, are those of the CALLR (R316,
R318, R319). -/
def restoreUnit (t : Task) (f : CallFrame) : Task :=
  if f.entry.isNone then t
  else
    let t1 := f.regs.foldl (fun (t : Task) x => t.setSReg x.1 x.2)
      { t with lmem := f.bytes.foldl (fun m x => writeBytes m x.1 x.2) t.lmem }
    { t1 with fmt := { t1.fmt with flags := f.own t.sq.tau } }

/-- A fault in a restart=entry frame, or in one it called, is reported at the CALLR (R318): the frames are popped to the
caller, FB, RB, depth and s2 take their values from before the CALLR, and the loop levels above are discarded. -/
def unwindRestart (t0 : Task) : Task :=
  let t := t0.calls.foldl restoreUnit t0
  match t.restart with
  | none => t
  | some r =>
    let t1 := fillDown r.rb 256 (popToDepth (r.depth - 1) 256 t)
    let t2 := ({ t1 with sq := { t1.sq with pc := r.pc, loops := t1.sq.loops.drop (t1.sq.loops.length - r.loops) }, restart := none })
    t2.setS2 r.s2

end Sys2Proof.Machine
end

