-- ==== Sys2Proof/Machine/Ops.lean ====
section
/-! DEFINITION. The operations the instructions share: scratchpad accesses (R150, R177), DEVICE accesses of a core (R212,
R221, R223, R225), queue bindings (R157, R158), ending a unit (R273, R290), and taking a fault and returning from it
(R281, R288, R289, R292). -/

namespace Sys2Proof.Machine

/-! ### Scratchpad -/

/-- The task's F (R148). -/
def Task.f (t : Task) : Nat := t.foot.size

/-- The checks of a scratchpad access of `n` bytes (R150), with TVAL. -/
def localFault (t : Task) (ea : Word) (n align : Nat) : Option (FaultCode × Word) :=
  if ea.toNat % align ≠ 0 then some (.alignLocal, ea)
  else if 0x200000 < ea.toNat + n then some (.alignLocal, ea)
  else if t.f < ea.toNat + n then some (.prot, ea)
  else none

/-- The byte offsets of a shape's elements in visiting order (R168). -/
def shapeOffsets (s : Shape) : List Int :=
  let d : Nat → Nat := fun i => s.dims.getD i 1
  let st : Nat → Int := fun i => s.strs.getD i 0
  (List.range (d 3)).flatMap fun i3 => (List.range (d 2)).flatMap fun i2 => (List.range (d 1)).flatMap fun i1 =>
    (List.range (d 0)).map fun i0 =>
      (Int.ofNat i0 * st 0 + Int.ofNat i1 * st 1 + Int.ofNat i2 * st 2 + Int.ofNat i3 * st 3) * 2 ^ s.esz
        + (if s.bm then (Int.ofNat (i1 % 32)) * 64 else 0)

/-- The byte ranges of a copy operand from a base (R168, R170); addresses are modulo 2^64. -/
def layoutRanges (base : Word) : Layout → List (Nat × Nat)
  | .row n => [(base.toNat, n)]
  | .shape s => (shapeOffsets s).map fun o => ((base + BitVec.ofInt 64 o).toNat, 2 ^ s.esz)

/-- The slots a copy into a queue will fill, as the queue stands (R175). -/
def queueSlots (b : QBind) (n : Nat) : List (Nat × Nat) :=
  (List.range (n / 2 ^ b.esz)).map fun i => (b.base + (b.tail + i) % b.depth * 2 ^ b.esz, 2 ^ b.esz)

/-- The number of bytes of a layout. -/
def layoutSize : Layout → Nat
  | .row n => n
  | .shape s => s.dims.foldl (· * ·) 1 * 2 ^ s.esz

/-- The LOCAL bytes on which a pending command still has a write to perform (R177). -/
def cmdWrites (t : Task) (c : Cmd) : List (Nat × Nat) :=
  match c.kind with
  | .copy _ .local _ da sl dl q =>
    match q with
    | none => layoutRanges da dl
    | some j => match t.queues.find? fun b => b.j = j with
      | some b => queueSlots b (layoutSize sl)
      | none => []
  | .mrd _ => c.writes.map fun w => (w.1, 1)
  | .wit => c.writes.map fun w => (w.1, 1)
  | .adjb => c.writes.map fun w => (w.1, 1)
  | .bfetch _ la n => [(la, n)]
  | .braid b => if b.kind = 1 && b.flags.getLsbD 0 = false then [(b.la.toNat, b.n)] else []
  | _ => []

/-- Three ranges share a byte. -/
def overlap3 (a n b m c k : Nat) : Bool := max a (max b c) < min (a + n) (min (b + m) (c + k))

/-- A read of LOCAL meets an armed range on a byte that a pending command still has to write (R177). What the LIW of the read enqueues
itself is not yet pending (log 45). -/
def earlyRead (t : Task) (a n : Nat) : Bool :=
  t.echk.any fun e => t.cmds.any fun c => (cmdWrites t c).any fun w => overlap3 a n e.base e.len w.1 w.2

/-- The checks of a scratchpad read: R150, then R177. -/
def localReadFault (t : Task) (ea : Word) (n align : Nat) : Option (FaultCode × Word) :=
  match localFault t ea n align with
  | some f => some f
  | none => if earlyRead t ea.toNat n then some (.earlyRead, ea) else none

/-- A range of LOCAL overlaps a bound control word (R158). -/
def hitsControl (t : Task) (a n : Nat) : Bool := t.queues.any fun b => overlap a n b.addr 16

/-- The checks of a scratchpad store: R150, then R158. -/
def localWriteFault (t : Task) (ea : Word) (n align : Nat) : Option (FaultCode × Word) :=
  match localFault t ea n align with
  | some f => some f
  | none => if hitsControl t ea.toNat n then some (.queue, 0) else none

/-! ### Queues -/

/-- The upper half of a control word with HEAD, TAIL and FILL replaced (R157). -/
def controlHigh (old : Nat) (b : QBind) : Nat :=
  let keep := (BitVec.ofNat 64 old) &&& ~~~ (0x1FFF0FFF0FFF : BitVec 64)
  (keep ||| BitVec.ofNat 64 (b.head + b.tail * 2 ^ 16 + b.fill * 2 ^ 32)).toNat

/-- Write a bound queue's HEAD, TAIL and FILL back into its control word (R158). -/
def writeBack (m : Sparse 8) (b : QBind) : Sparse 8 :=
  writeBytes m (b.addr + 8) (natLe 8 (controlHigh (readLe m (b.addr + 8) 8) b))

/-- Write every bound queue back (R163). -/
def writeBackAll (t : Task) : Task := { t with lmem := t.queues.foldl writeBack t.lmem }

/-- The geometry fields of a control word are consistent (R157): slot size, depth, base, slot area, indices. -/
def QBind.consistent (b : QBind) (f : Nat) : Bool :=
  b.esz ≤ 9 && 1 ≤ b.depth && b.depth ≤ 4096 && b.base % min (2 ^ b.esz) 64 = 0
    && b.base + b.depth * 2 ^ b.esz ≤ f && !overlap b.base (b.depth * 2 ^ b.esz) b.addr 16
    && b.head < b.depth && b.tail < b.depth && b.fill ≤ b.depth && b.tail = (b.head + b.fill) % b.depth

/-- The reserved bits of a control word (R157). -/
def controlReserved : BitVec 128 :=
  (0x7FFFF : BitVec 128) <<< (109 : Nat) ||| (0xF : BitVec 128) <<< (92 : Nat) ||| (0xF : BitVec 128) <<< (76 : Nat)
    ||| (0xFFF : BitVec 128) <<< (52 : Nat) ||| (0x7 : BitVec 128) <<< (45 : Nat) ||| (0x7FF : BitVec 128) <<< (21 : Nat)

/-- The binding that a control word in scratchpad describes; `none` when a reserved bit is set (R157). -/
def readControl (m : Sparse 8) (j addr : Nat) : Option QBind :=
  let w := BitVec.ofNat 128 (readLe m addr 16)
  if w &&& controlReserved ≠ 0 then none
  else some { j := j, addr := addr, base := (w.extractLsb' 0 21).toNat, esz := (w.extractLsb' 48 4).toNat,
              depth := (w.extractLsb' 32 13).toNat, head := (w.extractLsb' 64 12).toNat,
              tail := (w.extractLsb' 80 12).toNat, fill := (w.extractLsb' 96 13).toNat }

/-- The bindings of a task that resumes are made again, to the same control words, from what those hold (R163, R285); a word that
describes no consistent queue leaves its latch as it was (log 12). -/
def rebindAll (t : Task) : Task :=
  { t with queues := t.queues.map fun b => match readControl t.lmem b.j b.addr with
      | some b' => if b'.consistent t.f then b' else b
      | none => b }

/-- The binding of latch `j`. -/
def Task.queue? (t : Task) (j : Nat) : Option QBind := t.queues.find? fun b => b.j = j

/-- The LOCAL address of a slot (R157). -/
def QBind.slot (b : QBind) (i : Nat) : Nat := b.base + i % b.depth * 2 ^ b.esz

/-- What a move reads from latch `j` (R159). -/
def Task.latch (t : Task) (j : Nat) : Word :=
  match t.queue? j with
  | none => 0
  | some b =>
    if b.esz ≤ 3 then
      if b.fill = 0 then 0 else BitVec.ofNat 64 (readLe t.lmem (b.slot b.head) (2 ^ b.esz))
    else BitVec.ofNat 64 (b.slot b.head)

/-! ### DEVICE accesses of a core -/

/-- The context of the unit in focus. -/
def State.curCtx (s : State) : Ctx :=
  (s.ctx? s.cur.ctx).getD
    { id := s.cur.ctx, dies := [], level := .dl0, ptroot := 0, tvec := 0, share := 1, served := 0, hadWork := false,
      energy := { grant := 0, nextGrant := 0, committed := 0, metered := 0, asked := false },
      rings := { cqBase := 0, cqSize := 0, cqHead := 0, cqTail := 0, evBase := 0, evSize := 0, evHead := 0, evTail := 0,
                 evLost := 0, xfBase := 0, xfSize := 0, xfHead := 0, xfTail := 0, braidTab := 0 },
      braid := none, launches := [], graphs := [], phases := [], jobs := [], serials := (0, 0, 0, 0), packets := [],
      modules := [], keys := [], rounds := [], resend := [], subs := [], nextMsg := 0, tdisp := false }

/-- The launch of a unit. -/
def State.launchOf (s : State) (u : QUnit) : Option Launch :=
  match s.ctx? u.ctx with
  | none => none
  | some c => c.launch? u.launch

/-- A core access to DEVICE by the unit in focus (R212): alignment, then steps 2 to 4; the DPA or the fault. -/
def coreAccess (s : State) (va : Word) (align : Nat) (a : Access) : Except FaultCode Nat :=
  if va.toNat % align ≠ 0 then .error .alignLocal
  else devCheck s.mem s.board.slots s.tick s.cur.core s.curCtx va.toNat a (s.cur.priv = .user)

/-- The memory after the translation of an access of the unit in focus that was checked at `tick`: the lines of its walk have come
into their L2s (R217), and the caches are filled (R214). -/
def State.fillTlb (s : State) (tick : Nat) (va : Word) : State :=
  let m := (walked s.mem tick s.cur.core s.curCtx va.toNat).foldl
    (fun m a => l2Touch s.health m (dpaDie a) a none s.cur.ctx false) s.mem
  { s with mem := tlbFill m tick s.cur.core s.curCtx va.toNat }

/-- The translations of an engine's ranges, page by page (R172, R214). -/
def State.fillRanges (s : State) (tick : Nat) (rs : List (Nat × Nat)) : State :=
  (rs.flatMap fun r => chunks r.1 r.2).foldl (fun s x => s.fillTlb tick (BitVec.ofNat 64 x.1)) s

/-- The line that the walk for an address meets and that no access can use now (R299). -/
def walkBlocked (s : State) (va : Word) : Option Nat :=
  (walked s.mem s.tick s.cur.core s.curCtx va.toNat).find? fun a => s.mem.blocked (dpaDie a) a

/-- The new value an atomic stores, when it stores one, and its flags (R225). -/
def atomResult (op : AtomOp) (old b cmp : Word) : Option Word × Flags :=
  match op with
  | .add => (some (old + b), Flags.none)
  | .min => (some (if old.toInt ≤ b.toInt then old else b), Flags.none)
  | .max => (some (if b.toInt ≤ old.toInt then old else b), Flags.none)
  | .or => (some (old ||| b), Flags.none)
  | .exch => (some b, Flags.none)
  | .cas => (if old = cmp then some b else none, Flags.none)
  | .fadd =>
    let r := fpAdd .rne (old.setWidth 32) (b.setWidth 32)
    (some (r.1.setWidth 64), r.2)

/-- An atomic reads and writes its location at the home die in one step (R225), as one access to its L2 (R217); one that fails
writes nothing. -/
def performAtom (s : State) (u : QUnit) (r : LoadReq) (op : AtomOp) : State :=
  let die := dpaDie r.dpa
  let old := BitVec.ofNat 64 (homeLe s.mem r.dpa r.size)
  let ids := readIds s.mem u die r.mark r.dpa r.size
  let u1 := noteRead s.mem u die r.mark r.dpa r.size
  let mu : Memory × QUnit := match (atomResult op old r.b r.cmp).1 with
    | none => (l2Touch s.health s.mem die r.dpa none u.ctx false, u1)
    | some v =>
      let p : Memory × QUnit := enterUnit s.mem u1 r.deps (atAddr r.dpa (natLe r.size v.toNat))
      (match p.1.writes.find? fun w => w.id = s.mem.nextW with
       | some w => applyHome s.health p.1 w
       | none => p.1, p.2)
  let s1 : State := { s with mem := mu.1 }
  let loads : List LoadReq :=
    mu.2.task.loads.map fun (x : LoadReq) => if x.id = r.id then { x with old := some old, deps := ids } else x
  s1.mapUnit u.uid fun _ => { mu.2 with task := { mu.2.task with loads := loads } }

/-- The flags of a caller's access that arrives while a routine runs are the caller's own (R62). -/
def CallFrame.owes (f : CallFrame) (k tau : Nat) (fl : Flags) : CallFrame :=
  if f.loads.contains k then { f with owed := f.owed ++ [(tau, fl)] } else f

/-- The data of a load-type access arrives (R221): the destination entry is written and is no longer pending; an atomic's
flags are set (R225). A load's line comes into the die's L2 under its hint (R217). -/
def arriveLoad (s : State) (u : QUnit) (r : LoadReq) : State :=
  let die := coreDie u.core
  let m1 := if r.atom.isSome then s.mem else bringLines s.health s.mem u (some r.hint) [(r.dpa, r.size)]
  let v : Word := match r.old with
    | some o => o
    | none => BitVec.ofNat 64 (readLe (unitView m1 u r.mark) r.dpa r.size)
  let fl : Flags := match r.atom, r.old with
    | some op, some o => (atomResult op o r.b r.cmp).2
    | _, _ => Flags.none
  let u1 := if r.atom.isSome then u else noteRead m1 u die r.mark r.dpa r.size
  let ids := if r.atom.isSome then r.deps else readIds m1 u die r.mark r.dpa r.size
  let t1 := { u1.task with loads := u1.task.loads.filter (fun x => x.id ≠ r.id),
                           calls := u1.task.calls.map fun (f : CallFrame) => f.owes r.id u1.task.sq.tau fl }
  let t2 := match r.dest with
    | some d => t1.setSReg d v
    | none => t1
  let o := match r.dest with
    | some d => setOrigin u1.origins (regKey d) ids
    | none => u1.origins
  { s with mem := m1 }.mapUnit u.uid fun _ => { u1 with task := t2.addFlags fl, origins := o }

/-- The memory once the unit in focus has fetched the lines of some DPA ranges to read them (R215, R217, R230). -/
def State.fetched (s : State) (rs : List (Nat × Nat)) : Memory := bringLines s.health s.mem s.cur none rs

/-- What the unit in focus reads in some DPA ranges now. -/
def State.deviceBytes (s : State) (rs : List (Nat × Nat)) : List Byte :=
  let m := s.fetched rs
  readRanges (unitView m s.cur m.nextW) rs

/-- The unit in focus cannot read some DPA ranges now (R230, R299): a DPA it waits for. -/
def State.readWaits (s : State) (rs : List (Nat × Nat)) : Option Nat :=
  if readReady s.mem s.cur [] s.mem.nextW rs then none else some ((rs.map Prod.fst).headD 0)

/-- The unit in focus has an outstanding load-type access: it is not switched out before that has arrived (R235). -/
def State.loading (s : State) : Bool := !s.task.loads.isEmpty

/-- Stores of a unit enter the memory system (R223), after the writes that their address or data depends on (R229). -/
def storeDevice (s : State) (uid : Nat) (deps : List Nat) (bs : List (Nat × Byte)) : State :=
  match s.unit? uid with
  | none => s
  | some u =>
    let p := enterWrites s.mem u deps bs
    ({ s with mem := p.1 }).mapUnit uid fun _ => p.2

/-- The home die may apply a write now (R228): no outstanding access that its task issued before it to the location still has to be
performed (R229). -/
def State.homeReady (s : State) (w : DevWrite) : Bool :=
  Machine.homeReady s.mem w
    && !s.units.any fun u => w.uid = some u.uid && u.task.loads.any fun r => r.dpa / 8 = w.loc && r.mark ≤ w.id && r.old.isNone

/-! ### Energy and injected errors -/

/-- The unit runs SYSTEM firmware (R303). -/
def QUnit.isFirmware (u : QUnit) : Bool := u.kind = .firmware || u.kind = .errorEntry

/-- A meter after `e` nJ: it is 64 bits wide (R359). -/
def meterAdd (m e : Nat) : Nat := (m + e) % 2 ^ 64

/-- The energy of some events, each a kind and a number of them (R359). -/
def energyOf (es : List (Nat × Nat)) : Nat := es.foldl (fun n x => n + x.2 * Config.energyCoef x.1) 0

/-- Add energy to the meter of a core or an engine of it, and to a context's (R359). -/
def State.addEnergy (s : State) (cid core engine e : Nat) : State :=
  let old := match s.board.meters.find? fun x => x.1 = (core, engine) with
    | some x => x.2
    | none => 0
  { s.mapCtx cid (fun c => { c with energy := { c.energy with metered := meterAdd c.energy.metered e } }) with
    board := { s.board with meters :=
      ((core, engine), meterAdd old e) :: s.board.meters.filter fun x => x.1 ≠ (core, engine) } }

/-- Events of the task in focus on its core (engine 0) or an engine of it: the copy engine 1, the arrays 2 and 3, the witness units 4,
the Braid's senders 5. They add to the meter, and to the task's and its context's (R359, log 19). -/
def State.charge (s : State) (engine : Nat) (es : List (Nat × Nat)) : State :=
  let e := energyOf es
  let s1 := s.addEnergy (if s.cur.isFirmware then 256 else s.cur.ctx) s.cur.core engine e
  { s1 with cur := { s1.cur with energy := meterAdd s1.cur.energy e }, tick := s1.tick + 1 }

/-- The engine of a command, by the number of its meter. -/
def Cmd.engine (c : Cmd) : Nat :=
  match c.kind with
  | .mlw a _ _ _ _ _ => 2 + a
  | .mswp a => 2 + a
  | .step a _ _ _ _ _ _ _ _ _ _ _ => 2 + a
  | .mrd a => 2 + a
  | .wit => 4
  | .adjb => 4
  | .braid _ => 5
  | .bfetch _ _ _ => 5
  | _ => 1

/-- The bytes of 64 elements of a format in LOCAL. -/
def rowBytes (f : Format) : Nat := 64 * (if f = .bf16 || f = .fp16 then 2 else 1)

/-- The bytes an engine moves for a command: those that it copies, loads or writes, a weight block with its scales, a step's rows of each
operand (R359, log 19). -/
def Cmd.bytes (c : Cmd) : Nat :=
  match c.kind with
  | .copy _ _ _ _ sl _ _ => layoutSize sl
  | .wsload _ _ n => n
  | .mlw _ _ _ _ _ wf => 64 * rowBytes wf + (if wf = .d2p8 then 128 else 0)
  | .step _ mop _ _ rows _ _ _ _ af wf _ => rows * (rowBytes af + (if mop then rowBytes wf else 0))
  | .braid b => b.n
  | .bfetch _ _ n => n
  | _ => c.writes.length

/-- The engine's bytes of a command are metered. -/
def State.chargeCmd (s : State) (c : Cmd) : State := s.charge c.engine [(3, c.bytes)]

/-- Corrupt the target line where it is resident in its home L2, and clear ARM (R300). -/
def inject (s : State) : State :=
  let line := s.mem.einjLine
  let die := dpaDie (128 * line)
  if s.mem.einjArmed && hasLine s.mem die line then
    { s with mem := { s.mem with
        l2 := s.mem.l2.map fun l => if l.die = die && l.line = line then { l with hurt := some (s.mem.einj.getLsbD 40) } else l,
        einj := disarm s.mem.einj } }
  else s

/-! ### Code -/

/-- An address names the first byte of an LIW of a module's native text (R46). -/
def Module.isStart (m : Module) (a : Word) : Bool := m.live && m.starts.contains a

/-- An address names a bundle of a module's Peman text (R85): the bundles stand 16 bytes apart from the text's start (log 57). -/
def Module.isBundle (m : Module) (a : Word) : Bool :=
  m.live && m.peman.1.toNat ≤ a.toNat && a.toNat < m.peman.1.toNat + m.peman.2 && (a.toNat - m.peman.1.toNat) % 16 = 0

/-- An address lies in a module's text of either layer. -/
def Module.holds (m : Module) (a : Word) : Bool :=
  m.live && ((m.native.1.toNat ≤ a.toNat && a.toNat < m.native.1.toNat + m.native.2)
    || (m.peman.1.toNat ≤ a.toNat && a.toNat < m.peman.1.toNat + m.peman.2))

/-- An address lies in a module's Peman text. -/
def Module.inPeman (m : Module) (a : Word) : Bool :=
  m.live && m.peman.1.toNat ≤ a.toNat && a.toNat < m.peman.1.toNat + m.peman.2

/-- The module whose text an address lies in. -/
def Ctx.moduleAt (c : Ctx) (a : Word) : Option Module := c.modules.find? fun m => m.holds a

/-- A native transfer target is an LIW start (R46, R84, R85): of native text, or the first LIW of a bundle's translation, which
stands at the bundle's own address here (R312, log 3). -/
def State.isStart (s : State) (a : Word) : Bool :=
  if s.cur.isFirmware then s.board.fwStarts.contains a else s.curCtx.modules.any fun m => m.isStart a || m.isBundle a

/-- A transfer target of Peman is a bundle of the linked Peman text (R84, R85, R105). -/
def State.isBundle (s : State) (a : Word) : Bool := s.curCtx.modules.any fun m => m.isBundle a

/-- The unit in focus executes Peman at its pc. -/
def State.inPeman (s : State) : Bool := !s.cur.isFirmware && s.curCtx.modules.any fun m => m.inPeman s.task.sq.pc

/-- A descriptor of the context's descriptor map (R106, R114). -/
def Ctx.desc? (c : Ctx) (a : Word) : Option Desc :=
  (c.modules.filter fun m => m.live).findSome? fun m => m.descs.find? fun d => d.addr = a

/-- The 8-bit code of a fault (R287). -/
def FaultCode.num : FaultCode → Nat
  | .illegal => 0x10
  | .callSig => 0x11
  | .launchFit => 0x12
  | .xlate => 0x13
  | .priv => 0x15
  | .alignShape => 0x16
  | .alignLocal => 0x17
  | .alignCopy => 0x18
  | .prot => 0x19
  | .key => 0x1A
  | .timing => 0x1B
  | .earlyRead => 0x1C
  | .witnessStale => 0x1D
  | .stackOvf => 0x1E
  | .wsRo => 0x1F
  | .mcfgBusy => 0x20
  | .queue => 0x21
  | .memUe => 0x22
  | .fabric => 0x23
  | .trap => 0x30

/-! ### Ending a unit -/

/-- The physical page that holds page `i` of a footprint, which lies in a set of pages: the `i`-th of them (R149, log 9). -/
def pageOf (ps : BitVec 512) (i : Nat) : Nat := ((List.range 512).filter fun p => ps.getLsbD p).getD i (512 + i)

/-- The place in a core's scratchpad of an address of a footprint that lies in some pages (R149). -/
def placeOf (ps : BitVec 512) (a : Nat) : Nat := 4096 * pageOf ps (a / 4096) + a % 4096

/-- The address of a footprint of `f` bytes that lies at a place of a core's scratchpad, if one does. -/
def footAt (ps : BitVec 512) (f x : Nat) : Option Nat :=
  (((List.range ((f + 4095) / 4096)).find? fun i => pageOf ps i = x / 4096).map fun i => 4096 * i + x % 4096).filter fun a => a < f

/-- What a core's scratchpad holds for its contexts where a footprint of `f` bytes lies is gone (R258). -/
def clearResidue (m : Memory) (core : Nat) (ps : BitVec 512) (f : Nat) : Memory :=
  { m with residue := m.residue.map fun r => if r.1 = core then (r.1, r.2.1, r.2.2.filter fun x => (footAt ps f x.1).isNone) else r }

/-- The bytes that units of a context have left in a core's scratchpad, by their place there (R258). -/
def residueOf (m : Memory) (core ctx : Nat) : Sparse 8 :=
  match m.residue.find? fun r => r.1 = core && r.2.1 = ctx with
  | some r => r.2.2
  | none => []

/-- A unit leaves its bytes in its place of its core's scratchpad (R258). -/
def leaveResidue (m : Memory) (u : QUnit) : Memory :=
  let m1 := clearResidue m u.core u.pages u.task.f
  let new := ssetMany (residueOf m1 u.core u.ctx) ((sbelow u.task.lmem u.task.f).map fun x => (placeOf u.pages x.1, x.2))
  { m1 with residue := (u.core, u.ctx, new) :: m1.residue.filter fun r => !(r.1 = u.core && r.2.1 = u.ctx) }

/-- A unit leaves its core for good: its queues are written back and its scratchpad stays behind (R163, R258). -/
def retireUnit (s : State) (u : QUnit) : State :=
  let u1 := { u with task := writeBackAll u.task }
  if u.isFirmware then
    { s with board := { s.board with fwLocal := (u.core, u1.task.lmem) :: s.board.fwLocal.filter fun x => x.1 ≠ u.core } }.dropUnit u.uid
  else ({ s with mem := leaveResidue s.mem u1 }).dropUnit u.uid

/-- The handler unit that serves a unit in trap (R288). -/
def State.handlerOf (s : State) (uid : Nat) : Option QUnit := s.units.find? fun h => h.kind = .handler && h.serves = some uid

/-- A command's start τ has come and the engine has not taken it up (R174). -/
def Cmd.starts (c : Cmd) (tau : Nat) : Bool := !c.up && c.gt.isNone && c.start ≤ tau

/-- The number of a Braid command's kind. -/
def Cmd.braidKind (c : Cmd) : Option Nat :=
  match c.kind with
  | .braid b => some b.kind
  | _ => none

/-- Insert a command by its start τ, before those that start no earlier (R350). -/
def insertStart (c : Cmd) : List Cmd → List Cmd
  | [] => [c]
  | x :: xs => if c.start ≤ x.start then c :: x :: xs else x :: insertStart c xs

/-- Commands in the order of their start τ, at one τ in the order of enqueue (R350). -/
def byStart (cs : List Cmd) : List Cmd := cs.foldr insertStart []

/-- A unit's Braid commands whose start τ has come: they belong to the fabric (R332). -/
def QUnit.started (u : QUnit) : List (QUnit × Cmd) :=
  ((byStart u.task.cmds).filter fun c => c.braidKind.isSome && c.starts u.task.sq.tau).map fun c => ({ u with task := { u.task with cmds := [] } }, c)

/-- Terminate a unit (R290): its commands are discarded, but for those that belong to the fabric (R332); a FAULT record is posted when the termination follows a fault (`post`
and a fault it stands in), and it is counted cancelled. A unit in trap takes its handler with it, whose writes to the scratchpad remain (R272, R290). -/
def terminate (s : State) (uid : Nat) (post : Bool := true) : State :=
  match s.unit? uid with
  | none => s
  | some u =>
    let h := s.handlerOf uid
    let u1 : QUnit := match h with
      | some x => { u with task := rebindAll { u.task with lmem := (writeBackAll x.task).lmem } }
      | none => u
    let late := (s.mem.writes.filter fun w => w.uid = some uid || h.any fun x => w.uid = some x.uid).map fun w => w.id
    let s0 := s.settle u.ctx
    let s1 := match h with
      | some x => s0.dropUnit x.uid
      | none => s0
    let s2 := match u.trap, post with
      | some (f, pc), true =>
        postEvent s1 u.ctx (eventBytes 1 f.code.num u.launch u.index pc f.tval)
      | _, _ => s1
    let s3 := retireUnit { s2 with fabric := { s2.fabric with owed := s2.fabric.owed ++ u.started } } u1
    if u.kind = .user then countUnit s3 u.ctx u.launch u.index false u.task.tstat.taint late else s3

/-! ### Switching out, faults and the return from them -/

/-- The exposed results and the pending FMTSET values go to the Eddy (R281, R282). -/
def drainEddy (t : Task) : Task :=
  { t with eddy := t.pipe.map (fun p => { ready := p.ready, val := .result p })
                     ++ t.fmtPend.map (fun x => { ready := x.1, val := .fmt x.2 }) ++ t.eddy,
           pipe := [], fmtPend := [] }

/-- The source of a command lies in WEIGHT or DEVICE, so that its data comes in real time (R174). -/
def Cmd.fetched (c : Cmd) : Bool :=
  match c.kind with
  | .copy sp _ _ _ _ _ _ => sp ≠ .local
  | .wsload _ _ _ => true
  | .mlw _ sp _ _ _ _ => sp ≠ .local
  | _ => false

/-- A pending command as an image carries it (R283): what has been fetched is dropped and fetched again. -/
def Cmd.carried (c : Cmd) : Cmd := if c.up && c.fetched then { c with late := true, data := [] } else c

/-- A task's state as it is captured at a switch-out (R163, R281, R283). -/
def captureTask (t : Task) : Task :=
  let t1 := writeBackAll (drainEddy t.settleFmt)
  { t1 with cmds := t1.cmds.map Cmd.carried }

/-- The unit in focus is switched out with a status (R281): its accesses have arrived (R235), the pipelines drain. -/
def switchOutTo (s : State) (st : UnitStatus) : State :=
  { s with on := false, cur := QUnit.reset,
           parked := s.parked ++ [{ s.cur with task := captureTask s.cur.task, status := st, preempt := false }] }

/-- The state a handler unit starts with (R288, R289): the launch's record in s1, the backing store above the faulted
unit's s2, cause, PC, TVAL, T, launch and index in s8 to s13, the launch's further arguments after them (R258), the faulted unit's
footprint. -/
def handlerTask (u : QUnit) (record : Word) (launchArgs : List Word) (entry : Word) (f : FaultInfo) (pc : Word) : Task :=
  let t := u.task
  let fr : Frames :=
    { Frames.reset with glob := sset (sset [] 1 record) 2 t.s2, bsbase := t.s2.toNat, bslim := t.f }
  let args : List Word :=
    [BitVec.ofNat 64 (f.code.num + 256 * f.bus.toNat), pc, f.tval, BitVec.ofNat 64 t.sq.tau, BitVec.ofNat 64 u.launch,
     BitVec.ofNat 64 u.index] ++ launchArgs.drop 6
  let t0 : Task := { Task.reset with fr := fr, sq := { Task.reset.sq with pc := entry }, lmem := t.lmem, foot := t.foot,
                                     tstat := { t.tstat with taint := false } }
  (args.zip (List.range args.length)).foldl (fun t x => t.setSReg (.phys x.2) x.1) t0

/-- The descriptor that TVEC names, when it names one (R288). -/
def trapVector (s : State) (cid : Nat) : Option Word :=
  match s.ctx? cid with
  | none => none
  | some c => if c.tvec = 0 then none else (c.desc? c.tvec).map fun d => d.entry

/-- Enter the handler for the unit in focus (R281, R288): the unit is switched out, and a handler unit starts on its core
at SUPERVISOR, to which a pre-emption request passes (R302), or the unit is terminated where TVEC names no descriptor. -/
def enterHandler (s : State) (f : FaultInfo) (pc : Word) : State :=
  let uid := s.cur.uid
  let s1 := (switchOutTo s .trapped).mapUnit uid fun u => { u with trap := some (f, pc) }
  match s1.unit? uid, trapVector s1 s.cur.ctx with
  | some u, some entry =>
    let l := s1.launchOf u
    let record : Word := l.elim 0 fun l => l.record
    let h : QUnit := { QUnit.reset with
      uid := s1.nextUid, ctx := u.ctx, launch := u.launch, index := u.index, core := u.core, lcore := u.lcore, pages := u.pages,
      kind := .handler, priv := .supervisor, task := handlerTask u record (l.elim [] fun l => l.args) entry f pc, serves := some uid, preempt := s.cur.preempt }
    { s1 with on := true, cur := h, nextUid := s1.nextUid + 1 }
  | _, _ => terminate s1 uid

/-- TAKING A FAULT (R79, R287 to R290). The LIW or bundle has written nothing. In a restart=entry routine the fault is
reported at the CALLR (R311, R318). A fault in a handler unit terminates it and the faulted unit; a fault on a system core
stops that core and raises an alert (R303). While an outstanding access has not arrived, the core waits: the LIW comes up again and
raises its fault then (R235). -/
def takeFault (s : State) (f : FaultInfo) : State :=
  if s.loading then { s with cur := { s.cur with status := .waiting .load } }
  else match s.cur.kind with
  | .handler =>
    match s.cur.serves with
    | some uid =>
      let pc := match s.task.restart with
        | none => s.task.sq.pc
        | some r => r.pc
      let s1 := postEvent s s.cur.ctx (eventBytes 1 f.code.num s.cur.launch s.cur.index pc f.tval)
      terminate (s1.mapTask unwindRestart) uid
    | none => s.dropUnit s.cur.uid
  | .user =>
    match s.task.restart with
    | none => enterHandler s f s.task.sq.pc
    | some r => enterHandler (s.mapTask unwindRestart) { f with bus := 0xFF } r.pc
  | .tannery => raiseAlert (s.dropUnit s.cur.uid) "fault on a Tannery"
  | k =>
    let s1 := retireUnit s s.cur
    raiseAlert { s1 with board := { s1.board with sysDown := s.cur.core :: s.board.sysDown,
                                                  errBusy := s.board.errBusy && k ≠ .errorEntry } } "fault on a system core"

/-- A TRAP (R291): the LIW has issued, the unit is switched out before the next one. -/
def takeTrap (s : State) (pc : Word) (code : Word) : State :=
  let f : FaultInfo := { code := .trap, tval := code, bus := 0xFF }
  match s.cur.kind with
  | .user => enterHandler s f pc
  | _ => takeFault (s.mapTask fun t => { t with sq := { t.sq with pc := pc } }) f

/-- Bring a unit into focus; the one that was in focus stands beside it. -/
def State.focus (s : State) (uid : Nat) : State :=
  if s.on && s.cur.uid = uid then s
  else match s.parked.find? fun u => u.uid = uid with
    | none => s
    | some u =>
      let rest := s.parked.filter fun x => x.uid ≠ uid
      { s with on := true, cur := u, parked := if s.on then rest ++ [s.cur] else rest }

/-- RETURNING FROM A FAULT (R285, R292), once the handler's writes have been applied at SYS scope: its unit ends, and the faulted unit
is ready again with the scratchpad as the handler left it and its queues bound again; with TERMINATE it is terminated. -/
def handlerReturn (s : State) (resume : Bool) : State :=
  match s.cur.serves with
  | none => s
  | some uid =>
    let h := s.cur
    if resume then
      let lm := (writeBackAll h.task).lmem
      ((s.dropUnit h.uid).mapUnit uid fun u =>
        { u with status := .ready, trap := none, preempt := u.preempt || h.preempt, task := rebindAll { u.task with lmem := lm } }).focus uid
    else terminate s uid

end Sys2Proof.Machine
end

