-- ==== Sys2Proof/Machine/Operands.lean ====
section
/-! DEFINITION. Operand forms of both layers: guards (R27, R38), path tags and loop flags (R39, R40, R92), the sources of
moves and slots (R41, R43, R45), delivery to operand ports (R44); and what one LIW or bundle gathers before its writes are
performed. -/

namespace Sys2Proof.Machine

/-- Why an LIW or bundle does not complete: a fault (R287), or a wait. -/
inductive Halt where
  | fault (f : FaultInfo)
  | wait (w : Wait)
  deriving DecidableEq, Repr

/-- A write of a slot or move to a register, performed at the end of the LIW or bundle (R30, R44). Scalar registers are
named at the frame base of its start (R104). -/
inductive RegWrite where
  | sreg (i : Nat) (v : Word)
  | pred (p : Nat) (b : Bool)
  | mask (k : Nat) (m v : BitVec 128)
  | lanes (v first : Nat) (xs : List Lane) (m : List Bool)
  deriving DecidableEq, Repr

/-- What the sequencer and ctl do at the end of an LIW or bundle, beside moves and slot writes (R91). -/
inductive Post where
  /-- LOOP pushes a level (R89). -/
  | pushLevel (l : Loop)
  /-- The pending loop configuration is reset (R89), or set (R88). -/
  | setCfg (c : LoopCfg)
  /-- ENDL at the end of the innermost level (R90). -/
  | endLevel
  /-- SPRED (R94). -/
  | stagePreds (m v : BitVec 8)
  /-- A predicate a ctl operation writes (R99). -/
  | predWrite (p : Nat) (b : Bool)
  /-- A mask BUCK writes (R96). -/
  | maskWrite (k : Nat) (v : BitVec 128)
  /-- The call action (R103) with slide `o`; `restart` marks a routine declared restart=entry (R318). -/
  | call (o : Nat) (restart : Bool)
  /-- The return (R109). -/
  | ret
  /-- LOCAL bytes that QPUSH or SHAPE writes (R160, R169). -/
  | slot (bs : List (Nat × Byte))
  /-- QCFG binds a latch, with the bytes of a fresh control word if it writes one (R160). -/
  | bind (b : QBind) (fresh : List Byte)
  /-- QCFG unbinds a latch after writing it back (R160). -/
  | unbind (j : Nat)
  deriving DecidableEq, Repr

/-- What comes after the LIW or bundle has issued. -/
inductive After where
  /-- The unit goes on. -/
  | go
  /-- TRAP (R291). -/
  | trap (code : Word)
  /-- ENDT (R273). -/
  | ended
  /-- RFT (R292). -/
  | rft (resume : Bool)
  /-- SYSCALL (R293). -/
  | syscall (arg : Word) (service : Nat)
  /-- YIELD (R274). -/
  | yield
  /-- CALLR has called a routine by its ID (R107, R320). -/
  | routine (id : Nat)
  deriving DecidableEq, Repr

/-- What an LIW or bundle gathers. `st` holds the effects of its triggers so far, `regs` its register writes in order,
`store0` and `store1` the scratchpad stores of LS0 and LS1, `acct` the head and tail advances by latch (R161), `target` the
taken transfer. -/
structure Acc where
  st     : State
  wait   : Option Wait
  post   : List Post
  regs   : List RegWrite
  store0 : List (Nat × Byte)
  store1 : List (Nat × Byte)
  acct   : List (Nat × Nat × Nat)
  target : Option Word
  after  : After
  deriving DecidableEq, Repr

/-- Nothing gathered yet. -/
def Acc.init (s : State) : Acc :=
  { st := s, wait := none, post := [], regs := [], store0 := [], store1 := [], acct := [], target := none, after := .go }

/-- Change the task under construction. -/
def Acc.mapTask (a : Acc) (f : Task → Task) : Acc := { a with st := a.st.mapTask f }

/-- Change the state under construction. -/
def Acc.mapSt (a : Acc) (f : State → State) : Acc := { a with st := f a.st }

/-- Add a post action. -/
def Acc.addPost (a : Acc) (p : Post) : Acc := { a with post := a.post ++ [p] }

/-- Add a register write. -/
def Acc.addReg (a : Acc) (r : RegWrite) : Acc := { a with regs := a.regs ++ [r] }

/-- The LIW has to wait. -/
def Acc.hold (a : Acc) (w : Wait) : Acc := { a with wait := match a.wait with
  | some x => some x
  | none => some w }

/-- A trigger refused under R375. -/
def Acc.refuse (a : Acc) : Acc := a.mapTask Task.refuse

/-- A bank A result of latency `l` in a latch (R117). -/
def Acc.result (a : Acc) (l port : Nat) (v : Word) (f : Flags) : Acc := a.mapTask fun t => t.result l port v f

/-- What a trigger sees (R44): the state at the start of its LIW, the LIW's address and the following one's, its bus, NT, the
trigger value (`val` in bank A, `lanes` in bank B), the operand ports after delivery, the moves performed in the LIW with
their long immediates. -/
structure Trig where
  s0    : State
  pc    : Word
  next  : Word
  bus   : Nat
  nt    : Nat
  val   : Word
  lanes : List Lane
  ports : Ports
  perf  : List (Nat × Move × BitVec 32)
  deriving DecidableEq, Repr

/-- The task at the start of the LIW. -/
def Trig.t (c : Trig) : Task := c.s0.task

/-- Operand port .a of the bank A unit whose block starts at `base`. -/
def Trig.opA (c : Trig) (base : Nat) : Word := c.ports.getA base
/-- Operand port .b. -/
def Trig.opB (c : Trig) (base : Nat) : Word := c.ports.getA (base + 1)
/-- Operand port .c. -/
def Trig.opC (c : Trig) (base : Nat) : Word := c.ports.getA (base + 2)

/-- A fault at the trigger's bus. -/
def Trig.fault {α : Type} (c : Trig) (code : FaultCode) (tval : Word) : Except Halt α :=
  .error (.fault { code := code, tval := tval, bus := BitVec.ofNat 8 c.bus })

/-- Raise the fault a check reports, or go on. -/
def Trig.check (c : Trig) (o : Option (FaultCode × Word)) (k : Except Halt Acc) : Except Halt Acc :=
  match o with
  | some f => c.fault f.1 f.2
  | none => k

/-- Wait while the walk for some DEVICE ranges meets a line that no access can use (R299), or go on. -/
def Trig.walkWait (c : Trig) (rs : List (Nat × Nat)) (k : Except Halt Acc) : Except Halt Acc :=
  match (rs.flatMap fun r => chunks r.1 r.2).findSome? fun x => walkBlocked c.s0 (BitVec.ofNat 64 x.1) with
  | some d => .error (.wait (.memory d))
  | none => k

/-- The writes in flight that the operands of a trigger of the unit at `base`, or the value moved to it, were read from (R229). -/
def Trig.operandIds (c : Trig) (base : Nat) : List Nat :=
  let own := (c.perf.filter fun x => x.1 = c.bus).map fun x => x.2.1.dst.toNat
  originIds c.s0.cur.origins ((own ++ [base, base + 1, base + 2]).map portKey)

/-- The writes in flight that the values of some registers were read from (R229). -/
def Trig.regIds (c : Trig) (rs : List Nat) : List Nat :=
  originIds c.s0.cur.origins (rs.map fun r => regKey (sregAt c.t.fr.fb r))

/-- Bits `lo` and above of a word are 0. -/
def highZero (x : Word) (lo : Nat) : Bool := x.toNat < 2 ^ lo

/-! ### Guards, tags, loop flags -/

/-- The path an LIW's tests choose (R40): the least true test plus one, or 5 for fall-through. -/
def livePath (t : Task) (l : Liw) : Nat :=
  match (List.range l.nt.toNat).find? fun k => t.guard (liwTest l k).p.toNat (liwTest l k).n with
  | some k => k + 1
  | none => 5

/-- The path tag of a move agrees with the path (R39, R40). -/
def tagHolds (path : Nat) (tag : BitVec 3) : Bool := tag.toNat = 0 || tag.toNat = path

/-- The levels pushed at the current call depth, innermost first. -/
def levelsHere (t : Task) : List Loop := t.sq.loops.takeWhile fun l => l.depth = t.fr.depth

/-- A level is in its first or its last iteration (R92). -/
def levelAt (l : Loop) (last : Bool) : Bool := if last then l.j + 1 = l.n + l.e else l.j = 0

/-- The loop flag of a move holds (R39, R92). -/
def flagHolds (t : Task) (lf : BitVec 3) : Bool :=
  let at_ : Nat → Bool → Bool := fun i last => match (levelsHere t)[i]? with
    | some l => levelAt l last
    | none => false
  match lf.toNat with
  | 0 => true
  | 1 => at_ 0 false
  | 2 => at_ 0 true
  | 3 => at_ 1 false
  | 4 => at_ 1 true
  | 5 => at_ 2 false
  | 6 => at_ 2 true
  | _ => false

/-- A move is performed (R38). -/
def moveLive (t : Task) (path : Nat) (m : Mv) : Bool :=
  t.guard m.g.toNat m.n && tagHolds path m.tag && flagHolds t m.lf

/-- The performed moves of an LIW, with their buses, in ascending bus order. -/
def liveMoves (t : Task) (l : Liw) : List (Nat × Move) :=
  (liwBusMoves l).filter fun x => moveLive t (livePath t l) x.2.mv

/-! ### Sources -/

/-- Every bus of an LIW with its move and its long immediate, 0 for none (R36, R45). -/
def withLongs : List (Nat × Move) → List (BitVec 32) → List (Nat × Move × BitVec 32)
  | [], _ => []
  | (b, m) :: ms, ls =>
    if isLong m.mv then (b, m, ls.headD 0) :: withLongs ms ls.tail else (b, m, 0) :: withLongs ms ls

/-- The value a bank A move reads (R41, R45, R159). -/
def sourceA (t : Task) (m : Mv) (long : BitVec 32) : Word :=
  if m.imm then m.src.signExtend 64
  else
    let p := m.src.toNat
    if p = 1023 then long.signExtend 64
    else if p < 32 then t.sreg p
    else if p < 48 then (if t.pred (p - 32) then 1 else 0)
    else if p < 56 then t.latch (p - 48)
    else t.ports.getA p

/-- The 16 lanes a bank B move reads, and which of them it carries to a register or mask (R43, R45, R121). -/
def sourceB (t : Task) (m : Mv) (long : BitVec 32) : List Lane × BitVec 16 :=
  let all : BitVec 16 := BitVec.allOnes 16
  if m.imm then (List.replicate 16 (m.src.signExtend 32), all)
  else
    let p := m.src.toNat
    if p = 1023 then (List.replicate 16 long, all)
    else
      let c := p / 128
      let o := p % 128
      if o < 32 then (t.vlanes o (16 * c) 16, all)
      else if o < 64 then (List.replicate 16 ((t.sreg (o - 32)).setWidth 32), all)
      else if o < 72 then ((maskBits (t.mask (o - 64)) (16 * c) 16).map fun b => if b then 1 else 0, all)
      else (t.ports.getB p, t.ports.written p)

/-! ### Delivery -/

/-- A bank B port is an operand port (.a, .b, .c) of a cluster unit. -/
def operandB (off : Nat) : Bool :=
  (72 ≤ off && off < 75) || (94 ≤ off && off < 97) || (101 ≤ off && off < 104) || (109 ≤ off && off < 112)

/-- Deliver one performed move to an operand port (R44); other destinations are left to later. -/
def deliver (t : Task) (p : Ports) (x : Nat × Move × BitVec 32) : Ports :=
  let d := x.2.1.dst.toNat
  if x.1 < 32 then
    if inUnitA d && d % 64 < 3 then p.setA d (sourceA t x.2.1.mv x.2.2) else p
  else if operandB (d % 128) then
    p.setB d (sourceB t x.2.1.mv x.2.2).1 (List.replicate 16 true)
  else p

/-- The register write a performed move makes, when its destination is a register (R41, R43, R121). -/
def moveWrite (t : Task) (x : Nat × Move × BitVec 32) : Option RegWrite :=
  let d := x.2.1.dst.toNat
  if x.1 < 32 then
    let v := sourceA t x.2.1.mv x.2.2
    if d < 32 then some (.sreg d v)
    else if d < 48 then some (.pred (d - 32) (v.getLsbD 0))
    else none
  else
    let c := d / 128
    let o := d % 128
    let src := sourceB t x.2.1.mv x.2.2
    if o < 32 then some (.lanes o (16 * c) src.1 (maskBits src.2 0 16))
    else if 64 ≤ o && o < 72 then
      let sh : Nat := 16 * c
      some (.mask (o - 64) (src.2.setWidth 128 <<< sh)
        ((ofBits 16 (src.1.map fun x => x.getLsbD 0)).setWidth 128 <<< sh))
    else none

/-- Perform one register write; scalar registers are named at frame base `fb` (R104). -/
def applyWrite (fb : Nat) (t : Task) (w : RegWrite) : Task :=
  match w with
  | .sreg i v => t.setSregAt fb i v
  | .pred p b => t.setPred p b
  | .mask k m v => t.setMask k m v
  | .lanes v first xs m => { t with vregs := setLanes t.vregs (128 * v + first) xs m }

/-! ### Pending load destinations -/

/-- An entry is the destination of an outstanding access (R221). -/
def Task.pending (t : Task) (r : SReg) : Bool := t.loads.any fun l => l.dest = some r

/-- The scalar entries a performed move reads or writes (R221). -/
def moveTouches (t : Task) (bus : Nat) (m : Move) : List SReg :=
  let fb := t.fr.fb
  let src : List SReg :=
    if m.mv.imm || m.mv.src.toNat = 1023 then []
    else if bus < 32 then (if m.mv.src.toNat < 32 then [sregAt fb m.mv.src.toNat] else [])
    else if 32 ≤ m.mv.src.toNat % 128 && m.mv.src.toNat % 128 < 64 then [sregAt fb (m.mv.src.toNat % 128 - 32)] else []
  let dst : List SReg :=
    if bus < 32 then
      if m.dst.toNat < 32 then [sregAt fb m.dst.toNat]
      else if m.dst.toNat = 75 then
        match t.sq.loops.head? with
        | some l => (if l.en0 then [l.reg0] else []) ++ (if l.en1 then [l.reg1] else [])
        | none => []
      else if m.dst.toNat = 70 || m.dst.toNat = 71 || m.dst.toNat = 73 || m.dst.toNat = 72 then [.fixed 2]
      else []
    else if m.dst.toNat % 128 = 100 then [.fixed 6, .fixed 7] else []
  src ++ dst

/-! ### Lists -/

/-- Apply a function to each element in turn while nothing halts. -/
def foldHalt {α β : Type} (f : β → α → Except Halt β) : List α → β → Except Halt β
  | [], b => .ok b
  | x :: xs, b =>
    match f b x with
    | .ok b' => foldHalt f xs b'
    | .error h => .error h

end Sys2Proof.Machine
end

