-- ==== Sys2Proof/Machine/Scalar.lean ====
section
/-! DEFINITION. Scalar arithmetic (R123 to R130) and predicate combination (R83), as functions of the operand values; the
slot forms of Peman over them, and the native triggers of sa0, sa1 and sf (R116, R122). -/

namespace Sys2Proof.Machine

/-! ### Integer functions (R123 to R127) -/

/-- MULH and MULH.u (R123). -/
def mulHigh (u : Bool) (a b : Word) : Word :=
  if u then BitVec.ofNat 64 (a.toNat * b.toNat / 2 ^ 64) else BitVec.ofInt 64 (a.toInt * b.toInt / 2 ^ 64)

/-- DIV and DIV.u (R124). -/
def divide (u : Bool) (a b : Word) : Word :=
  if b = 0 then BitVec.allOnes 64
  else if u then BitVec.ofNat 64 (a.toNat / b.toNat) else BitVec.ofInt 64 (a.toInt.tdiv b.toInt)

/-- REM and REM.u (R124). -/
def remainder (u : Bool) (a b : Word) : Word :=
  if b = 0 then a
  else if u then BitVec.ofNat 64 (a.toNat % b.toNat) else BitVec.ofInt 64 (a.toInt.tmod b.toInt)

/-- The shift amount of a register or a trigger value (R123). -/
def shiftBy (b : Word) : Nat := (b.extractLsb' 0 6).toNat

/-- SHL. -/
def shiftL (a b : Word) : Word := a <<< shiftBy b
/-- SHR. -/
def shiftR (a b : Word) : Word := a >>> shiftBy b
/-- SAR. -/
def shiftA (a b : Word) : Word := a.sshiftRight (shiftBy b)
/-- ROL. -/
def rotL (a b : Word) : Word := a.rotateLeft (shiftBy b)

/-- MIN and MIN.u. -/
def minOf (u : Bool) (a b : Word) : Word :=
  if u then (if a.toNat ≤ b.toNat then a else b) else (if a.toInt ≤ b.toInt then a else b)

/-- MAX and MAX.u. -/
def maxOf (u : Bool) (a b : Word) : Word :=
  if u then (if b.toNat ≤ a.toNat then a else b) else (if b.toInt ≤ a.toInt then a else b)

/-- CLZ: 64 for 0. -/
def clzOf (a : Word) : Word := if a = 0 then 64 else BitVec.ofNat 64 (63 - Nat.log2 a.toNat)

/-- POPC. -/
def popcOf (a : Word) : Word := BitVec.ofNat 64 ((List.range 64).filter fun i => a.getLsbD i).length

/-- The field that BFX and BFI name: position and length (R125). -/
def fieldOf (b : Word) : Nat × Nat :=
  let pos := (b.extractLsb' 0 6).toNat
  (pos, min (b.extractLsb' 6 7).toNat (64 - pos))

/-- BFX and BFX.s (R125). -/
def extractField (x : Bool) (a b : Word) : Word :=
  let (pos, len) := fieldOf b
  let f := a.toNat / 2 ^ pos % 2 ^ len
  if len = 0 then 0
  else if x && 2 ^ (len - 1) ≤ f then BitVec.ofInt 64 ((f : Int) - 2 ^ len)
  else BitVec.ofNat 64 f

/-- BFI (R125): the field of `d` replaced by the low bits of `a`. -/
def insertField (a b d : Word) : Word :=
  let (pos, len) := fieldOf b
  let m : Word := BitVec.ofNat 64 ((2 ^ len - 1) * 2 ^ pos)
  (d &&& ~~~ m) ||| ((a <<< pos) &&& m)

/-- MOVK (R126). -/
def movk (d : Word) (i : BitVec 16) : Word := (d <<< (16 : Nat)) ||| i.setWidth 64

/-- CMP under code `cc` (R33, R127). -/
def cmpOf (cc : Nat) (a b : Word) : Bool :=
  match cc with
  | 0 => a = b
  | 1 => a ≠ b
  | 2 => a.toInt < b.toInt
  | 3 => a.toInt ≤ b.toInt
  | 4 => b.toInt < a.toInt
  | 5 => b.toInt ≤ a.toInt
  | 6 => a.toNat < b.toNat
  | 7 => a.toNat ≤ b.toNat
  | 8 => b.toNat < a.toNat
  | _ => b.toNat ≤ a.toNat

/-- PAND, POR, PXOR over optionally inverted operands (R83): 0, 1, 2. -/
def combine (op : Nat) (a b x y : Bool) : Bool :=
  let p := a ^^ x
  let q := b ^^ y
  match op with
  | 0 => p && q
  | 1 => p || q
  | _ => p ^^ q

/-- A truth value as a word. -/
def boolWord (b : Bool) : Word := if b then 1 else 0

/-! ### Float functions (R128 to R130) -/

/-- The low 32 bits of a scalar register as an FP32 pattern (R118). -/
def lo32 (x : Word) : Lane := x.setWidth 32

/-- An FP32 result in a scalar register (R118). -/
def f64 (x : Lane × Flags) : Word × Flags := (x.1.setWidth 64, x.2)

/-- FCVT (R129): a float result is zero-extended, an integer one sign-extended. -/
def fcvt (rm : Rm) (satb : Bool) (dst src : Format) (x : Word) : Word × Flags :=
  let r := cvt (lo32 x) src dst rm satb
  (if isFloat dst then r.1.setWidth 64 else r.1.signExtend 64, r.2)

/-! ### Peman slots -/

/-- An operation of a Peman slot: its guard, the scalar registers it reads or writes, and what it does when its guard holds.
The slot number stands in the trigger context's `bus` (R289). -/
structure Slot where
  gd      : Gd
  regs    : List Nat
  run     : Trig → Acc → Except Halt Acc

/-- A slot that writes one scalar register from the task's state. -/
def slotWrite (g : Gd) (regs : List Nat) (d : BitVec 5) (f : Task → Word) : Slot :=
  { gd := g, regs := d.toNat :: regs, run := fun c a => .ok (a.addReg (.sreg d.toNat (f c.t))) }

/-- A slot of form RR: d from a and b (R28). -/
def slotRR (g : Gd) (d a b : BitVec 5) (f : Word → Word → Word) : Slot :=
  slotWrite g [a.toNat, b.toNat] d fun t => f (t.sreg a.toNat) (t.sreg b.toNat)

/-- A slot of form RI with a sign-extended immediate (R29). -/
def slotRI (g : Gd) (d a : BitVec 5) (i : BitVec 11) (f : Word → Word → Word) : Slot :=
  slotWrite g [a.toNat] d fun t => f (t.sreg a.toNat) (i.signExtend 64)

/-- A slot of form RI with a shift amount 0 through 63 (R29). -/
def slotRS (g : Gd) (d a : BitVec 5) (i : BitVec 6) (f : Word → Word → Word) : Slot :=
  slotWrite g [a.toNat] d fun t => f (t.sreg a.toNat) (i.setWidth 64)

/-- A slot that writes one predicate. -/
def slotPred (g : Gd) (regs : List Nat) (p : BitVec 4) (f : Task → Bool) : Slot :=
  { gd := g, regs := regs, run := fun c a => .ok (a.addReg (.pred p.toNat (f c.t))) }

/-- A scalar float slot: d from the task's state, with flags at the end of the bundle (R66). -/
def slotFloat (g : Gd) (regs : List Nat) (d : BitVec 5) (f : Task → Word × Flags) : Slot :=
  { gd := g, regs := d.toNat :: regs,
    run := fun c a =>
      let r := f c.t
      .ok ((a.addReg (.sreg d.toNat r.1)).mapTask fun t => t.flagsAt 1 r.2) }

/-- A scalar float slot of two operands. -/
def slotFRR (g : Gd) (d a b : BitVec 5) (f : Rm → Lane → Lane → Lane × Flags) : Slot :=
  slotFloat g [a.toNat, b.toNat] d fun t => f64 (f t.rm (lo32 (t.sreg a.toNat)) (lo32 (t.sreg b.toNat)))

/-! ### Native triggers -/

/-- The result of an sa0 or sa1 trigger at an offset, from .a, .b, .c and the trigger value (R122, R123). -/
def saResult (off : Nat) (a b c v : Word) : Word :=
  match off with
  | 4 => a + v
  | 5 => a - v
  | 6 => a * v
  | 7 => mulHigh false a v
  | 8 => mulHigh true a v
  | 9 => divide false a v
  | 10 => divide true a v
  | 11 => remainder false a v
  | 12 => remainder true a v
  | 13 => a &&& v
  | 14 => a ||| v
  | 15 => a ^^^ v
  | 16 => a &&& ~~~ v
  | 17 => shiftL a v
  | 18 => shiftR a v
  | 19 => shiftA a v
  | 20 => rotL a v
  | 21 => minOf false a v
  | 22 => minOf true a v
  | 23 => maxOf false a v
  | 24 => maxOf true a v
  | 25 => clzOf v
  | 26 => popcOf v
  | 27 => extractField false a v
  | 28 => extractField true a v
  | 29 => insertField a b v
  | 30 => if v.getLsbD 0 then a else b
  | 31 => v
  | 32 => v
  | 33 => movk a (v.setWidth 16)
  | 44 => boolWord (combine 0 (a.getLsbD 0) (v.getLsbD 0) (c.getLsbD 0) (c.getLsbD 1))
  | 45 => boolWord (combine 1 (a.getLsbD 0) (v.getLsbD 0) (c.getLsbD 0) (c.getLsbD 1))
  | 46 => boolWord (combine 2 (a.getLsbD 0) (v.getLsbD 0) (c.getLsbD 0) (c.getLsbD 1))
  | 47 => boolWord (v.getLsbD 0 ^^ c.getLsbD 0)
  | n => boolWord (cmpOf (n - 34) a v)

/-- A trigger of sa0 (`base` 128) or sa1 (192): latency 1 (R116). -/
def trigSa (base off : Nat) (c : Trig) (a : Acc) : Except Halt Acc :=
  .ok (a.result 1 (base + 3) (saResult off (c.opA base) (c.opB base) (c.opC base) c.val) Flags.none)

/-- A native FCVT's format word is legal (R129). -/
def fcvtWordOk (w : Word) : Bool := highZero w 6 && w.extractLsb' 0 3 ≠ 7 && w.extractLsb' 3 3 ≠ 7

/-- A trigger of sf: latency 4 (R116, R128 to R130). -/
def trigSf (off : Nat) (c : Trig) (a : Acc) : Except Halt Acc :=
  let t := c.t
  let x := c.opA 256
  let y := c.opB 256
  let put : Word × Flags → Except Halt Acc := fun r => .ok (a.result 4 259 r.1 r.2)
  match off with
  | 4 => put (f64 (fpAdd t.rm (lo32 x) (lo32 c.val)))
  | 5 => put (f64 (fpSub t.rm (lo32 x) (lo32 c.val)))
  | 6 => put (f64 (fpMul t.rm (lo32 x) (lo32 c.val)))
  | 7 => put (f64 (fpFma t.rm (lo32 x) (lo32 y) (lo32 c.val)))
  | 8 => put (f64 (fpMin (lo32 x) (lo32 c.val), Flags.none))
  | 9 => put (f64 (fpMax (lo32 x) (lo32 c.val), Flags.none))
  | 10 =>
    if fcvtWordOk x then
      put (fcvt t.rm t.fmt.sat (formatOf (x.extractLsb' 3 3).toNat) (formatOf (x.extractLsb' 0 3).toNat) c.val)
    else .ok a.refuse
  | n => put (boolWord (fpCmp (n - 11) (lo32 x) (lo32 c.val)), Flags.none)

end Sys2Proof.Machine
end

