-- ==== Sys2Proof/Machine/Vector.lean ====
section
/-! DEFINITION. Vector arithmetic (R119 to R145): lane functions, the class V slots of Peman over 128 lanes, and the native
triggers of the cluster units over 16 lanes, the exchange network among them. -/

namespace Sys2Proof.Machine

/-! ### Lane functions -/

/-- A lane function of one operand, with its flags. -/
abbrev Fn1 := Rm → Lane → Lane × Flags
/-- A lane function of two operands. -/
abbrev Fn2 := Rm → Lane → Lane → Lane × Flags

/-- A lane function that sets no flag. -/
def pure2 (f : Lane → Lane → Lane) : Fn2 := fun _ a b => (f a b, Flags.none)

/-- Saturating 32-bit arithmetic (R131). -/
def sat32 (x : Int) : Lane := BitVec.ofInt 32 (satInt x (-2147483648) 2147483647)

/-- VADD by fn (R34, R131). -/
def vaddFn : Nat → Option Fn2
  | 0 => some fpAdd
  | 1 => some (pure2 fun a b => a + b)
  | 2 => some (pure2 fun a b => sat32 (a.toInt + b.toInt))
  | _ => none

/-- VSUB by fn. -/
def vsubFn : Nat → Option Fn2
  | 0 => some fpSub
  | 1 => some (pure2 fun a b => a - b)
  | 2 => some (pure2 fun a b => sat32 (a.toInt - b.toInt))
  | _ => none

/-- VMUL by fn. -/
def vmulFn : Nat → Option Fn2
  | 0 => some fpMul
  | 1 => some (pure2 fun a b => a * b)
  | _ => none

/-- VMIN by fn. -/
def vminFn : Nat → Option Fn2
  | 0 => some (pure2 fpMin)
  | 1 => some (pure2 fun a b => if a.toInt ≤ b.toInt then a else b)
  | 2 => some (pure2 fun a b => if a.toNat ≤ b.toNat then a else b)
  | _ => none

/-- VMAX by fn. -/
def vmaxFn : Nat → Option Fn2
  | 0 => some (pure2 fpMax)
  | 1 => some (pure2 fun a b => if b.toInt ≤ a.toInt then a else b)
  | 2 => some (pure2 fun a b => if b.toNat ≤ a.toNat then a else b)
  | _ => none

/-- VABS by fn: f32 clears the sign bit of any pattern (R131). -/
def vabsFn : Nat → Option Fn1
  | 0 => some fun _ a => (a &&& 0x7FFFFFFF, Flags.none)
  | 1 => some fun _ a => (if a.toInt < 0 then -a else a, Flags.none)
  | _ => none

/-- VNEG by fn: f32 inverts the sign bit of any pattern (R131). -/
def vnegFn : Nat → Option Fn1
  | 0 => some fun _ a => (a ^^^ 0x80000000, Flags.none)
  | 1 => some fun _ a => (-a, Flags.none)
  | _ => none

/-- A bitwise function, fn 0 alone. -/
def vbitFn (f : Lane → Lane → Lane) : Nat → Option Fn2
  | 0 => some (pure2 f)
  | _ => none

/-- The shift amount of a lane (R131). -/
def laneShift (b : Lane) : Nat := (b.extractLsb' 0 6).toNat

/-- VSHL: 0 when n is 32 or more. -/
def vshlFn : Nat → Option Fn2
  | 0 => some (pure2 fun a b => a <<< laneShift b)
  | _ => none

/-- VSHR by fn: logical, or arithmetic with all sign bits when n is 32 or more. -/
def vshrFn : Nat → Option Fn2
  | 0 => some (pure2 fun a b => a >>> laneShift b)
  | 1 => some (pure2 fun a b => a.sshiftRight (laneShift b))
  | _ => none

/-- VCMP on integers under code `cc` (R33, R132). -/
def intCmp (cc : Nat) (a b : Lane) : Bool :=
  match cc with
  | 0 => a = b
  | 1 => a ≠ b
  | 2 => a.toInt < b.toInt
  | 3 => a.toInt ≤ b.toInt
  | 4 => a.toNat < b.toNat
  | _ => a.toNat ≤ b.toNat

/-- VCVT of one lane between formats other than to D2P8 (R134). -/
def cvtLane (rm : Rm) (satb : Bool) (src dst : Format) (x : Lane) : Lane × Flags :=
  if src = .d2p8 then
    let d := d2Decode (x.setWidth 8) (x.extractLsb' 8 8)
    let r := cvt d.1 .fp32 dst rm satb
    (r.1, d.2.or r.2)
  else cvt x src dst rm satb

/-- A non-finite FP32 pattern (R140). -/
def nonFinite (x : Lane) : Bool := x.extractLsb' 23 8 = 0xFF

/-- VRNG of one lane (R138). -/
def vrngLane (seed stream : Word) (i : Lane) : Lane := (cbg seed stream (i.setWidth 64)).extractLsb' 32 32

/-! ### Over lists of lanes -/

/-- Apply a one-operand function; only active lanes set flags (R62). -/
def map1 (f : Lane → Lane × Flags) : List Lane → List Bool → List Lane × Flags
  | x :: xs, b :: bs =>
    let r := f x
    let rest := map1 f xs bs
    (r.1 :: rest.1, if b then r.2.or rest.2 else rest.2)
  | _, _ => ([], Flags.none)

/-- Apply a two-operand function; only active lanes set flags (R62). -/
def map2 (f : Lane → Lane → Lane × Flags) : List Lane → List Lane → List Bool → List Lane × Flags
  | x :: xs, y :: ys, b :: bs =>
    let r := f x y
    let rest := map2 f xs ys bs
    (r.1 :: rest.1, if b then r.2.or rest.2 else rest.2)
  | _, _, _ => ([], Flags.none)

/-- Apply a three-operand function; only active lanes set flags (R62). -/
def map3 (f : Lane → Lane → Lane → Lane × Flags) :
    List Lane → List Lane → List Lane → List Bool → List Lane × Flags
  | x :: xs, y :: ys, z :: zs, b :: bs =>
    let r := f x y z
    let rest := map3 f xs ys zs bs
    (r.1 :: rest.1, if b then r.2.or rest.2 else rest.2)
  | _, _, _, _ => ([], Flags.none)

/-- The elements whose mask bit is set. -/
def pick {α : Type} : List α → List Bool → List α
  | x :: xs, b :: bs => if b then x :: pick xs bs else pick xs bs
  | _, _ => []

/-- Put values, in order, where the mask bit is set; 0 elsewhere. -/
def spread : List Lane → List Bool → List Lane
  | vs, b :: bs => if b then vs.headD 0 :: spread vs.tail bs else 0 :: spread vs bs
  | _, [] => []

/-- VCVT to D2P8 of one block of 32 lanes over its active lanes (R71, R134): element and scale in each active lane. -/
def d2Lanes (xs : List Lane) (bs : List Bool) : List Lane :=
  let r := d2Block (pick xs bs)
  spread (r.2.map fun e => e.setWidth 32 ||| (r.1.setWidth 32 <<< (8 : Nat))) bs

/-- VCVT to D2P8 of several blocks. -/
def d2Blocks : Nat → List Lane → List Bool → List Lane
  | 0, _, _ => []
  | n + 1, xs, bs => d2Lanes (xs.take 32) (bs.take 32) ++ d2Blocks n (xs.drop 32) (bs.drop 32)

/-- Replace masked-off lanes by an identity (R76). -/
def masked (ident : Lane) : List Lane → List Bool → List Lane
  | x :: xs, b :: bs => (if b then x else ident) :: masked ident xs bs
  | _, _ => []

/-- VREDADD or VREDMAX over 128 lanes (R76, R145). -/
def reduceMasked (mx int : Bool) (rm : Rm) (xs : List Lane) (bs : List Bool) : Lane × Flags :=
  reduceLanes mx int rm (masked (reduceIdent mx int) xs bs)

/-! ### Peman slots of class V -/

/-- The mask bits of all 128 lanes. -/
def Task.active (t : Task) (k : BitVec 3) : List Bool := maskBits (t.mask k.toNat) 0 128

/-- All 128 lanes of a vector register. -/
def Task.vall (t : Task) (v : BitVec 5) : List Lane := t.vlanes v.toNat 0 128

/-- A slot that writes lanes of vector register `v` from the task's state, with flags (R131). -/
def slotLanes (g : Gd) (sregs : List Nat) (v : BitVec 5) (f : Task → List Lane × List Bool × Flags) : Slot :=
  { gd := g, regs := sregs,
    run := fun c a =>
      let r := f c.t
      .ok ((a.addReg (.lanes v.toNat 0 r.1 r.2.1)).mapTask fun t => t.flagsAt 1 r.2.2) }

/-- A two-operand slot over the active lanes. -/
def slotV2 (g : Gd) (v a b : BitVec 5) (k : BitVec 3) (f : Fn2) : Slot :=
  slotLanes g [] v fun t =>
    let r := map2 (f t.rm) (t.vall a) (t.vall b) (t.active k)
    (r.1, t.active k, r.2)

/-- A one-operand slot over the active lanes. -/
def slotV1 (g : Gd) (v a : BitVec 5) (k : BitVec 3) (f : Fn1) : Slot :=
  slotLanes g [] v fun t =>
    let r := map1 (f t.rm) (t.vall a) (t.active k)
    (r.1, t.active k, r.2)

/-- A compare slot: every lane of the mask is written (R132). -/
def slotVcmp (g : Gd) (m : BitVec 3) (a b : BitVec 5) (k : BitVec 3) (f : Lane → Lane → Bool) : Slot :=
  { gd := g, regs := [],
    run := fun c acc =>
      let t := c.t
      let hold := (t.vall a).zipWith f (t.vall b)
      .ok (acc.addReg (.mask m.toNat (BitVec.allOnes 128) (ofBits 128 hold &&& t.mask k.toNat))) }

/-- VFMA (R131). -/
def slotVfma (g : Gd) (v a b : BitVec 5) (k : BitVec 3) : Slot :=
  slotLanes g [] v fun t =>
    let r := map3 (fpFma t.rm) (t.vall a) (t.vall b) (t.vall v) (t.active k)
    (r.1, t.active k, r.2)

/-- Every lane is written. -/
def allLanes : List Bool := List.replicate 128 true

/-- VSEL (R133). -/
def slotVsel (g : Gd) (v a b : BitVec 5) (k : BitVec 3) : Slot :=
  slotLanes g [] v fun t =>
    (((t.vall a).zip (t.vall b)).zipWith (fun p m => if m then p.1 else p.2) (t.active k), allLanes, Flags.none)

/-- VCVT (R134). -/
def slotVcvt (g : Gd) (v a : BitVec 5) (src k dst : BitVec 3) : Slot :=
  slotLanes g [] v fun t =>
    if dst = 7 then (d2Blocks 4 (t.vall a) (t.active k), t.active k, Flags.none)
    else
      let r := map1 (cvtLane t.rm t.fmt.sat (formatOf src.toNat) (formatOf dst.toNat)) (t.vall a) (t.active k)
      (r.1, t.active k, r.2)

/-- VBCAST (R136). -/
def slotVbcast (g : Gd) (v s : BitVec 5) (k : BitVec 3) : Slot :=
  slotLanes g [s.toNat] v fun t => (List.replicate 128 (lo32 (t.sreg s.toNat)), t.active k, Flags.none)

/-- VPERM (R143). -/
def slotVperm (g : Gd) (v a b : BitVec 5) (k : BitVec 3) : Slot :=
  slotLanes g [] v fun t =>
    ((t.vall b).map fun i => t.vlane a.toNat (i.extractLsb' 0 7).toNat, t.active k, Flags.none)

/-- VREDADD and VREDMAX (R145): every lane of vd is written. -/
def slotVred (mx : Bool) (g : Gd) (v a : BitVec 5) (k f : BitVec 3) : Slot :=
  slotLanes g [] v fun t =>
    let r := reduceMasked mx (f = 1) t.rm (t.vall a) (t.active k)
    (List.replicate 128 r.1, allLanes, r.2)

/-- VIOTA (R137). -/
def slotViota (g : Gd) (v : BitVec 5) (k : BitVec 3) : Slot :=
  slotLanes g [] v fun t => ((List.range 128).map fun i => BitVec.ofNat 32 i, t.active k, Flags.none)

/-- VRNG (R138). -/
def slotVrng (g : Gd) (v a b : BitVec 5) (k : BitVec 3) : Slot :=
  slotLanes g [b.toNat, b.toNat + 1] v fun t =>
    ((t.vall a).map (vrngLane (t.sreg b.toNat) (t.sreg (b.toNat + 1))), t.active k, Flags.none)

/-- VNFIN (R140). -/
def slotVnfin (g : Gd) (a : BitVec 5) (k : BitVec 3) : Slot :=
  { gd := g, regs := [],
    run := fun c acc =>
      let hit := (pick (c.t.vall a) (c.t.active k)).any nonFinite
      .ok (acc.mapTask fun t => t.flagsAt 1 { Flags.none with nf := hit }) }

/-! ### Native triggers of the clusters -/

/-- A cluster unit's control word is legal in its reserved bits (R43, R120). -/
def ctlOk (w : Lane) : Bool := w.extractLsb' 6 26 = 0

/-- The control word of a cluster unit whose .a port is `base`: lane 0 of .c (R43). -/
def Trig.ctlB (c : Trig) (base : Nat) : Lane := sget c.ports.b (16 * (base + 2))

/-- The 16 mask bits of a cluster under a control word's mask index (R120). -/
def clusterMask (t : Task) (cl : Nat) (w : Lane) : List Bool :=
  maskBits (t.mask (w.extractLsb' 3 3).toNat) (16 * cl) 16

/-- All 16 lanes. -/
def all16 : List Bool := List.replicate 16 true

/-- A cluster result in the latch of the unit at `base` (R117, R121). -/
def Acc.resultB (a : Acc) (l base : Nat) (xs : List Lane) (m : List Bool) (f : Flags) : Acc :=
  a.mapTask fun t => t.resultB l (base + 3) xs (ofBits 16 m) f

/-- The two-operand function of a c.alu or c.mul trigger offset by fn (R131). -/
def fn2Of (off fn : Nat) : Option Fn2 :=
  match off with
  | 76 => vaddFn fn
  | 77 => vsubFn fn
  | 78 => vminFn fn
  | 79 => vmaxFn fn
  | 82 => vbitFn (· &&& ·) fn
  | 83 => vbitFn (· ||| ·) fn
  | 84 => vbitFn (· ^^^ ·) fn
  | 85 => vshlFn fn
  | 86 => vshrFn fn
  | 98 => vmulFn fn
  | _ => none

/-- The one-operand function of a c.alu or c.sfu trigger offset by fn (R131, R135). -/
def fn1Of (off fn : Nat) : Option Fn1 :=
  match off with
  | 80 => vabsFn fn
  | 81 => vnegFn fn
  | 105 => if fn = 0 then some vexp2 else none
  | 106 => if fn = 0 then some vlog2 else none
  | 107 => if fn = 0 then some vrcp else none
  | 108 => if fn = 0 then some vrsq else none
  | _ => none

/-- The partner cluster of a D2P8 block (R134): clusters 2b and 2b + 1. -/
def partner (cl : Nat) : Nat := if cl % 2 = 0 then cl + 1 else cl - 1

/-- The performed trigger of a port, with the lanes it carries. -/
def Trig.trigLanes (c : Trig) (port : Nat) : Option (List Lane) :=
  match c.perf.find? fun x => 32 ≤ x.1 && x.2.1.dst.toNat = port with
  | some x => some (sourceB c.t x.2.1.mv x.2.2).1
  | none => none

/-- VCVT of a cluster (R134). A D2P8 conversion whose partner does not convert too is refused in its own cluster; what another
operation of the partner's alu delivers is left as it is (log 46). -/
def trigVcvt (cl : Nat) (c : Trig) (a : Acc) : Except Halt Acc :=
  let base := 128 * cl + 72
  let w := c.ctlB base
  let m := clusterMask c.t cl w
  let codes := (c.ports.getB (base + 1)).map fun x => (x.extractLsb' 0 3).toNat
  let dst := (w.extractLsb' 0 3).toNat
  if dst = 7 then
    let pc := partner cl
    let pbase := 128 * pc + 72
    let pm := clusterMask c.t pc w
    let pcodes := (c.ports.getB (pbase + 1)).map fun x => (x.extractLsb' 0 3).toNat
    match c.trigLanes (128 * pc + 93) with
    | none => .ok a.refuse
    | some plan =>
      if c.ctlB pbase ≠ w || (pick codes m).any (· ≠ 0) || (pick pcodes pm).any (· ≠ 0) then .ok a.refuse
      else
        let (xs, bs) := if cl % 2 = 0 then (c.lanes ++ plan, m ++ pm) else (plan ++ c.lanes, pm ++ m)
        let ys := d2Lanes xs bs
        .ok (a.resultB 2 base (if cl % 2 = 0 then ys.take 16 else ys.drop 16) m Flags.none)
  else if (c.trigLanes (128 * partner cl + 93)).isSome && (c.ctlB (128 * partner cl + 72)).extractLsb' 0 3 = 7 then
    .ok a.refuse
  else
    let rs := (c.lanes.zip codes).map fun x => cvtLane c.t.rm c.t.fmt.sat (formatOf x.2) (formatOf dst) x.1
    .ok (a.resultB 2 base (rs.map Prod.fst) m ((pick (rs.map Prod.snd) m).foldl Flags.or Flags.none))

/-- A trigger of cluster `cl`'s alu (R116, R120, R131 to R140). -/
def trigAlu (cl off : Nat) (c : Trig) (a : Acc) : Except Halt Acc :=
  let base := 128 * cl + 72
  let w := c.ctlB base
  let fn := (w.extractLsb' 0 3).toNat
  let m := clusterMask c.t cl w
  let x := c.ports.getB base
  let put : List Lane → List Bool → Flags → Except Halt Acc := fun xs bs f => .ok (a.resultB 2 base xs bs f)
  if !ctlOk w then .ok a.refuse
  else match off with
    | 87 => put ((x.zipWith (fpCmp fn) c.lanes).zipWith (fun h b => if h && b then 1 else 0) m) all16 Flags.none
    | 88 =>
      if 6 ≤ fn then .ok a.refuse
      else put ((x.zipWith (intCmp fn) c.lanes).zipWith (fun h b => if h && b then 1 else 0) m) all16 Flags.none
    | 89 => if fn ≠ 0 then .ok a.refuse
            else put ((x.zip c.lanes).zipWith (fun p b => if b then p.1 else p.2) m) all16 Flags.none
    | 90 => if fn ≠ 0 then .ok a.refuse else put c.lanes m Flags.none
    | 91 => if fn ≠ 0 then .ok a.refuse
            else put (((List.range 16).map fun l => BitVec.ofNat 32 (16 * cl + l)).zipWith (· + ·) c.lanes) m Flags.none
    | 92 => if fn ≠ 0 then .ok a.refuse
            else
              let hit := c.lanes.zipWith (fun x b => nonFinite x && b) m
              put (hit.map fun h => if h then 1 else 0) all16 { Flags.none with nf := hit.any id }
    | 93 => trigVcvt cl c a
    | _ =>
      match fn1Of off fn, fn2Of off fn with
      | some f, _ =>
        let r := map1 (f c.t.rm) c.lanes m
        put r.1 m r.2
      | none, some f =>
        let r := map2 (f c.t.rm) x c.lanes m
        put r.1 m r.2
      | none, none => .ok a.refuse

/-- A trigger of cluster `cl`'s mul (R116, R131, R138). -/
def trigMul (cl off : Nat) (c : Trig) (a : Acc) : Except Halt Acc :=
  let base := 128 * cl + 94
  let w := c.ctlB base
  let fn := (w.extractLsb' 0 3).toNat
  let m := clusterMask c.t cl w
  if !ctlOk w then .ok a.refuse
  else match off with
    | 99 =>
      if fn ≠ 0 then .ok a.refuse
      else
        let r := map3 (fpFma c.t.rm) (c.ports.getB base) (c.ports.getB (base + 1)) c.lanes m
        .ok (a.resultB 5 base r.1 m r.2)
    | 100 =>
      if fn ≠ 0 then .ok a.refuse
      else .ok (a.resultB 5 base (c.lanes.map (vrngLane (c.t.sreg 6) (c.t.sreg 7))) m Flags.none)
    | _ =>
      match fn2Of off fn with
      | some f =>
        let r := map2 (f c.t.rm) (c.ports.getB base) c.lanes m
        .ok (a.resultB 5 base r.1 m r.2)
      | none => .ok a.refuse

/-- A trigger of cluster `cl`'s sfu (R116, R135). -/
def trigSfu (cl off : Nat) (c : Trig) (a : Acc) : Except Halt Acc :=
  let base := 128 * cl + 101
  let w := c.ctlB base
  let m := clusterMask c.t cl w
  match ctlOk w, fn1Of off (w.extractLsb' 0 3).toNat with
  | true, some f =>
    let r := map1 (f c.t.rm) c.lanes m
    .ok (a.resultB 8 base r.1 m r.2)
  | _, _ => .ok a.refuse

/-! ### The exchange network (R141 to R145) -/

/-- The cxc triggers performed in the LIW: cluster, offset, lanes (R141). -/
def Trig.exchange (c : Trig) : List (Nat × Nat × List Lane) :=
  (c.perf.filter fun x => 32 ≤ x.1 && 113 ≤ x.2.1.dst.toNat % 128 && x.2.1.dst.toNat % 128 ≤ 117).map fun x =>
    (x.2.1.dst.toNat / 128, x.2.1.dst.toNat % 128, (sourceB c.t x.2.1.mv x.2.2).1)

/-- The control word of a cluster's cxc. -/
def Trig.cxcCtl (c : Trig) (cl : Nat) : Lane := c.ctlB (128 * cl + 109)

/-- fn is legal for an exchange operation (R142 to R145). -/
def cxcFnOk (off fn : Nat) : Bool := if 116 ≤ off then fn ≤ 1 else fn = 0

/-- The exchange of an LIW is carried out (R141): one operation, every control word legal, and what R143 and R145 add. -/
def exchangeOk (c : Trig) (off : Nat) : Bool :=
  let p := c.exchange
  p.all (fun x => x.2.1 = off && ctlOk (c.cxcCtl x.1) && cxcFnOk off ((c.cxcCtl x.1).extractLsb' 0 3).toNat)
    && (off ≤ 114 || p.length = 8)
    && (off < 116 || p.all fun x => (c.cxcCtl x.1).extractLsb' 0 3 = (c.cxcCtl 0).extractLsb' 0 3)

/-- A cluster takes part in the exchange. -/
def inExchange (c : Trig) (cl : Nat) : Bool := c.exchange.any fun x => x.1 = cl

/-- The partial gather of R142 for one lane's selector. -/
def gatherLane (c : Trig) (sel : Lane) : Lane :=
  let s := (sel.extractLsb' 0 7).toNat
  if inExchange c (s / 16) then (c.ports.getB (128 * (s / 16) + 109)).getD (s % 16) 0 else 0

/-- The 128 lanes the members of a full exchange carry as trigger values, and their mask bits (R145). -/
def exchangeLanes (c : Trig) : List Lane × List Bool :=
  let per := (List.range 8).map fun cl =>
    ((c.trigLanes (128 * cl + 116)).getD ((c.trigLanes (128 * cl + 117)).getD []), clusterMask c.t cl (c.cxcCtl cl))
  (per.flatMap Prod.fst, per.flatMap Prod.snd)

/-- A trigger of cluster `cl`'s cxc (R141 to R145). -/
def trigCxc (cl off : Nat) (c : Trig) (a : Acc) : Except Halt Acc :=
  let base := 128 * cl + 109
  let m := clusterMask c.t cl (c.cxcCtl cl)
  if !exchangeOk c off then .ok a.refuse
  else if off = 113 || off = 115 then .ok (a.resultB 4 base (c.lanes.map (gatherLane c)) m Flags.none)
  else if off = 114 then
    let q := ((c.lanes.headD 0).extractLsb' 0 3).toNat
    let src := if inExchange c q then c.ports.getB (128 * q + 109) else List.replicate 16 0
    .ok (a.resultB 4 base src m Flags.none)
  else
    let e := exchangeLanes c
    let r := reduceMasked (off = 117) ((c.cxcCtl cl).extractLsb' 0 3 = 1) c.t.rm e.1 e.2
    .ok (a.resultB 4 base (List.replicate 16 r.1) all16 r.2)

/-- A bank B trigger by port (R43). -/
def trigB (port : Nat) (c : Trig) (a : Acc) : Except Halt Acc :=
  match trigUnitB (port % 128) with
  | some .alu => trigAlu (port / 128) (port % 128) c a
  | some .mul => trigMul (port / 128) (port % 128) c a
  | some .sfu => trigSfu (port / 128) (port % 128) c a
  | some .cxc => trigCxc (port / 128) (port % 128) c a
  | none => .ok a

end Sys2Proof.Machine
end

