-- ==== Sys2Proof/Machine/Local.lean ====
section
/-! DEFINITION. Scratchpad loads and stores (R151 to R155), natively on LS0 and LS1 and in Peman's slot 1, and the
transposing load (R156). -/

namespace Sys2Proof.Machine

/-- The LS control word (R153). -/
structure LsCtl where
  cv : Bool
  mf : Format
  k  : BitVec 3
  deriving DecidableEq, Repr

/-- Read .c of an LS unit; `none` for a reserved bit or CV with MF = 7 (R153). -/
def lsCtl (w : Word) : Option LsCtl :=
  let cv := w.getLsbD 15
  let mf := w.extractLsb' 12 3
  if !highZero w 16 || w.extractLsb' 0 9 ≠ 0 || (cv && mf = 7) then none
  else some { cv := cv, mf := formatOf mf.toNat, k := w.extractLsb' 9 3 }

/-- The register format of a memory format (R153). -/
def regFmt (mf : Format) : Format := if isFloat mf then .fp32 else .int32

/-- A loaded value extended as its trigger says (R151): zero or sign. -/
def extendLoad (n : Nat) (sx : Bool) (v : Nat) : Word :=
  if sx && 2 ^ (8 * n - 1) ≤ v then BitVec.ofInt 64 ((v : Int) - 2 ^ (8 * n)) else BitVec.ofNat 64 v

/-- A scalar load's size and sign by trigger offset (R42, R151). -/
def loadForm (off : Nat) : Nat × Bool :=
  match off with
  | 4 => (1, false)
  | 5 => (2, false)
  | 6 => (4, false)
  | 7 => (8, false)
  | 8 => (1, true)
  | 9 => (2, true)
  | _ => (4, true)

/-- A scalar store's size by trigger offset (R42, R151). -/
def storeSize (off : Nat) : Nat := 2 ^ (off - 11)

/-- A converted load (R154). -/
def convLoad (rm : Rm) (satb : Bool) (mf : Format) (v : Nat) : Lane × Flags :=
  cvt (BitVec.ofNat 32 v) mf (regFmt mf) rm satb

/-- Add stores to LS0's or LS1's list (R155). -/
def Acc.stores (a : Acc) (ls1 : Bool) (bs : List (Nat × Byte)) : Acc :=
  if ls1 then { a with store1 := a.store1 ++ bs } else { a with store0 := a.store0 ++ bs }

/-- A scalar load of an LS unit (R152 to R155). -/
def trigLd (base off : Nat) (c : Trig) (a : Acc) : Except Halt Acc :=
  let (n, sx) := loadForm off
  match lsCtl (c.opC base) with
  | none => .ok a.refuse
  | some w =>
    if w.cv && (sx || n = 8 || n ≠ fsize w.mf) then .ok a.refuse
    else
      let ea := c.opA base + c.val
      c.check (localReadFault c.t ea n n)
        (let v := readLe c.t.lmem ea.toNat n
         if w.cv then
           let r := convLoad c.t.rm c.t.fmt.sat w.mf v
           .ok (a.result 3 (base + 3) (if isFloat w.mf then r.1.setWidth 64 else r.1.signExtend 64) r.2)
         else .ok (a.result 3 (base + 3) (extendLoad n sx v) Flags.none))

/-- The bytes of a stored value (R151, R154), with the conversion's flags. -/
def storeBytes (t : Task) (w : LsCtl) (n : Nat) (x : Word) : List Byte × Flags :=
  if w.cv then
    let r := cvt (lo32 x) (regFmt w.mf) w.mf t.rm t.fmt.sat
    (natLe n r.1.toNat, r.2)
  else (natLe n x.toNat, Flags.none)

/-- A scalar store of an LS unit (R152 to R155, R158). -/
def trigSt (base off : Nat) (c : Trig) (a : Acc) : Except Halt Acc :=
  let n := storeSize off
  match lsCtl (c.opC base) with
  | none => .ok a.refuse
  | some w =>
    if w.cv && (n = 8 || n ≠ fsize w.mf) then .ok a.refuse
    else
      let ea := c.opA base + c.val
      c.check (localWriteFault c.t ea n n)
        (let r := storeBytes c.t w n (c.opB base)
         .ok ((a.stores (base = 384) (atAddr ea.toNat r.1)).mapTask fun t => t.flagsAt 1 r.2))

/-- Cut a list into groups of `n`. -/
def groupsOf {α : Type} (n : Nat) : Nat → List α → List (List α)
  | 0, _ => []
  | k + 1, l => l.take n :: groupsOf n k (l.drop n)

/-- The lanes of a vector load from `128 × n` bytes (R154). -/
def loadLanes (t : Task) (w : LsCtl) (n : Nat) (bs : List Byte) : List (Lane × Flags) :=
  (groupsOf n 128 bs).map fun e =>
    if w.cv then convLoad t.rm t.fmt.sat w.mf (leNat e) else (BitVec.ofNat 32 (leNat e), Flags.none)

/-- A register load in flight. Of two that arrive together LS1's write stands (R155, R369): LS0's come first. -/
def Task.pushVreg (t : Task) (ls1 : Bool) (p : Pipe) : Task := if ls1 then t.push p else { t with pipe := p :: t.pipe }

/-- A vector load's results in flight: one for each cluster, then its flags (R155, R281). -/
def pushVld (ls1 : Bool) (t : Task) (v : Nat) (ls : List Lane) (m : List Bool) (f : Flags) : Task :=
  let t1 := (List.range 8).foldl (fun (t : Task) (cl : Nat) =>
    t.pushVreg ls1
      { ready := t.sq.tau + 3, dest := .vreg cl v, val := 0, lanes := (ls.drop (16 * cl)).take 16,
        mask := ofBits 16 ((m.drop (16 * cl)).take 16), flags := Flags.none }) t
  t1.flagsAt 3 f

/-- The flags of active elements. -/
def activeFlags (fs : List Flags) (m : List Bool) : Flags := (pick fs m).foldl Flags.or Flags.none

/-- VLD (R152 to R155). -/
def trigVld (base : Nat) (c : Trig) (a : Acc) : Except Halt Acc :=
  match lsCtl (c.opC base), highZero (c.opB base) 5 with
  | some w, true =>
    let n := if w.cv then fsize w.mf else 4
    let ea := c.opA base + c.val
    c.check (localReadFault c.t ea (128 * n) (128 * n))
      (let ls := loadLanes c.t w n (readBytes c.t.lmem ea.toNat (128 * n))
       let m := maskBits (c.t.mask w.k.toNat) 0 128
       .ok (a.mapTask fun t => pushVld (base = 384) t (c.opB base).toNat (ls.map Prod.fst) m (activeFlags (ls.map Prod.snd) m)))
  | _, _ => .ok a.refuse

/-- The stored bytes of a vector's active lanes (R154). -/
def storeLanes (n : Nat) : Nat → List (Lane × Flags) → List Bool → List (Nat × Byte)
  | ea, x :: xs, b :: bs => (if b then atAddr ea (natLe n x.1.toNat) else []) ++ storeLanes n (ea + n) xs bs
  | _, _, _ => []

/-- VST (R152 to R155, R158). Only the bytes of active lanes are written; the checks cover the whole access. -/
def trigVst (base : Nat) (c : Trig) (a : Acc) : Except Halt Acc :=
  match lsCtl (c.opC base), highZero (c.opB base) 5 with
  | some w, true =>
    let n := if w.cv then fsize w.mf else 4
    let ea := c.opA base + c.val
    c.check (localWriteFault c.t ea (128 * n) (128 * n))
      (let xs := (c.t.vlanes (c.opB base).toNat 0 128).map fun x =>
         if w.cv then cvt x (regFmt w.mf) w.mf c.t.rm c.t.fmt.sat else (x, Flags.none)
       let m := maskBits (c.t.mask w.k.toNat) 0 128
       .ok ((a.stores (base = 384) (storeLanes n ea.toNat xs m)).mapTask fun t =>
         t.flagsAt 1 (activeFlags (xs.map Prod.snd) m)))
  | _, _ => .ok a.refuse

/-- The first row of an LDT that fails its checks (R156), R177's among each row's (log 45). -/
def ldtFault (t : Task) (addr stride : Word) (n : Nat) : Option (FaultCode × Word) :=
  (List.range 16).findSome? fun i => localReadFault t (addr + BitVec.ofNat 64 i * stride) (4 * n) (4 * n)

/-- LDT (R156). Its .c is not looked at (log 45). -/
def trigLdt (base : Nat) (c : Trig) (a : Acc) : Except Halt Acc :=
  let s := c.opA base
  let b := c.opB base
  let sz := (b.extractLsb' 8 2).toNat
  let vr := (b.extractLsb' 0 5).toNat
  if !highZero s 21 || !highZero b 10 || sz = 3 || 28 < vr then .ok a.refuse
  else
    let n := 2 ^ sz
    c.check (ldtFault c.t c.val s n)
      (.ok (a.mapTask fun t => (List.range 4).foldl (fun (t : Task) (j : Nat) =>
        t.pushVreg (base = 384)
          { ready := t.sq.tau + 3, dest := .vreg (b.extractLsb' 5 3).toNat (vr + j), val := 0,
            lanes := (List.range 16).map fun i =>
              BitVec.ofNat 32 (readLe c.t.lmem ((c.val + BitVec.ofNat 64 i * s).toNat + j * n) n),
            mask := BitVec.allOnes 16, flags := Flags.none }) t))

/-- A trigger of ls0 (`base` 320) or ls1 (384) (R42). -/
def trigLs (base off : Nat) (c : Trig) (a : Acc) : Except Halt Acc :=
  if off ≤ 10 then trigLd base off c a
  else if off ≤ 14 then trigSt base off c a
  else if off = 15 then trigVld base c a
  else if off = 16 then trigVst base c a
  else trigLdt base c a

/-! ### Peman slots (R151) -/

/-- The effective address of form M (R28, R29). -/
def slotEa (t : Task) (b : BitVec 5) (i : BitVec 11) (n : Nat) : Word :=
  t.sreg b.toNat + i.signExtend 64 * BitVec.ofNat 64 n

/-- LD of `n` bytes. -/
def slotLd (g : Gd) (d b : BitVec 5) (i : BitVec 11) (n : Nat) (sx : Bool) : Slot :=
  { gd := g, regs := [d.toNat, b.toNat],
    run := fun c a =>
      let ea := slotEa c.t b i n
      c.check (localReadFault c.t ea n n)
        (.ok (a.addReg (.sreg d.toNat (extendLoad n sx (readLe c.t.lmem ea.toNat n))))) }

/-- ST of `n` bytes. -/
def slotSt (g : Gd) (d b : BitVec 5) (i : BitVec 11) (n : Nat) : Slot :=
  { gd := g, regs := [d.toNat, b.toNat],
    run := fun c a =>
      let ea := slotEa c.t b i n
      c.check (localWriteFault c.t ea n n)
        (.ok (a.stores false (atAddr ea.toNat (natLe n (c.t.sreg d.toNat).toNat)))) }

/-- VLD: all 128 lanes. -/
def slotVld (g : Gd) (v b : BitVec 5) (i : BitVec 11) : Slot :=
  { gd := g, regs := [b.toNat],
    run := fun c a =>
      let ea := slotEa c.t b i 512
      c.check (localReadFault c.t ea 512 512)
        (.ok (a.addReg (.lanes v.toNat 0 (lanesOf (readBytes c.t.lmem ea.toNat 512)) allLanes))) }

/-- VST: all 128 lanes. -/
def slotVst (g : Gd) (v b : BitVec 5) (i : BitVec 11) : Slot :=
  { gd := g, regs := [b.toNat],
    run := fun c a =>
      let ea := slotEa c.t b i 512
      c.check (localWriteFault c.t ea 512 512)
        (.ok (a.stores false (atAddr ea.toNat (bytesOfLanes (c.t.vall v))))) }

end Sys2Proof.Machine
end

