-- ==== Sys2Proof/Machine/Sequencer.lean ====
section
/-! DEFINITION. Control flow of both layers: branches and jumps (R84 to R86), loops (R87 to R93), SPRED (R94), BUCK (R95,
R96), the instruction-cache locks (R98 to R100), the call forms' common part and the return (R103 to R109), FMTSET (R113),
TNOW and GCYRD (R166, R167), TRAP (R291). -/

namespace Sys2Proof.Machine

/-- The bytes of linked text from an address: of the firmware, or of the context's modules (R114, R304). -/
def State.textBytes (s : State) (a : Word) (n : Nat) : List Byte :=
  if s.cur.isFirmware then readBytes s.board.fwText a.toNat n
  else match s.curCtx.moduleAt a with
    | some m => readBytes m.text a.toNat n
    | none => []

/-- The longest LIW in bytes (R36). -/
def maxLiwBytes : Nat := 540

/-- The address of the LIW or bundle that follows the one at `a` (R36, R26). -/
def State.following (s : State) (a : Word) : Word :=
  if !s.cur.isFirmware && s.curCtx.modules.any fun m => m.inPeman a then a + 16
  else
    let bs := s.textBytes a maxLiwBytes
    match decodeLiw bs with
    | some (_, r) => a + BitVec.ofNat 64 (bs.length - r.length)
    | none => a + 8

/-! ### Taken transfers -/

/-- A level's body holds an address (R86). -/
def Loop.holds (l : Loop) (a : Word) : Bool := l.start.toNat ≤ a.toNat && a.toNat ≤ l.stop.toNat

/-- The levels a taken transfer leaves (R86): levels of the current depth whose body does not hold the target are popped,
innermost first, up to the first that holds it. -/
def transferLevels (depth : Nat) (a : Word) : List Loop → List Loop
  | [] => []
  | l :: ls => if l.depth = depth && !l.holds a then transferLevels depth a ls else l :: ls

/-- Take a transfer to a legal target, or raise ILLEGAL (R84, R85). -/
def takeTarget (c : Trig) (a : Acc) (legal : Bool) (target : Word) : Except Halt Acc :=
  if legal then .ok { a with target := some target } else c.fault .illegal 0

/-- BR natively: a signed byte offset (R84). -/
def trigBr (c : Trig) (a : Acc) : Except Halt Acc :=
  if c.val.toNat % 4 ≠ 0 then c.fault .illegal 0 else takeTarget c a (c.s0.isStart (c.pc + c.val)) (c.pc + c.val)

/-- JMP natively (R85). -/
def trigJmp (c : Trig) (a : Acc) : Except Halt Acc :=
  if !highZero c.val 56 then c.fault .illegal 0 else takeTarget c a (c.s0.isStart c.val) c.val

/-- BR of Peman: a signed count of bundles (R84). -/
def slotBr (g : Gd) (o : BitVec 21) : Slot :=
  { gd := g, regs := [], run := fun c a =>
      let tgt := c.pc + o.signExtend 64 * 16
      takeTarget c a (c.s0.isBundle tgt) tgt }

/-- JMP of Peman: a bundle address (R85). -/
def slotJmp (g : Gd) (r : BitVec 5) : Slot :=
  { gd := g, regs := [r.toNat], run := fun c a => takeTarget c a (c.s0.isBundle (c.t.sreg r.toNat)) (c.t.sreg r.toNat) }

/-! ### Loops -/

/-- The pending configuration of an LSET value (R88). -/
def lsetCfg (v s0 s1 : Word) : LoopCfg :=
  { e := v.extractLsb' 10 3, r := v.getLsbD 13, reg0 := v.extractLsb' 0 5, reg1 := v.extractLsb' 5 5,
    en0 := v.getLsbD 14, en1 := v.getLsbD 15, stride0 := s0, stride1 := s1 }

/-- LSET (R88). -/
def trigLset (c : Trig) (a : Acc) : Except Halt Acc :=
  let g := lsetCfg c.val (c.opA 64) (c.opB 64)
  if !highZero c.val 16 || (g.en0 && g.reg0 = 0) || (g.en1 && g.reg1 = 0) then c.fault .illegal 0
  else .ok (a.addPost (.setCfg g))

/-- The level that a LOOP pushes (R87, R89). -/
def mkLevel (t : Task) (start stop after : Word) (n : Nat) : Loop :=
  let g := t.sq.cfg
  { start := start, stop := stop, after := after, n := n, e := g.e.toNat, r := g.r, j := 0,
    reg0 := sregAt t.fr.fb g.reg0.toNat, reg1 := sregAt t.fr.fb g.reg1.toNat, en0 := g.en0, en1 := g.en1,
    stride0 := g.stride0, stride1 := g.stride1, depth := t.fr.depth }

/-- LOOP with a count and an end address (R89). `offOk` tells that the offset names an end in its layer. -/
def doLoop (c : Trig) (a : Acc) (count : Word) (offOk : Bool) (stop : Word) : Except Halt Acc :=
  let t := c.t
  let beyond := match levelsHere t with
    | l :: _ => l.stop.toNat ≤ stop.toNat
    | [] => false
  if !highZero count 32 || !offOk || beyond || (t.sq.cfg.r && t.sq.loops.any fun l => l.r)
      || c.nt ≠ 0 then
    c.fault .illegal 0
  else if 6 ≤ t.sq.loops.length then c.fault .stackOvf 0
  else
    let after := c.s0.following stop
    let a1 := a.addPost (.setCfg LoopCfg.reset)
    if count = 0 then .ok { a1 with target := some after }
    else .ok (a1.addPost (.pushLevel (mkLevel t c.next stop after count.toNat)))

/-- LOOP natively (R89). -/
def trigLoop (c : Trig) (a : Acc) : Except Halt Acc :=
  let off := c.opA 64
  doLoop c a c.val (off ≠ 0 && off.toNat % 4 = 0 && highZero off 24 && c.s0.isStart (c.pc + off)) (c.pc + off)

/-- LOOP of Peman (R89). -/
def slotLoop (g : Gd) (r : BitVec 5) (o : BitVec 16) : Slot :=
  { gd := g, regs := [r.toNat],
    run := fun c a =>
      let stop := c.pc + o.setWidth 64 * 16
      doLoop c a (c.t.sreg r.toNat) (c.s0.isBundle stop) stop }

/-- The innermost level ends at an address (R90). -/
def endsAt (t : Task) (pc : Word) : Bool :=
  match levelsHere t with
  | l :: _ => l.stop = pc
  | [] => false

/-- ENDL (R90): legal only at the end of the innermost level of the current depth. -/
def trigEndl (c : Trig) (a : Acc) : Except Halt Acc :=
  if endsAt c.t c.pc then .ok (a.addPost .endLevel) else c.fault .illegal 0

/-- The stride registers that an ENDL here reads (R90, R221). -/
def strideRegs (t : Task) : List SReg :=
  match t.sq.loops with
  | [] => []
  | l :: _ => (if l.en0 then [l.reg0] else []) ++ (if l.en1 then [l.reg1] else [])

/-- ENDL of Peman; it waits for a stride register that a load has still to write (R221). -/
def slotEndl : Slot :=
  { gd := Gd.always, regs := [],
    run := fun c a => if (strideRegs c.t).any fun r => c.t.pending r then .error (.wait .load) else trigEndl c a }

/-- Add a stride to a resolved register, read as it stood at the start (R9, R90). -/
def addStride (f : Frames) (t : Task) (en : Bool) (r : SReg) (x : Word) : Task := if en then t.setSReg r (f.get r + x) else t

/-- The stage predicates after a rotation (R90): p8 to p15 shifted up, p8 set as given. -/
def rotatePreds (p : BitVec 16) (b : Bool) : BitVec 16 :=
  (p &&& 0x00FF) ||| ((p &&& 0x7F00) <<< (1 : Nat)) ||| (if b then 0x0100 else 0)

/-- The effect of ENDL (R90): rotation, strides, back-edge or pop. The pc is set to the next LIW. -/
def endLevel (t : Task) : Task :=
  match t.sq.loops with
  | [] => t
  | l :: ls =>
    let more := l.j + 1 < l.n + l.e
    let t1 := if l.r && more then { t with preds := rotatePreds t.preds (l.j + 1 < l.n) } else t
    let t2 := addStride t.fr (addStride t.fr t1 l.en0 l.reg0 l.stride0) l.en1 l.reg1 l.stride1
    if more then { t2 with sq := { t2.sq with loops := { l with j := l.j + 1 } :: ls, pc := l.start } }
    else { t2 with sq := { t2.sq with loops := ls, pc := l.after } }

/-- SPRED (R94). -/
def trigSpred (c : Trig) (a : Acc) : Except Halt Acc :=
  if !highZero c.val 16 then c.fault .illegal 0
  else .ok (a.addPost (.stagePreds (c.val.extractLsb' 8 8) (c.val.extractLsb' 0 8)))

/-- The effect of SPRED on the predicates (R94). -/
def stagePreds (p : BitVec 16) (m v : BitVec 8) : BitVec 16 :=
  let m16 : BitVec 16 := m.setWidth 16 <<< (8 : Nat)
  (p &&& ~~~ m16) ||| ((v.setWidth 16 <<< (8 : Nat)) &&& m16)

/-! ### Shape buckets -/

/-- A bucket table's entry: size and target (R95). -/
structure Bucket where
  size   : Nat
  target : BitVec 32
  spare  : Nat
  deriving DecidableEq, Repr

/-- Entry `i` of a bucket table at an address (R95). -/
def bucketAt (m : Sparse 8) (ad i : Nat) : Bucket :=
  { size := readLe m (ad + 16 + 16 * i) 4, target := BitVec.ofNat 32 (readLe m (ad + 20 + 16 * i) 4),
    spare := readLe m (ad + 24 + 16 * i) 8 }

/-- Sizes strictly ascending (R95). -/
def ascending : List Bucket → Bool
  | x :: y :: r => x.size < y.size && ascending (y :: r)
  | _ => true

/-- The mask of BUCK for dimension n (R96). -/
def bucketMask (n : Nat) : BitVec 128 :=
  let r := n % 128
  if r = 0 then BitVec.allOnes 128 else BitVec.ofNat 128 (2 ^ r - 1)

/-- BUCK (R95, R96). -/
def trigBuck (c : Trig) (a : Acc) : Except Halt Acc :=
  let lm := c.t.lmem
  let ad := c.val.toNat
  let b := (sget lm ad).toNat
  let m := (sget lm (ad + 1)).toNat
  let n := c.opA 64
  c.check (localFault c.t c.val (16 + 16 * b) 16)
    (let es := (List.range b).map (bucketAt lm ad)
     if b < 1 || 16 < b || 8 ≤ m || !ascending es || readLe lm (ad + 2) 14 ≠ 0 || es.any (fun e => e.spare ≠ 0)
         || !highZero n 32 then
       c.fault .illegal 0
     else match es.find? fun e => n.toNat ≤ e.size with
       | none => .ok (a.result 1 67 0 Flags.none)
       | some e =>
         let tgt := c.pc + e.target.signExtend 64
         if !c.s0.isStart tgt then c.fault .illegal 0
         else
           let a1 := a.result 1 67 (BitVec.ofNat 64 ((e.size - n.toNat) * 2 ^ 32 + e.size)) Flags.none
           let a2 := if m = 0 then a1 else a1.addPost (.maskWrite m (bucketMask n.toNat))
           .ok { a2 with target := some tgt })

/-! ### Instruction-cache locks -/

/-- The number of 128-byte lines that cover a range (R99). -/
def lineCount (ad n : Nat) : Nat := if n = 0 then 0 else (ad + n - 1) / 128 - ad / 128 + 1

/-- Lock the lines of a range in ascending order, with fuel (R99): `ok` tells that a line can be translated. -/
def lockLines (ok : Nat → Bool) : Nat → Nat → Nat → List Word → List Word
  | 0, _, _, ls => ls
  | f + 1, line, k, ls =>
    if k = 0 || 2 ^ 64 ≤ line * 128 then ls
    else
      let w : Word := BitVec.ofNat 64 (line * 128)
      if ls.contains w then lockLines ok f (line + 1) (k - 1) ls
      else if ls.length < 512 && ok (line * 128) then lockLines ok f (line + 1) (k - 1) (ls ++ [w])
      else ls

/-- A locked line lies in a range. -/
def lineIn (ad n : Nat) (w : Word) : Bool := ad / 128 ≤ w.toNat / 128 && w.toNat / 128 < ad / 128 + lineCount ad n

/-- The lines that ICLK newly locks are fetched (R80, R99, R214, R215): their translations are cached, they come into the L2, and the core
stalls for it. -/
def State.lockFetch (s : State) (rs : List (Nat × Nat)) (fresh : List (Nat × Nat)) : State :=
  let s1 := s.fillRanges s.tick fresh
  let g := if fresh.isEmpty then s1.cur.nextG else max s.gcyc s1.cur.nextG + Config.stall s.tick
  { s1 with mem := s1.fetched rs, cur := { s1.cur with nextG := g } }

/-- ICLK (R99). It waits where the walk for a line that it fetches, or the line, is one that no access can use (R299). A line that fails a check of its fetch's translation, PROT and KEY among them, is one that cannot be translated
(log 45). -/
def trigIclk (c : Trig) (a : Acc) : Except Halt Acc :=
  let ad := (c.opA 64).toNat
  let n := c.val.toNat
  let p := (c.opB 64).extractLsb' 0 4
  let ok : Nat → Bool := fun x => match coreAccess c.s0 (BitVec.ofNat 64 x) 1 .fetch with
    | .ok _ => true
    | .error _ => false
  let ls := lockLines ok 1025 (ad / 128) (lineCount ad n) c.t.sq.ilocks
  let k := (ls.filter (lineIn ad n)).length
  let fresh := (ls.filter fun w => !c.t.sq.ilocks.contains w).map fun w => (w.toNat, 128)
  let rs := fresh.filterMap fun x => ((coreAccess c.s0 (BitVec.ofNat 64 x.1) 1 .fetch).toOption).map fun d => (d, 128)
  c.walkWait fresh (match c.s0.readWaits rs with
    | some d => .error (.wait (.memory d))
    | none =>
      let a1 := (a.mapSt fun s => s.lockFetch rs fresh).mapTask fun t => { t with sq := { t.sq with ilocks := ls } }
      let a2 := a1.result 1 67 (BitVec.ofNat 64 k) Flags.none
      .ok (if p = 0 then a2 else a2.addPost (.predWrite p.toNat (k = lineCount ad n))))

/-- ICUL (R100). -/
def trigIcul (c : Trig) (a : Acc) : Except Halt Acc :=
  let ad := (c.opA 64).toNat
  let n := c.val.toNat
  let keep := if n = 0 then [] else c.t.sq.ilocks.filter fun w => !lineIn ad n w
  let a1 := a.mapTask fun t => { t with sq := { t.sq with ilocks := keep } }
  .ok (a1.result 1 67 (BitVec.ofNat 64 (c.t.sq.ilocks.length - keep.length)) Flags.none)

/-! ### Calls and returns -/

/-- The checks every call makes after its form's own, and the call (R103). -/
def finishCall (c : Trig) (a : Acc) (o : Nat) (target : Word) (restart : Bool) : Except Halt Acc :=
  match callCheck c.t o with
  | some .alignLocal => c.fault .alignLocal c.t.s2
  | some f => c.fault f 0
  | none =>
    if (spillTouches c.t o).any fun r => c.t.pending r then .error (.wait .load)
    else .ok ({ a with target := some target }.addPost (.call o restart))

/-- The O operand of a native call (R103, R106). -/
def slideOk (o : Word) : Bool := 1 ≤ o.toNat && o.toNat ≤ 24

/-- CALL natively (R103, R105). -/
def trigCall (c : Trig) (a : Acc) : Except Halt Acc :=
  let o := c.opA 64
  if !slideOk o || c.val.toNat % 4 ≠ 0 || !c.s0.isStart (c.pc + c.val) then c.fault .illegal 0
  else finishCall c a o.toNat (c.pc + c.val) false

/-- CALL of Peman. -/
def slotCall (g : Gd) (o : BitVec 5) (f : BitVec 16) : Slot :=
  { gd := g, regs := [2],
    run := fun c a =>
      let tgt := c.pc + f.signExtend 64 * 16
      if !c.s0.isBundle tgt then c.fault .illegal 0 else finishCall c a o.toNat tgt false }

/-- A field of a descriptor as the unit in focus reads it in DEVICE memory (R106, R110). -/
def descField (s : State) (dpa off n : Nat) : Nat := leNat ((s.deviceBytes [(dpa, 64)]).drop off |>.take n)

/-- CALLI with its slide, expected class and descriptor address (R46, R106): the map is asked by address alone, the class and the
native entry are read in the descriptor, as by a load (R212, R214, R217). -/
def doCalli (c : Trig) (a : Acc) (o : Word) (cls : BitVec 16) (d : Word) : Except Halt Acc :=
  if !slideOk o then c.fault .illegal 0
  else if (c.s0.curCtx.desc? d).isNone then c.fault .callSig 0
  else c.walkWait [(d.toNat, 64)] (match coreAccess c.s0 d 1 .read with
    | .error f => c.fault f d
    | .ok p =>
      let entry : Word := BitVec.ofNat 64 (descField c.s0 p 8 8)
      match c.s0.readWaits [(p, 64)] with
      | some x => .error (.wait (.memory x))
      | none =>
        if descField c.s0 p 16 2 ≠ cls.toNat then c.fault .callSig 0
        else if !c.s0.isStart entry then c.fault .illegal 0
        else finishCall c (a.mapSt fun s => let s1 := s.fillTlb c.s0.tick d; { s1 with mem := s1.fetched [(p, 64)] }) o.toNat entry false)

/-- CALLI natively. -/
def trigCalli (c : Trig) (a : Acc) : Except Halt Acc :=
  doCalli c a (c.opA 64) ((c.opB 64).extractLsb' 0 16) c.val

/-- CALLI of Peman. -/
def slotCalli (g : Gd) (o a b : BitVec 5) : Slot :=
  { gd := g, regs := [a.toNat, b.toNat, 2],
    run := fun c acc => doCalli c acc (o.setWidth 64) ((c.t.sreg b.toNat).extractLsb' 0 16) (c.t.sreg a.toNat) }

/-- The frame in which a Tannery has called its rule: no LIW called it, so its return goes to the Tannery itself (R341). -/
def State.ruleFrame (s : State) : Bool := s.cur.kind = .tannery && s.task.fr.depth = 1

/-- RET (R46, R109). -/
def doReturn (c : Trig) (a : Acc) : Except Halt Acc :=
  match retCheck c.t with
  | some .alignLocal => c.fault .alignLocal c.t.s2
  | some f => c.fault f 0
  | none =>
    let o := (topLink c.t.fr).o
    if !c.s0.isStart (topLink c.t.fr).ret && !c.s0.ruleFrame then c.fault .illegal 0
    else if needsFill c.t.fr && (List.range o).any fun i => c.t.pending (.phys ((subFb c.t.fr.fb o + i) % 256)) then .error (.wait .load)
    else .ok ({ a with target := some (topLink c.t.fr).ret }.addPost .ret)

/-- RET of Peman. -/
def slotRet (g : Gd) : Slot := { gd := g, regs := [2], run := doReturn }

/-! ### FMT, clocks, TRAP -/

/-- FMTSET natively: effect four τ later (R64, R113). -/
def trigFmtset (c : Trig) (a : Acc) : Except Halt Acc :=
  if !highZero c.val 16 || c.val.extractLsb' 3 12 ≠ 0 then c.fault .illegal 0
  else .ok (a.mapTask fun t => { t with fmtPend := t.fmtPend ++ [(c.t.sq.tau + 4, c.val.setWidth 16)] })

/-- The FMTSETs of earlier LIWs that have still to take effect, in flight or in the Eddy, take effect now (R113, R282). -/
def Task.settleAllFmt (t : Task) : Task :=
  let inEddy := t.eddy.filterMap fun e => match e.val with
    | .fmt v => some (e.ready, v)
    | .result _ => none
  { t with fmt := (inEddy ++ t.fmtPend).foldl (fun f x => f.apply x.2) t.fmt, fmtPend := [],
           eddy := t.eddy.filter fun e => match e.val with
             | .fmt _ => false
             | .result _ => true }

/-- FMTSET of Peman: effect at the next bundle; the flags that its own bundle sets stay set (R64, R113). An FMTSET of native code that
came before it and has not taken effect stands before it (log 45). -/
def slotFmtset (g : Gd) (i : BitVec 16) : Slot :=
  { gd := g, regs := [],
    run := fun c a =>
      if i.extractLsb' 3 12 ≠ 0 then c.fault .illegal 0
      else .ok (a.mapTask fun t => let u := t.settleAllFmt; { u with fmt := u.fmt.apply i }) }

/-- TNOW (R166). -/
def trigTnow (c : Trig) (a : Acc) : Except Halt Acc :=
  .ok (a.result 1 67 (BitVec.ofNat 64 c.t.sq.tau) Flags.none)

/-- A read of real time, which DL1 and DL2 answer with 0 and TAINT (R19, R167). -/
def realTime (c : Trig) (a : Acc) (port : Nat) (v : Word) : Except Halt Acc :=
  if c.t.dl0 then .ok (a.result 1 port v Flags.none)
  else .ok ((a.mapTask Task.setTaint).result 1 port 0 Flags.none)

/-- GCYRD (R167). -/
def trigGcyrd (c : Trig) (a : Acc) : Except Halt Acc := realTime c a 67 (BitVec.ofNat 64 c.s0.gcyc)

/-- TRAP natively (R291). -/
def trigTrap (c : Trig) (a : Acc) : Except Halt Acc :=
  if !highZero c.val 16 then c.fault .illegal 0 else .ok { a with after := .trap c.val }

/-- TRAP of Peman (R291). -/
def slotTrap (g : Gd) (i : BitVec 16) : Slot :=
  { gd := g, regs := [], run := fun _ a => .ok { a with after := .trap (i.setWidth 64) } }

end Sys2Proof.Machine
end

