-- ==== Sys2Proof/Machine/Queue.lean ====
section
/-! DEFINITION. The qu unit (R157 to R162): QCFG, QPUSH, QADV, QWAIT, QSTAT, and the accounting of an LIW's head and tail
advances. -/

namespace Sys2Proof.Machine

/-- QUEUE at a trigger. -/
def queueFault {α : Type} (c : Trig) : Except Halt α := c.fault .queue 0

/-- The binding that QCFG with I = 1 makes of its geometry operand (R160); `none` when bits [63:38] are set. -/
def freshQueue (g : Word) (j addr : Nat) : Option QBind :=
  if !highZero g 38 then none
  else some { j := j, addr := addr, base := (g.extractLsb' 0 21).toNat, esz := (g.extractLsb' 21 4).toNat,
              depth := (g.extractLsb' 25 13).toNat, head := 0, tail := 0, fill := 0 }

/-- The control word of a binding (R157). -/
def controlBytes (b : QBind) : List Byte :=
  natLe 16 (b.base + b.depth * 2 ^ 32 + b.esz * 2 ^ 48 + b.head * 2 ^ 64 + b.tail * 2 ^ 80 + b.fill * 2 ^ 96)

/-- A copy aimed at queue `j` is pending (R175). -/
def queueCopyPending (t : Task) (j : Nat) : Bool :=
  t.cmds.any fun k => match k.kind with
    | .copy _ _ _ _ _ _ (some i) => i = j
    | _ => false

/-- QCFG (R160). With U = 1 the geometry operand is not looked at, whatever I says; a copy aimed at the queue that a move of the same LIW
enqueues is not yet pending, so the latch is unbound and the copy is then never performed (log 45). -/
def trigQcfg (c : Trig) (a : Acc) : Except Halt Acc :=
  let w := c.opA 768
  let j := (w.extractLsb' 0 3).toNat
  if !highZero w 5 then queueFault c
  else if w.getLsbD 3 then
    if (c.t.queue? j).isNone || queueCopyPending c.t j then queueFault c else .ok (a.addPost (.unbind j))
  else if (c.t.queue? j).isSome || (localFault c.t c.val 16 16).isSome || c.t.queues.any (fun b => b.addr = c.val.toNat) then
    queueFault c
  else
    let fresh := w.getLsbD 4
    let b := if fresh then freshQueue (c.opB 768) j c.val.toNat else readControl c.t.lmem j c.val.toNat
    match b with
    | none => queueFault c
    | some b =>
      if !b.consistent c.t.f then queueFault c
      else .ok (a.addPost (.bind b (if fresh then controlBytes b else [])))

/-- Count head and tail advances of a latch (R161). -/
def Acc.advance (a : Acc) (j h k : Nat) : Acc := { a with acct := a.acct ++ [(j, h, k)] }

/-- QPUSH (R160). -/
def trigQpush (c : Trig) (a : Acc) : Except Halt Acc :=
  let w := c.opA 768
  match highZero w 3, c.t.queue? (w.extractLsb' 0 3).toNat with
  | true, some b =>
    let a1 := if b.esz ≤ 3 then a.addPost (.slot (atAddr (b.slot b.tail) (natLe (2 ^ b.esz) c.val.toNat))) else a
    .ok (a1.advance b.j 0 1)
  | _, _ => queueFault c

/-- QADV (R160). -/
def trigQadv (c : Trig) (a : Acc) : Except Halt Acc :=
  let w := c.opA 768
  let n := c.val.toNat
  match highZero w 4, c.t.queue? (w.extractLsb' 0 3).toNat with
  | true, some b =>
    if n < 1 || b.depth < n then queueFault c
    else .ok (if w.getLsbD 3 then a.advance b.j 0 n else a.advance b.j n 0)
  | _, _ => queueFault c

/-- QWAIT (R160): the LIW issues only when enough slots are filled, or free. -/
def trigQwait (c : Trig) (a : Acc) : Except Halt Acc :=
  let w := c.opA 768
  let n := c.val.toNat
  match highZero w 4, c.t.queue? (w.extractLsb' 0 3).toNat with
  | true, some b =>
    if n < 1 || b.depth < n then queueFault c
    else if (if w.getLsbD 3 then n ≤ b.depth - b.fill else n ≤ b.fill) then .ok a
    else .ok (a.hold .qwait)
  | _, _ => queueFault c

/-- The word QSTAT reads (R160). -/
def statWord : Option QBind → Word
  | none => 0
  | some b => BitVec.ofNat 64 (b.fill + b.head * 2 ^ 16 + b.tail * 2 ^ 32)

/-- QSTAT (R160). -/
def trigQstat (c : Trig) (a : Acc) : Except Halt Acc :=
  if !highZero c.val 3 then queueFault c
  else .ok (a.result 1 771 (statWord (c.t.queue? c.val.toNat)) Flags.none)

/-- The heads that an LIW's POP bits advance (R37, R161). -/
def popHeads (pop : BitVec 8) : List (Nat × Nat × Nat) :=
  ((List.range 8).filter fun j => pop.getLsbD j).map fun j => (j, 1, 0)

/-- The head and tail advances of a latch. -/
def advances (acct : List (Nat × Nat × Nat)) (j : Nat) : Nat × Nat :=
  acct.foldl (fun p x => if x.1 = j then (p.1 + x.2.1, p.2 + x.2.2) else p) (0, 0)

/-- The accounting of an LIW holds (R161). -/
def acctOk (t : Task) (acct : List (Nat × Nat × Nat)) : Bool :=
  acct.all fun x => match t.queue? x.1 with
    | none => false
    | some b => let ha := advances acct x.1
      ha.1 ≤ b.fill && ha.2 ≤ b.depth - b.fill

/-- A binding after its advances (R161). -/
def QBind.advance (b : QBind) (h k : Nat) : QBind :=
  { b with head := (b.head + h) % b.depth, tail := (b.tail + k) % b.depth, fill := b.fill - h + k }

/-- Perform the advances of an LIW and write the changed words back (R158, R161). -/
def applyAcct (t : Task) (acct : List (Nat × Nat × Nat)) : Task :=
  let qs := t.queues.map fun b => b.advance (advances acct b.j).1 (advances acct b.j).2
  let changed := qs.filter fun b => acct.any fun x => x.1 = b.j
  { t with queues := qs, lmem := changed.foldl writeBack t.lmem }

/-- Bind a latch (R160). -/
def bindQueue (t : Task) (b : QBind) (fresh : List Byte) : Task :=
  { t with queues := t.queues ++ [b], lmem := writeBytes t.lmem b.addr fresh }

/-- Write back and unbind a latch (R160). -/
def unbindQueue (t : Task) (j : Nat) : Task :=
  match t.queue? j with
  | none => t
  | some b => { t with queues := t.queues.filter (fun x => x.j ≠ j), lmem := writeBack t.lmem b }

/-- A latch presents slot bytes, and reading them meets an armed range on bytes still to be written (R159, R177). -/
def earlyHead (t : Task) (b : QBind) : Bool := b.esz ≤ 3 && b.fill ≠ 0 && earlyRead t (b.slot b.head) (2 ^ b.esz)

/-- The address at which a move's queue-head read meets an armed range on bytes still to be written: the latch presents slot
bytes (R159, R177). -/
def latchEarly (t : Task) (bus : Nat) (m : Mv) : Option Word :=
  if 32 ≤ bus || m.imm || m.src.toNat < 48 || 56 ≤ m.src.toNat then none
  else match t.queue? (m.src.toNat - 48) with
    | none => none
    | some b => if earlyHead t b then some (BitVec.ofNat 64 (b.slot b.head)) else none

end Sys2Proof.Machine
end

