-- ==== Sys2Proof/Machine/Copy.lean ====
section
/-! DEFINITION. The block-transfer engine (08_time_copy_weights.md): SHAPE, CPY, CPYS, ECHK, WSLOAD, WSREF, and the steps in
which the engine takes commands up, receives their data and performs their writes. -/

namespace Sys2Proof.Machine

/-! ### Enqueuing -/

/-- A command that enters nothing else than what is given; ids rise in enqueue order. -/
def Cmd.make (t : Task) (k : CmdKind) (start due : Nat) : Cmd :=
  { id := t.nextCmd, kind := k, start := start, due := due, up := false, gt := none, strict := false, late := false,
    src := [], dst := [], deps := [], data := [], cells := [], writes := [], lanes := [], flags := Flags.none }

/-- Append a command to the task's pending ones (R165). -/
def Task.enqueue (t : Task) (c : Cmd) : Task := { t with cmds := t.cmds ++ [c], nextCmd := t.nextCmd + 1 }

/-- The start τ of an "at" operand (R164). -/
def startOf (t : Task) (at_ : Word) : Nat := if t.sq.tau < at_.toNat then at_.toNat else t.sq.tau

/-- A command occupies an entry of the 64-entry buffer (R174): a copy, WSLOAD or MLW that the engine has not taken up,
or a Braid block command before its start τ (R23). -/
def Cmd.buffered (c : Cmd) : Bool :=
  !c.up && match c.kind with
    | .copy .. => true
    | .wsload .. => true
    | .mlw .. => true
    | .braid _ => true
    | _ => false

/-- Enqueue a command (R165, R174): TIMING when it would be the 129th pending one, or when the buffer is full of entries
that cannot free while τ is frozen; a wait when it is full and an entry waits for its GCYC or its start τ has come. -/
def enqueueCmd (c : Trig) (a : Acc) (k : Cmd) : Except Halt Acc :=
  let held := a.st.task.cmds.filter Cmd.buffered
  if 128 ≤ a.st.task.cmds.length then c.fault .timing 0
  else if k.buffered && 64 ≤ held.length then
    if (c.t.cmds.filter Cmd.buffered).any fun x => x.gt.isSome || x.start ≤ c.t.sq.tau then .error (.wait .room)
    else c.fault .timing 0
  else .ok (a.mapTask fun t => t.enqueue k)

/-! ### Shape records -/

/-- A signed 32-bit number at a LOCAL address. -/
def readS32 (m : Sparse 8) (a : Nat) : Int := (BitVec.ofNat 32 (readLe m a 4)).toInt

/-- Read a shape record and make R169's content checks. -/
def readShape (m : Sparse 8) (ad : Nat) : Option Shape :=
  let esz := (sget m ad).toNat
  let rank := (sget m (ad + 1)).toNat
  let bm := (sget m (ad + 2)).toNat
  let dims := (List.range 4).map fun i => readLe m (ad + 8 + 2 * i) 2
  let strs := (List.range 4).map fun i => readS32 m (ad + 16 + 4 * i)
  let dimOk := (List.range 4).all fun i => dims.getD i 0 ≠ 0 && (i < rank || dims.getD i 0 = 1)
  if 3 < esz || rank < 1 || 4 < rank || !dimOk || 1 < bm || readLe m (ad + 4) 4 ≠ 0
      || 262144 < dims.foldl (· * ·) 1 * 2 ^ esz then none
  else some { esz := esz, dims := dims, strs := strs, bm := bm = 1 }

/-- A record that SHAPE has validated (R169, R172). -/
def validShape (m : Sparse 8) (ad : Nat) : Option Shape := if sget m (ad + 3) = 1 then readShape m ad else none

/-- SHAPE (R169). -/
def trigShape (c : Trig) (a : Acc) : Except Halt Acc :=
  c.check (localFault c.t c.val 32 32)
    (match readShape c.t.lmem c.val.toNat with
     | none => c.fault .alignShape 0
     | some _ => .ok (a.addPost (.slot [(c.val.toNat + 3, 1)])))

/-! ### Copies -/

/-- The space of a source class (R170). -/
def spaceOf (sc : Nat) : Space :=
  match sc with
  | 0 => .local
  | 1 => .weight
  | _ => .device

/-- L of a copy of `n` bytes (R173). -/
def copyLatency (sc n : Nat) : Nat :=
  match sc with
  | 0 => 12 + (n + 255) / 256
  | 1 => 160 + (n + 255) / 256
  | 2 => 320 + (n + 127) / 128
  | _ => 640 + (n + 127) / 128

/-- A copy as its trigger describes it, once its control word has been read. -/
structure CopyReq where
  sc  : Nat
  src : Space
  dst : Space
  sa  : Word
  da  : Word
  sl  : Layout
  dl  : Layout
  q   : Option Nat
  gt  : Bool
  st  : Bool
  deriving DecidableEq, Repr

/-- The byte ranges of the source. -/
def CopyReq.srcRanges (r : CopyReq) : List (Nat × Nat) := layoutRanges r.sa r.sl
/-- The byte ranges of the destination; none for a queue. -/
def CopyReq.dstRanges (r : CopyReq) : List (Nat × Nat) := if r.q.isSome then [] else layoutRanges r.da r.dl

/-- The DEVICE addresses that a copy translates (R172, R214). -/
def CopyReq.deviceRanges (r : CopyReq) : List (Nat × Nat) :=
  (if r.src = .device then r.srcRanges else []) ++ (if r.dst = .device then r.dstRanges else [])

/-- A range leaves its space altogether (R172, step 4). -/
def beyondSpace (sp : Space) (rs : List (Nat × Nat)) : Bool :=
  rs.any fun x => match sp with
    | .local => 0x200000 < x.1 + x.2
    | .weight => 0x180000000 < x.1 + x.2
    | .device => 2 ^ 56 < x.1 + x.2

/-- The regions that a list of ranges of the weight store touches (R178). -/
def regionsOf (rs : List (Nat × Nat)) : List Nat := rs.flatMap fun x => [x.1 / 2 ^ 26, (x.1 + x.2 - 1) / 2 ^ 26]

/-- The read set of the launch in focus (R179). -/
def State.readSet (s : State) : BitVec 96 :=
  match s.launchOf s.cur with
  | some l => l.rset
  | none => 0

/-- The write set of the launch in focus when it is a weight launch (R179). -/
def State.writeSet (s : State) : BitVec 96 :=
  match s.launchOf s.cur with
  | some l => if l.wl then l.wset else 0
  | none => 0

/-- A range is not the task's to touch (R172, step 5). -/
def notOwned (s : State) (sp : Space) (rs : List (Nat × Nat)) : Bool :=
  match sp with
  | .local => rs.any fun x => s.task.f < x.1 + x.2
  | .weight => (regionsOf rs).any fun r => !s.readSet.getLsbD r
  | .device => false

/-- The DPAs of DEVICE ranges under R212 for the unit in focus. -/
def engineRanges (s : State) (sp : Space) (a : Access) (rs : List (Nat × Nat)) : Except FaultCode (List (Nat × Nat)) :=
  match sp with
  | .device => devRanges s.mem s.board.slots s.tick s.cur.core s.curCtx a (s.cur.priv = .user) rs
  | _ => .ok []

/-- The first of two failing operands of one step, the source before the destination (R289). -/
def firstFail (src dst : Bool) (sa da : Word) (f : FaultCode) : Option (FaultCode × Word) :=
  if src then some (f, sa) else if dst then some (f, da) else none

/-- Steps 4 and 5 of R172. -/
def copySpaceFault (s : State) (r : CopyReq) : Option (FaultCode × Word) :=
  match firstFail (beyondSpace r.src r.srcRanges) (beyondSpace r.dst r.dstRanges) r.sa r.da .alignCopy with
  | some f => some f
  | none => firstFail (notOwned s r.src r.srcRanges) (notOwned s r.dst r.dstRanges) r.sa r.da .prot

/-- The fault of the earlier step over both operands (XLATE, then PROT, then KEY), the source first (R172, step 6). -/
def engineFault (src dst : Except FaultCode (List (Nat × Nat))) (sa da : Word) : Option (FaultCode × Word) :=
  let has : Except FaultCode (List (Nat × Nat)) → FaultCode → Bool := fun e f => match e with
    | .error g => g = f
    | .ok _ => false
  match firstFail (has src .xlate) (has dst .xlate) sa da .xlate with
  | some f => some f
  | none => match firstFail (has src .prot) (has dst .prot) sa da .prot with
    | some f => some f
    | none => firstFail (has src .key) (has dst .key) sa da .key

/-- Step 7 of R172. A copy into a queue names no destination bytes that could overlap a control word (log 45). -/
def copyQueueFault (t : Task) (r : CopyReq) : Bool :=
  match r.q with
  | some j => match t.queue? j with
    | none => true
    | some b => layoutSize r.sl % 2 ^ b.esz ≠ 0 || b.depth < layoutSize r.sl / 2 ^ b.esz
  | none => r.dst = .local && r.dstRanges.any fun x => hitsControl t x.1 x.2

/-- Steps 4 to 7 of R172, then the enqueue (R164, R173, R176). -/
def enqueueCopy (c : Trig) (a : Acc) (r : CopyReq) : Except Halt Acc :=
  let s := c.s0
  let src := engineRanges s r.src .read r.srcRanges
  let dst := engineRanges s r.dst .write r.dstRanges
  c.check (copySpaceFault s r) (c.walkWait r.deviceRanges (c.check (engineFault src dst r.sa r.da)
    (if copyQueueFault c.t r then c.fault .queue 0
     else
       let l := copyLatency r.sc (layoutSize r.sl)
       let k := CmdKind.copy r.src r.dst r.sa r.da r.sl r.dl r.q
       let at_ := c.opC 704
       let wait := r.gt && c.t.dl0 && s.clock < at_.toNat
       let start := if wait then 0 else if r.gt then c.t.sq.tau else startOf c.t at_
       let cmd : Cmd := { Cmd.make a.st.task k start (start + l) with
         gt := if wait then some at_.toNat else none, strict := r.st && c.t.dl0,
         src := src.toOption.getD [], dst := dst.toOption.getD [], deps := c.operandIds 704 }
       match enqueueCmd c (a.mapSt fun x => x.fillRanges s.tick (r.deviceRanges)) cmd with
       | .error h => .error h
       | .ok a1 =>
         let a2 := if r.gt && !c.t.dl0 then a1.mapTask Task.setTaint else a1
         .ok (a2.result 1 707 (if r.gt && c.t.dl0 then BitVec.allOnes 64 else BitVec.ofNat 64 (start + l)) Flags.none))))

/-- CPY (R170, R172). -/
def trigCpy (c : Trig) (a : Acc) : Except Halt Acc :=
  let w := c.val
  let sa := c.opA 704
  let da := c.opB 704
  let n := (w.extractLsb' 0 19).toNat
  let sc := (w.extractLsb' 35 2).toNat
  let ds := w.getLsbD 37
  let q := w.getLsbD 38
  if !highZero w 41 || w.extractLsb' 19 16 ≠ 0 || (q && !highZero da 3) || n = 0 || 262144 < n || (sc = 1 && ds)
      || (q && ds) then
    c.fault .alignCopy 0
  else
    c.check (firstFail (sa.toNat % 4 ≠ 0) (!q && da.toNat % 4 ≠ 0) sa da .alignCopy)
      (if n % 4 ≠ 0 then c.fault .alignCopy 0
       else enqueueCopy c a { sc := sc, src := spaceOf sc, dst := if ds then .device else .local, sa := sa, da := da,
                              sl := .row n, dl := .row n, q := if q then some da.toNat else none,
                              gt := w.getLsbD 40, st := w.getLsbD 39 })

/-- A record address that R172 refuses: not a multiple of 32, or at or above F. -/
def badRecord (t : Task) (ad : Word) : Bool := ad.toNat % 32 ≠ 0 || t.f ≤ ad.toNat

/-- CPYS (R171, R172). -/
def trigCpys (c : Trig) (a : Acc) : Except Halt Acc :=
  let w := c.val
  let sa := c.opA 704
  let da := c.opB 704
  let sc := (w.extractLsb' 42 2).toNat
  let ds := w.getLsbD 44
  let ssh : Word := (w.extractLsb' 0 21).setWidth 64
  let dsh : Word := (w.extractLsb' 21 21).setWidth 64
  if !highZero w 47 || (sc = 1 && ds) then c.fault .alignCopy 0
  else
    c.check (firstFail (badRecord c.t ssh) (badRecord c.t dsh) ssh dsh .alignCopy)
      (match validShape c.t.lmem ssh.toNat, validShape c.t.lmem dsh.toNat with
       | some x, some y =>
         if x.esz ≠ y.esz || x.dims.foldl (· * ·) 1 ≠ y.dims.foldl (· * ·) 1 then c.fault .alignCopy 0
         else
           c.check (firstFail (sa.toNat % 2 ^ x.esz ≠ 0) (da.toNat % 2 ^ x.esz ≠ 0) sa da .alignCopy)
             (enqueueCopy c a { sc := sc, src := spaceOf sc, dst := if ds then .device else .local, sa := sa, da := da,
                                sl := .shape x, dl := .shape y, q := none, gt := w.getLsbD 46, st := w.getLsbD 45 })
       | _, _ => c.fault .alignCopy 0)

/-! ### ECHK, WSLOAD, WSREF -/

/-- ECHK (R177). -/
def trigEchk (c : Trig) (a : Acc) : Except Halt Acc :=
  let b := c.opA 704
  let n := (c.val.extractLsb' 0 22).toNat
  let i := (c.val.extractLsb' 22 2).toNat
  if !highZero b 21 || !highZero c.val 24 then c.fault .alignCopy 0
  else if 0x200000 < b.toNat + n then c.fault .alignCopy b
  else .ok (a.mapTask fun t =>
    let rest := t.echk.filter fun e => e.idx ≠ i
    { t with echk := if n = 0 then rest else rest ++ [{ idx := i, base := b.toNat, len := n }] })

/-- WSLOAD (R180). -/
def trigWsload (c : Trig) (a : Acc) : Except Halt Acc :=
  let v := c.val
  let sa := c.opA 704
  let w := c.opB 704
  let n := (v.extractLsb' 0 27).toNat
  let gt := v.getLsbD 28
  let region := w.toNat / 2 ^ 26
  if 96 ≤ region || !c.s0.writeSet.getLsbD region then c.fault .wsRo 0
  else if !highZero v 29 then c.fault .alignCopy 0
  else if w.toNat % 4096 ≠ 0 then c.fault .alignCopy w
  else if n % 4096 ≠ 0 || n = 0 || 2 ^ 26 < n then c.fault .alignCopy 0
  else if (w.toNat + n - 1) / 2 ^ 26 ≠ region then c.fault .alignCopy w
  else
    let src := engineRanges c.s0 .device .read [(sa.toNat, n)]
    c.walkWait [(sa.toNat, n)] (c.check (engineFault src (.ok []) sa w)
      (let l := copyLatency (if v.getLsbD 27 then 3 else 2) n
       let at_ := c.opC 704
       let wait := gt && c.t.dl0 && c.s0.clock < at_.toNat
       let start := if wait then 0 else if gt then c.t.sq.tau else startOf c.t at_
       let cmd : Cmd := { Cmd.make a.st.task (.wsload sa w.toNat n) start (start + l) with
         gt := if wait then some at_.toNat else none, src := src.toOption.getD [], deps := c.operandIds 704 }
       match enqueueCmd c (a.mapSt fun x => x.fillRanges c.s0.tick [(sa.toNat, n)]) cmd with
       | .error h => .error h
       | .ok a1 =>
         let a2 := if gt && !c.t.dl0 then a1.mapTask Task.setTaint else a1
         .ok (a2.result 1 707 (if gt && c.t.dl0 then BitVec.allOnes 64 else BitVec.ofNat 64 (start + l)) Flags.none)))

/-- The start of bank `b`'s refresh window in progress or next at GCYC `g` (R182). -/
def nextRefresh (g b : Nat) : Nat :=
  let g0 := g - g % 65536 + 4096 * b
  if g < g0 + 256 then g0 else g0 + 65536

/-- WSREF (R182). -/
def trigWsref (c : Trig) (a : Acc) : Except Halt Acc :=
  realTime c a 707 (BitVec.ofNat 64 (nextRefresh c.s0.gcyc (c.val.extractLsb' 0 4).toNat))

/-! ### The engine's steps -/

/-- A pending command of the task in focus. -/
def State.cmd? (s : State) (k : Nat) : Option Cmd := if s.on then s.task.cmds.find? fun c => c.id = k else none

/-- Change a pending command. -/
def Task.mapCmd (t : Task) (k : Nat) (f : Cmd → Cmd) : Task :=
  { t with cmds := t.cmds.map fun c => if c.id = k then f c else c }

/-- A command has been performed. -/
def Task.dropCmd (t : Task) (k : Nat) : Task := { t with cmds := t.cmds.filter fun c => c.id ≠ k }

/-- The end of a command's due τ has come (R164). -/
def Cmd.over (c : Cmd) (tau : Nat) : Bool := c.up && c.gt.isNone && c.due < tau

/-- A range of a weight store meets a poisoned region of it (R298). -/
def weightPoisoned (s : State) (rs : List (Nat × Nat)) : Bool :=
  rs.any fun r => s.health.wsPoison.any fun p =>
    p.1 = coreDie s.cur.core && overlap r.1 r.2 (2 ^ 26 * p.2) (2 ^ 26)

/-- The byte ranges of a weight block: 64 stored rows, then the scale bytes of D2P8 (R187). -/
def blockRanges (sa stride : Nat) (wf : Format) : List (Nat × Nat) :=
  (List.range 64).map (fun i => (sa + i * stride, 64 * (if wf = .bf16 || wf = .fp16 then 2 else 1)))
    ++ (if wf = .d2p8 then [(sa + 64 * stride, 128)] else [])

/-- The ranges of the unit's weight store that a command reads. -/
def Cmd.weightRanges (c : Cmd) : List (Nat × Nat) :=
  match c.kind with
  | .copy .weight _ sa _ sl _ _ => layoutRanges sa sl
  | .mlw _ .weight sa str _ wf => blockRanges sa.toNat str wf
  | _ => []

/-- DEVICE lines or weight-store regions of a command's source that cannot be read now (R230, R298 to R300). -/
def sourceBlocked (s : State) (c : Cmd) : Bool := weightPoisoned s c.weightRanges || !readReady s.mem s.cur c.deps s.mem.nextW c.src

/-- The bytes of a command's source as the engine reads them (R175): WEIGHT of the unit's die, or DEVICE through the
die's view with the task's own stores. -/
def readSource (s : State) (c : Cmd) : List Byte :=
  match c.kind with
  | .copy .weight _ _ _ _ _ _ => readRanges (s.mem.ws (coreDie s.cur.core)) c.weightRanges
  | .copy .device _ _ _ _ _ _ => s.deviceBytes c.src
  | .wsload _ _ _ => s.deviceBytes c.src
  | .mlw _ .weight _ _ _ _ => readRanges (s.mem.ws (coreDie s.cur.core)) c.weightRanges
  | _ => []

/-! ### The Weir -/

/-- The bytes that the Weir holds (R14, R174). -/
def weirSize : Nat := 262144

/-- The bytes of Weir room that a command's data takes: those of a copy from WEIGHT or DEVICE (R174), and of one from LOCAL into a queue
from its due τ on (R174, R175). -/
def Cmd.weir (c : Cmd) : Nat :=
  match c.kind with
  | .copy sp _ _ _ sl _ q => if sp = .local && (q.isNone || c.data.isEmpty) then 0 else layoutSize sl
  | _ => 0

/-- A command whose data stands in the Weir. -/
def Cmd.inWeir (c : Cmd) : Bool := c.up && !c.late && c.weir ≠ 0

/-- One command is fetched before another: ascending due τ, then enqueue order (R174). -/
def fetchedBefore (a b : Cmd) : Bool := a.due < b.due || (a.due = b.due && a.id < b.id)

/-- The Weir has room for a command's data, once what is due later has been dropped, and no copy that is fetched before it still
waits for its own (R174). -/
def weirRoom (t : Task) (c : Cmd) : Bool :=
  c.weir = 0
    || (!t.cmds.any (fun k => k.up && k.late && k.weir ≠ 0 && fetchedBefore k c)
        && ((t.cmds.filter fun k => k.inWeir && fetchedBefore k c).map Cmd.weir).sum + c.weir ≤ weirSize)

/-- The command in the Weir that is due last, among those whose data can be fetched again. -/
def lastInWeir : List Cmd → Option Cmd
  | [] => none
  | c :: cs => match lastInWeir cs with
    | none => if c.inWeir && c.fetched then some c else none
    | some d => if c.inWeir && c.fetched && fetchedBefore d c then some c else some d

/-- Make room for `n` bytes: data that is due last is dropped first, and fetched again afterwards (R174). -/
def makeRoom (n : Nat) : Nat → Task → Task
  | 0, t => t
  | f + 1, t =>
    if ((t.cmds.filter Cmd.inWeir).map Cmd.weir).sum + n ≤ weirSize then t
    else match lastInWeir t.cmds with
      | none => t
      | some d => makeRoom n f (t.mapCmd d.id fun x => { x with late := true, data := [] })

/-! ### Refresh -/

/-- The bank of a weight-store offset (R178). -/
def weightBank (w : Nat) : Nat := w / 4096 % 16

/-- The bank under refresh at a GCYC (R181). -/
def refreshBank (g : Nat) : Option Nat := if g % 4096 < 256 then some (g / 4096 % 16) else none

/-- A range of the weight store touches a bank. -/
def touchesBank (b a n : Nat) : Bool :=
  (List.range (min 16 ((a % 4096 + n + 4095) / 4096))).any fun i => weightBank (a + 4096 * i) = b

/-- A command's fetch meets the bank under refresh: the one it reads, or for a WSLOAD the one it writes (R181). -/
def underRefresh (s : State) (c : Cmd) : Bool :=
  match refreshBank s.gcyc with
  | none => false
  | some b => (match c.kind with
    | .wsload _ w n => [(w, n)]
    | _ => c.weightRanges).any fun r => touchesBank b r.1 r.2

/-- A command's data can come in now (R174, R181, R235, R299). -/
def canFetch (s : State) (c : Cmd) : Bool := !sourceBlocked s c && !underRefresh s c && weirRoom s.task c

/-- A command's data comes in, its lines into the L2 (R174, R175, R217); what it writes depends on what it has read (R229). -/
def fetchData (s : State) (c : Cmd) : State :=
  let m := s.fetched c.src
  let die := coreDie s.cur.core
  let u := c.src.foldl (fun u r => noteRead m u die m.nextW r.1 r.2) s.cur
  let ids := (c.src.flatMap fun r => readIds m s.cur die m.nextW r.1 r.2).eraseDups
  let t := makeRoom c.weir u.task.cmds.length (u.task.mapCmd c.id fun x => { x with late := true })
  { s with mem := m, cur := { u with task := t.mapCmd c.id fun x =>
      { x with late := false, data := readSource s c, deps := (ids ++ x.deps).eraseDups } } }

/-- ENGINE_COMMAND_START (R164, R174). Whether the data is at once in place is a free choice (log 18). -/
def execEngineCommandStart (k : Nat) (s : State) : Host.Outcome State Fault Refusal :=
  match s.cmd? k with
  | none => .next s
  | some c =>
    if !c.buffered || !c.starts s.task.sq.tau then .next s
    else
      let s1 : State := { (s.mapTask fun t => t.mapCmd k fun x => { x with up := true, late := c.fetched }).chargeCmd c
                          with tick := s.tick + 1 }
      .next (if c.fetched && !Config.dataLate s.tick && canFetch s c then fetchData s1 c else s1)

/-- GT_COPY_START (R176): a GT command at DL0 starts at the first LIW issued at or after its GCYC. -/
def execGtCopyStart (k : Nat) (s : State) : Host.Outcome State Fault Refusal :=
  match s.cmd? k with
  | none => .next s
  | some c =>
    match c.gt with
    | none => .next s
    | some g =>
      if s.clock < g then .next s
      else .next (s.mapTask fun t => t.mapCmd k fun x =>
        { x with gt := none, start := t.sq.tau, due := t.sq.tau + c.due })

/-- LATE_DATA_ARRIVAL (R174): data that was not in place comes in. -/
def execLateDataArrival (k : Nat) (s : State) : Host.Outcome State Fault Refusal :=
  match s.cmd? k with
  | none => .next s
  | some c => if c.up && c.late && c.fetched && canFetch s c then .next (fetchData s c) else .next s

/-- An end is due: the due τ of a command has passed. A copy into a queue may find no room, and waits without holding the τ
(R175), and a strict command whose data is late holds nothing but the next LIW, which raises TIMING (R176). -/
def endsDue (t : Task) : Bool :=
  t.cmds.any fun c => !(c.strict && c.late) && match c.kind with
    | .mswp _ => c.due < t.sq.tau
    | .copy _ _ _ _ sl _ (some j) => c.over t.sq.tau && (c.late || match t.queue? j with
        | some b => layoutSize sl / 2 ^ b.esz ≤ b.depth - b.fill
        | none => false)
    | .braid _ => c.starts t.sq.tau && c.start < t.sq.tau
    | .bfetch _ _ _ => false
    | _ => c.over t.sq.tau

/-- The unit in focus has bytes of its scratchpad written that were read from some writes in flight (R229); none where `ids` is empty. -/
def State.localFrom (s : State) (rs : List (Nat × Nat)) (ids : List Nat) : State :=
  if s.cur.origins.isEmpty && ids.isEmpty then s
  else { s with cur := { s.cur with origins := setLocal s.cur.origins rs (ids.filter fun i => s.mem.writes.any fun w => w.id = i) } }

/-- Values of the unit in focus under some keys come from no DEVICE write any more (R229). -/
def State.forget (s : State) (keys : List Nat) : State :=
  if s.cur.origins.isEmpty then s
  else { s with cur := { s.cur with origins := s.cur.origins.filter fun x => !keys.contains x.1 } }

/-- Write a copy's bytes to LOCAL (R171, R175). -/
def putLocal (m : Sparse 8) (rs : List (Nat × Nat)) (bs : List Byte) : Sparse 8 := ssetMany m (placeRanges rs bs)

/-- COPY_WRITE (R175): a copy to LOCAL or DEVICE performs its writes at the end of its due τ. -/
def execCopyWrite (k : Nat) (s : State) : Host.Outcome State Fault Refusal :=
  match s.cmd? k with
  | none => .next s
  | some c =>
    if !c.over s.task.sq.tau || c.late then .next s
    else match c.kind with
      | .copy _ .local _ da _ dl none =>
        .next ((s.mapTask fun t => ({ t with lmem := putLocal t.lmem (layoutRanges da dl) c.data }).dropCmd k).localFrom
          (layoutRanges da dl) c.deps)
      | .copy _ .device _ _ _ _ none =>
        let s1 := storeDevice s s.cur.uid c.deps (placeRanges c.dst c.data)
        .next (s1.mapTask fun t => t.dropCmd k)
      | _ => .next s

/-- Another agent fills slots of a bound queue: the data first, then TAIL and FILL, then the control word (R158, R162). -/
def agentAdvance (t : Task) (b : QBind) (n : Nat) (bs : List (Nat × Byte)) : Task :=
  let b' := b.advance 0 n
  let t1 : Task := { t with lmem := ssetMany t.lmem bs, queues := t.queues.map fun x => if x.j = b.j then b' else x }
  { t1 with lmem := writeBack t1.lmem b' }

/-- QUEUE_COPY_COMMIT (R162, R175): a copy into a queue whose slots are free fills them. -/
def execQueueCopyCommit (k : Nat) (s : State) : Host.Outcome State Fault Refusal :=
  match s.cmd? k with
  | none => .next s
  | some c =>
    match c.kind with
    | .copy _ _ _ _ sl _ (some j) =>
      match s.task.queue? j with
      | none => .next s
      | some b =>
        let m := layoutSize sl / 2 ^ b.esz
        if !c.over s.task.sq.tau || c.late || b.depth - b.fill < m then .next s
        else .next ((s.mapTask fun t =>
          (agentAdvance t b m (placeRanges (queueSlots b (layoutSize sl)) c.data)).dropCmd k).localFrom (queueSlots b (layoutSize sl)) c.deps)
    | _ => .next s

/-- The agent that would fill `n` slots of latch `j`'s queue finds too little room, and holds its data (R162). -/
def queueHolds (s : State) (j n : Nat) : Bool :=
  !s.on || match s.task.queue? j with
    | none => false
    | some b => b.depth - b.fill < n

/-- QUEUE_AGENT_ADVANCE (R162): another agent writes the data of `n` slots of latch `j`'s queue, free values here, and then advances
its tail; one that finds too little room holds its data (log 55). -/
def execQueueAgentAdvance (j : BitVec 3) (n : Nat) (s : State) : Host.Outcome State Fault Refusal :=
  if queueHolds s j.toNat n then .next s
  else match s.task.queue? j.toNat with
    | none => .next s
    | some b =>
      let data := (List.range (n * 2 ^ b.esz)).map (Config.agentByte s.tick)
      let t := (s.mapTask fun t => agentAdvance t b n (placeRanges (queueSlots b (n * 2 ^ b.esz)) data)).localFrom (queueSlots b (n * 2 ^ b.esz)) []
      .next { t with tick := s.tick + 1 }

/-- The dies whose stores a WSLOAD of the unit in focus writes (R178, R263): its own, or the partition's at DL2. -/
def State.weightDies (s : State) : List Nat :=
  if s.task.tstat.dl = .dl2 then s.curCtx.dies else [coreDie s.cur.core]

/-- WSLOAD_WRITE (R180); it clears the poison of its region (R298). -/
def execWsloadWrite (k : Nat) (s : State) : Host.Outcome State Fault Refusal :=
  match s.cmd? k with
  | none => .next s
  | some c =>
    match c.kind with
    | .wsload _ w _ =>
      if !c.over s.task.sq.tau || c.late then .next s
      else
        let m := s.weightDies.foldl (fun (m : Memory) d => m.setWs d (writeBytes (m.ws d) w c.data)) s.mem
        let h : Health := { s.health with
          wsPoison := s.health.wsPoison.filter fun p => !(s.weightDies.contains p.1 && p.2 = w / 2 ^ 26) }
        .next ({ s with mem := m, health := h }.mapTask fun t => t.dropCmd k)
    | _ => .next s

/-- REFRESH_WINDOW (R181): the refresh window of a bank begins or ends as GCYC says. -/
def execRefreshWindow (s : State) : Host.Outcome State Fault Refusal :=
  .next { s with board := { s.board with refresh := refreshBank s.gcyc } }

end Sys2Proof.Machine
end

