-- ==== Sys2Proof/Machine/Matrix.lean ====
section
/-! DEFINITION. The matrix arrays (09_matrix_arrays.md): MCFG, MLW, MSWP, MSTR, MOP, MRD, MCLR, and the steps in which an
array performs what it has been given. Arrays are numbered 0 (MXA) and 1 (MXB). -/

namespace Sys2Proof.Machine

/-! ### Array state -/

/-- An array of a task. -/
def Task.mx (t : Task) (arr : Nat) : MxArray := if arr = 0 then t.mxa else t.mxb

/-- Change an array of a task. -/
def Task.mapMx (t : Task) (arr : Nat) (f : MxArray → MxArray) : Task :=
  if arr = 0 then { t with mxa := f t.mxa } else { t with mxb := f t.mxb }

/-- A plane by index. -/
def MxArray.plane (m : MxArray) (p : Bool) : Sparse 32 := if p then m.plane1 else m.plane0
/-- Replace a plane. -/
def MxArray.setPlane (m : MxArray) (p : Bool) (v : Sparse 32) : MxArray :=
  if p then { m with plane1 := v } else { m with plane0 := v }
/-- A tile by index. -/
def MxArray.tile (m : MxArray) (i : Nat) : Sparse 32 := if i = 0 then m.tile0 else m.tile1
/-- The flags of a tile. -/
def MxArray.tflags (m : MxArray) (i : Nat) : TileFlags := if i = 0 then m.flags0 else m.flags1
/-- Replace a tile and its flags. -/
def MxArray.setTile (m : MxArray) (i : Nat) (v : Sparse 32) (f : TileFlags) : MxArray :=
  if i = 0 then { m with tile0 := v, flags0 := f } else { m with tile1 := v, flags1 := f }

/-- The first bank A port of an array's block (R184). -/
def mxBase (arr : Nat) : Nat := 512 + 64 * arr

/-- The rows per τ of a format pair; `none` when the pair is no row of R185. -/
def mxRate (af wf : Format) : Option Nat :=
  let e8 : Format → Bool := fun f => f = .e4m3 || f = .e5m2
  if (af = .bf16 && wf = .bf16) || (af = .fp16 && wf = .fp16) then some 1
  else if e8 af && e8 wf then some 2
  else if e8 af && wf = .d2p8 then some 4
  else if af = .bf16 && wf = .d2p8 then some 1
  else none

/-- Bytes of an element as rows hold it (R187, R192). -/
def mxElem (f : Format) : Nat := if f = .bf16 || f = .fp16 then 2 else 1

/-! ### MCFG, MLW, MSWP, MCLR -/

/-- A pending command of an array: an MLW; a step. -/
def isMlw (arr : Nat) (c : Cmd) : Bool := match c.kind with
  | .mlw a _ _ _ _ _ => a = arr
  | _ => false
/-- See `isMlw`. -/
def isStep (arr : Nat) (c : Cmd) : Bool := match c.kind with
  | .step a _ _ _ _ _ _ _ _ _ _ _ => a = arr
  | _ => false

/-- The array is drained (R186). -/
def drained (t : Task) (arr : Nat) : Bool :=
  !t.cmds.any (fun c => isMlw arr c || isStep arr c) && ((t.mx arr).done = 0 || (t.mx arr).done + 2 ≤ t.sq.tau)

/-- MCFG (R186). -/
def trigMcfg (arr : Nat) (c : Trig) (a : Acc) : Except Halt Acc :=
  let os := c.opA (mxBase arr)
  let af := formatOf (c.val.extractLsb' 0 3).toNat
  let wf := formatOf (c.val.extractLsb' 3 3).toNat
  if !highZero os 32 || !highZero c.val 6 || (mxRate af wf).isNone then c.fault .illegal 0
  else if !drained c.t arr then c.fault .mcfgBusy 0
  else .ok (a.mapTask fun t => t.mapMx arr fun m => { m with oscale := lo32 os, af := af, wf := wf })

/-- L of an MLW (R189). -/
def mlwLatency (sp : Space) (wf : Format) : Nat :=
  let n := 4096 * mxElem wf + (if wf = .d2p8 then 128 else 0)
  (if sp = .local then 12 else 160) + (n + 127) / 128

/-- Steps 2 to 4 of R188. -/
def mlwFault (s : State) (sp : Space) (sa : Word) (rs : List (Nat × Nat)) : Option (FaultCode × Word) :=
  if beyondSpace sp rs then some (.alignCopy, sa)
  else if notOwned s sp rs then some (.prot, sa)
  else if sp = .local && rs.any (fun r => earlyRead s.task r.1 r.2) then some (.earlyRead, sa)
  else none

/-- MLW (R187, R188, R189). -/
def trigMlw (arr : Nat) (c : Trig) (a : Acc) : Except Halt Acc :=
  let b := mxBase arr
  let sa := c.opA b
  let str := c.opB b
  let sp : Space := if c.val.getLsbD 0 then .local else .weight
  let wf := (c.t.mx arr).wf
  if !highZero c.val 2 || !highZero str 32 then c.fault .alignCopy 0
  else if sa.toNat % 64 ≠ 0 || str.toNat % 64 ≠ 0 then c.fault .alignCopy sa
  else
    c.check (mlwFault c.s0 sp sa (blockRanges sa.toNat str.toNat wf))
      (let start := startOf c.t (c.opC b)
       let due := start + mlwLatency sp wf
       match enqueueCmd c a (Cmd.make a.st.task (.mlw arr sp sa str.toNat (c.val.getLsbD 1) wf) start due) with
       | .error h => .error h
       | .ok a1 => .ok (a1.result 1 (b + 3) (BitVec.ofNat 64 due) Flags.none))

/-- The last read τ of a pending step (R191). -/
def Cmd.lastRead (c : Cmd) : Nat := match c.kind with
  | .step _ _ _ _ _ _ _ _ _ _ _ r => c.start + 64 / r - 1
  | _ => c.start

/-- A pending MSTR of an array. -/
def isMstr (arr : Nat) (c : Cmd) : Bool := match c.kind with
  | .step a mop _ _ _ _ _ _ _ _ _ _ => a = arr && !mop
  | _ => false

/-- A pending MSWP of an array. -/
def isMswp (arr : Nat) (c : Cmd) : Bool := match c.kind with
  | .mswp a => a = arr
  | _ => false

/-- The array's command queue is full (R191). The array has taken up every command whose τ has come, so the entries that
stay occupied have a later one. -/
def mxFull (t : Task) (arr : Nat) : Bool :=
  8 ≤ (t.cmds.filter fun c => (isStep arr c || isMswp arr c) && t.sq.tau < c.start).length

/-- MSWP (R190, R191). -/
def trigMswp (arr : Nat) (c : Trig) (a : Acc) : Except Halt Acc :=
  let s := startOf c.t c.val
  if c.t.cmds.any (fun k => isMstr arr k && k.start ≤ s && s < k.lastRead) || mxFull c.t arr then c.fault .timing 0
  else enqueueCmd c a (Cmd.make a.st.task (.mswp arr) s s)

/-- MCLR (R198). -/
def trigMclr (arr : Nat) (c : Trig) (a : Acc) : Except Halt Acc :=
  if !highZero c.val 2 then c.fault .illegal 0
  else
    let clear : Nat → MxArray → MxArray := fun i m => m.setTile i [] ⟨false, false⟩
    .ok (a.mapTask fun t => t.mapMx arr fun m =>
      if c.val.getLsbD 1 then clear 1 (clear 0 m) else clear (c.val.extractLsb' 0 1).toNat m)

/-! ### Steps -/

/-- A step as its trigger describes it. -/
structure StepReq where
  mop  : Bool
  tile : Nat
  acc  : Bool
  rows : Nat
  a    : Nat
  sa   : Nat
  g    : Nat
  sg   : Nat
  deriving DecidableEq, Repr

/-- The rows a step reads of one operand. -/
def stepRows (base str rows : Nat) (f : Format) : List (Nat × Nat) :=
  (List.range rows).map fun m => (base + m * str, 64 * mxElem f)

/-- Read an MSTR's or MOP's operands; `none` for a reserved bit or ROWS out of range (R192, R195). -/
def stepReq (mop : Bool) (a b v : Word) : Option StepReq :=
  let rows := (v.extractLsb' 8 7).toNat
  let top := if mop then 42 else 21
  if !highZero v 15 || v.extractLsb' 2 6 ≠ 0 || !highZero a top || !highZero b top || rows = 0 || 64 < rows then none
  else some { mop := mop, tile := (v.extractLsb' 0 1).toNat, acc := v.getLsbD 1, rows := rows,
              a := (a.extractLsb' 0 21).toNat, sa := (b.extractLsb' 0 21).toNat,
              g := if mop then (a.extractLsb' 21 21).toNat else 0, sg := if mop then (b.extractLsb' 21 21).toNat else 0 }

/-- Every row a step reads, by operand. -/
def StepReq.spans (q : StepReq) (m : MxArray) : List (Nat × Nat) :=
  stepRows q.a q.sa q.rows m.af ++ (if q.mop then stepRows q.g q.sg q.rows m.wf else [])

/-- The first row that fails R150: the checks of R150 are made row by row (log 45). -/
def rowsFault (t : Task) (rs : List (Nat × Nat)) : Option (FaultCode × Word) :=
  rs.findSome? fun r => localFault t (BitVec.ofNat 64 r.1) r.2 1

/-- The first row that is an early read (R177). -/
def rowsEarly (t : Task) (rs : List (Nat × Nat)) : Option (FaultCode × Word) :=
  rs.findSome? fun r => if earlyRead t r.1 r.2 then some (.earlyRead, BitVec.ofNat 64 r.1) else none

/-- Step 2 of R192: bases and strides, then every row. -/
def stepAlign (t : Task) (q : StepReq) (m : MxArray) : Option (FaultCode × Word) :=
  if q.a % 64 ≠ 0 || q.sa % 64 ≠ 0 then some (.alignLocal, BitVec.ofNat 64 q.a)
  else if q.g % 64 ≠ 0 || q.sg % 64 ≠ 0 then some (.alignLocal, BitVec.ofNat 64 q.g)
  else rowsFault t (q.spans m)

/-- The engines whose pending writes R194 counts: copies, MRDs, witness reductions, ADJBs. -/
def countsMissing (c : Cmd) : Bool := match c.kind with
  | .copy .. => true
  | .mrd _ => true
  | .wit => true
  | .adjb => true
  | _ => false

/-- A byte of a list of ranges has a pending engine write due at τ `start` or later (R194). A command that the LIW of τ `start` enqueues is
not yet pending (log 45). -/
def missing (t : Task) (start : Nat) (rs : List (Nat × Nat)) : Bool :=
  t.cmds.any fun c => countsMissing c && (c.gt.isSome || start ≤ c.due)
    && (cmdWrites t c).any fun w => rs.any fun r => overlap r.1 r.2 w.1 w.2

/-- TVAL of a missing operand (R194). -/
def missingTval (arr : Nat) (mop : Bool) (start : Nat) : Word :=
  BitVec.ofNat 64 (arr + (if mop then 2 else 0) + 256 * (start % 2 ^ 56))

/-- The checks of R191 on a new step. -/
def stepTiming (t : Task) (arr start : Nat) (q : StepReq) (e : Nat) : Bool :=
  t.cmds.any (fun k => isStep arr k && start < k.lastRead + 1)
    || (!q.mop && t.cmds.any fun k => isMswp arr k && start ≤ k.start && k.start < e)
    || mxFull t arr

/-- MSTR and MOP (R191 to R195). -/
def trigStep (arr : Nat) (mop : Bool) (c : Trig) (a : Acc) : Except Halt Acc :=
  let b := mxBase arr
  let m := c.t.mx arr
  match stepReq mop (c.opA b) (c.opB b) c.val, mxRate m.af m.wf with
  | some q, some r =>
    if mop && m.wf = .d2p8 then c.fault .illegal 0
    else
      c.check (stepAlign c.t q m) (c.check (rowsEarly c.t (q.spans m))
        (let start := startOf c.t (c.opC b)
         let e := start + 64 / r - 1
         let now := start = c.t.sq.tau
         if stepTiming c.t arr start q e then c.fault .timing 0
         else if now && missing c.t start (q.spans m) then
           .error (.fault { code := .timing, tval := missingTval arr mop start, bus := 0xFF })
         else
           let k := CmdKind.step arr mop q.tile q.acc q.rows q.a q.sa q.g q.sg m.af m.wf r
           let cmd : Cmd := { Cmd.make a.st.task k start (e + 16) with
             up := now, cells := if now then m.plane m.act else [] }
           match enqueueCmd c a cmd with
           | .error h => .error h
           | .ok a1 => .ok (a1.result 1 (b + 3) (BitVec.ofNat 64 (e + 16)) Flags.none)))
  | _, _ => c.fault .illegal 0

/-- The rows a pending step reads. -/
def Cmd.spans (c : Cmd) : List (Nat × Nat) := match c.kind with
  | .step _ mop _ _ rows a sa g sg af wf _ =>
    stepRows a sa rows af ++ (if mop then stepRows g sg rows wf else [])
  | _ => []

/-- ARRAY_STEP_START (R193, R194): the array checks its operands and takes the cells of the active plane. A step with a missing
operand is marked: the LIW of this τ raises TIMING for it, and it is discarded (`lateFault`). -/
def execArrayStepStart (k : Nat) (s : State) : Host.Outcome State Fault Refusal :=
  match s.cmd? k with
  | none => .next s
  | some c =>
    match c.kind with
    | .step arr _ _ _ _ _ _ _ _ _ _ _ =>
      if !c.starts s.task.sq.tau then .next s
      else if missing s.task c.start c.spans then .next (s.mapTask fun t => t.mapCmd k fun x => { x with up := true, late := true })
      else .next ((s.mapTask fun t => t.mapCmd k fun x => { x with up := true, cells := (t.mx arr).plane (t.mx arr).act }).chargeCmd c)
    | _ => .next s

/-- TIMING that the next LIW of a task raises as a whole: for a step whose operand was missing at its start (R194), or for a strict
command whose data is absent after its due τ (R176). -/
def lateFault (t : Task) : Option FaultInfo :=
  match t.cmds.findSome? fun k => match k.kind with
      | .step arr mop _ _ _ _ _ _ _ _ _ _ => if k.up && k.late then some (missingTval arr mop k.start) else none
      | _ => none with
  | some v => some { code := .timing, tval := v, bus := 0xFF }
  | none => if t.cmds.any fun k => k.strict && k.late && k.due < t.sq.tau then some { code := .timing, tval := 0, bus := 0xFF } else none

/-- The commands once that TIMING has been delivered: the step is discarded (R194); a strict command is strict no longer (R176). -/
def settleLate (t : Task) : Task :=
  { t with cmds := (t.cmds.filter fun k => !(k.up && k.late && !k.fetched)).map fun k =>
      if k.late && k.due < t.sq.tau then { k with strict := false } else k }

/-! ### What passes at the start of a τ -/

/-- The rows that an MSTR or MOP in progress reads before τ `upto`, beyond those it has read (R193, R195). -/
def stepReads (lm : Sparse 8) (upto : Nat) (c : Cmd) : List Byte :=
  match c.kind with
  | .step _ mop _ _ rows a sa g sg af wf r =>
    if !c.up || upto ≤ c.start then []
    else
      let size := 64 * mxElem af + (if mop then 64 * mxElem wf else 0)
      let m0 := c.data.length / size
      let m1 := min rows (r * (upto - c.start))
      ((List.range m1).filter fun m => m0 ≤ m).flatMap fun m =>
        readBytes lm (a + m * sa) (64 * mxElem af) ++ (if mop then readBytes lm (g + m * sg) (64 * mxElem wf) else [])
  | _ => []

/-- What a command reads of LOCAL at the start of the τ before `upto` (R175, R189, R193). -/
def captureCmd (lm : Sparse 8) (upto : Nat) (c : Cmd) : Cmd :=
  let due := c.gt.isNone && c.data = [] && c.due < upto
  match c.kind with
  | .copy .local _ sa _ sl _ _ => if due then { c with data := readRanges lm (layoutRanges sa sl) } else c
  | .mlw _ .local sa str _ wf => if due then { c with data := readRanges lm (blockRanges sa.toNat str wf) } else c
  | .step .. => { c with data := c.data ++ stepReads lm upto c }
  | _ => c

/-- The commands of a task read what the τ up to, not including, `upto` let them read, from scratchpad as it stood. -/
def captureAll (lm : Sparse 8) (upto : Nat) (t : Task) : Task := { t with cmds := t.cmds.map (captureCmd lm upto) }

/-! ### Writes of the array -/

/-- Put consecutive values into a map from a key upward. -/
def sput {w : Nat} (m : Sparse w) (k : Nat) : List (BitVec w) → Sparse w
  | [] => m
  | x :: xs => sput (sset m k x) (k + 1) xs

/-- A cell as a plane holds it (R183, R284): element, D2P8 scale, format. -/
def cellWord (wf : Format) (x scale : Nat) : BitVec 32 :=
  BitVec.ofNat 32 (x + (if wf = .d2p8 then 256 * scale else 0) + 2 ^ 24 * formatCode wf)

/-- The cell (k, n) that an MLW's block gives (R189). -/
def blockCell (wf : Format) (tr : Bool) (bs : List Byte) (k n : Nat) : BitVec 32 :=
  let e := mxElem wf
  let i := if tr then n else k
  let j := if tr then k else n
  cellWord wf (leNat ((bs.drop ((64 * i + j) * e)).take e)) (bs.getD (4096 + 2 * i + j / 32) 0).toNat

/-- A plane from an MLW's block (R189). -/
def blockPlane (wf : Format) (tr : Bool) (bs : List Byte) : Sparse 32 :=
  sput [] 0 ((List.range 64).flatMap fun k => (List.range 64).map fun n => blockCell wf tr bs k n)

/-- MLW_WRITE (R189): every cell of the shadow plane at the end of the due τ. -/
def execMlwWrite (k : Nat) (s : State) : Host.Outcome State Fault Refusal :=
  match s.cmd? k with
  | none => .next s
  | some c =>
    match c.kind with
    | .mlw arr _ _ _ tr wf =>
      if !c.over s.task.sq.tau || c.late then .next s
      else .next (s.mapTask fun t =>
        (t.mapMx arr fun m => m.setPlane (!m.act) (blockPlane wf tr c.data)).dropCmd k)
    | _ => .next s

/-- MSWP_INVERT (R190): ACT is inverted at the end of the swap τ. -/
def execMswpInvert (k : Nat) (s : State) : Host.Outcome State Fault Refusal :=
  match s.cmd? k with
  | none => .next s
  | some c =>
    match c.kind with
    | .mswp arr =>
      if s.task.sq.tau ≤ c.due then .next s
      else .next (s.mapTask fun t => (t.mapMx arr fun m => { m with act := !m.act }).dropCmd k)
    | _ => .next s

/-- The exact value of a plane's cell (R75, R183). -/
def cellVal (c : BitVec 32) : XVal :=
  match formatOf (c.extractLsb' 24 3).toNat with
  | .d2p8 => xOfD2 (c.extractLsb' 0 8) (c.extractLsb' 8 8)
  | f => xOf f (c.extractLsb' 0 16).toNat

/-- The values of a row of 64 elements. -/
def rowVals (f : Format) (bs : List Byte) : List XVal := (groupsOf (mxElem f) 64 bs).map fun e => xOf f (leNat e)

/-- Add group sums to an accumulator in order (R73, R74). -/
def addGroups (gs : List (List Prod)) (acc : Lane) : Lane × Flags :=
  gs.foldl (fun (p : Lane × Flags) g =>
    let s := groupSum g
    let r := fpAdd .rne p.1 s.1
    (r.1, (p.2.or s.2).or r.2)) (acc, Flags.none)

/-- Cut a list into groups of 32. -/
def groups32 {α : Type} (l : List α) : List (List α) := (groupsOf 32 ((l.length + 31) / 32) l)

/-- An element of a step's result (R193, R195). -/
def stepElem (addTo : Bool) (old : Lane) (ps : List Prod) : Lane × Flags :=
  addGroups (groups32 ps) (if addTo then old else 0x80000000)

/-- The products of element (m, n) of a step, in ascending K or batch row. -/
def stepProds (mop : Bool) (rows : Nat) (xs ws : List (List XVal)) (m n : Nat) : List Prod :=
  let zero : XVal := xOf .fp32 0
  if mop then (List.range rows).map fun b => xMul ((xs.getD b []).getD m zero) ((ws.getD b []).getD n zero)
  else (List.range 64).map fun k => xMul ((xs.getD m []).getD k zero) ((ws.getD k []).getD n zero)

/-- The values of a plane by row. -/
def planeVals (p : Sparse 32) : List (List XVal) :=
  (List.range 64).map fun k => (List.range 64).map fun n => cellVal (sget p (64 * k + n))

/-- A tile and its flags after a step (R193, R195). -/
def stepTile (mop addTo : Bool) (rows : Nat) (xs ws : List (List XVal)) (t : Sparse 32) (f : TileFlags) :
    Sparse 32 × TileFlags :=
  let count := if mop then 64 else rows
  (List.range count).foldl (fun p m => (List.range 64).foldl (fun (p : Sparse 32 × TileFlags) n =>
    let r := stepElem addTo (sget t (64 * m + n)) (stepProds mop rows xs ws m n)
    (sset p.1 (64 * m + n) r.1, ⟨p.2.nv || r.2.nv, p.2.ovf || r.2.ovf⟩)) p) (t, f)

/-- The streamed rows and, for MOP, the second operand's rows, from the bytes a step has read. -/
def streamed (mop : Bool) (rows : Nat) (af wf : Format) (bs : List Byte) : List (List XVal) × List (List XVal) :=
  let na := 64 * mxElem af
  let nw := if mop then 64 * mxElem wf else 0
  let rs := groupsOf (na + nw) rows bs
  (rs.map fun r => rowVals af (r.take na), rs.map fun r => if mop then rowVals wf (r.drop na) else [])

/-- ARRAY_STEP_COMPLETE (R193, R195): a step writes its tile and the tile's flags at the end of its completion τ. -/
def execArrayStepComplete (k : Nat) (s : State) : Host.Outcome State Fault Refusal :=
  match s.cmd? k with
  | none => .next s
  | some c =>
    match c.kind with
    | .step arr mop tile acc rows _ _ _ _ af wf _ =>
      if !c.over s.task.sq.tau || c.late then .next s
      else .next (s.mapTask fun t => (t.mapMx arr fun m =>
        let st := streamed mop rows af wf c.data
        let ws := if mop then st.2 else planeVals c.cells
        let r := stepTile mop acc rows st.1 ws (m.tile tile) (m.tflags tile)
        { m.setTile tile r.1 r.2 with done := c.due }).dropCmd k)
    | _ => .next s

/-! ### MRD -/

/-- MRD's control word (R196). -/
structure MrdCtl where
  satb : Bool
  ofmt : Format
  dm   : Bool
  vr   : Nat
  row0 : Nat
  nr   : Nat
  tile : Nat
  deriving DecidableEq, Repr

/-- Read MRD's control word and make the ILLEGAL checks of R196 on it. -/
def mrdCtl (v a b : Word) : Option MrdCtl :=
  let dm := v.getLsbD 19
  let row0 := (v.extractLsb' 8 6).toNat
  let nr := (v.extractLsb' 1 7).toNat
  if !highZero v 24 || (!dm && (!highZero a 21 || !highZero b 21)) || v.extractLsb' 20 3 = 7 || nr = 0 || 64 < row0 + nr
      || (dm && 2 < nr) then none
  else some { satb := v.getLsbD 23, ofmt := formatOf (v.extractLsb' 20 3).toNat, dm := dm,
              vr := (v.extractLsb' 14 5).toNat, row0 := row0, nr := nr, tile := (v.extractLsb' 0 1).toNat }

/-- One element that MRD drains (R197). -/
def mrdElem (oscale : Lane) (f : Format) (satb : Bool) (x : Lane) : Lane × Flags :=
  let v := fpMul .rne x oscale
  if f = .fp32 then v
  else
    let r := cvt v.1 .fp32 f .rne satb
    (r.1, v.2.or r.2)

/-- The rows MRD drains, by element, with their flags. -/
def mrdRows (m : MxArray) (w : MrdCtl) : List (Lane × Flags) :=
  (List.range (64 * w.nr)).map fun i => mrdElem m.oscale w.ofmt w.satb (sget (m.tile w.tile) (64 * w.row0 + i))

/-- A value of format `f` as a lane holds it (R119): INT8 carries its sign. -/
def laneOf (f : Format) (x : Lane) : Lane := if f = .int8 then (x.setWidth 8).signExtend 32 else x

/-- The checks on a scratchpad destination (R196). -/
def mrdDest (t : Task) (base str n nr : Nat) : Option (FaultCode × Word) :=
  let rs := (List.range nr).map fun i => (base + i * str, n)
  if base % 64 ≠ 0 || str % 64 ≠ 0 then some (.alignLocal, BitVec.ofNat 64 base)
  else match rowsFault t rs with
    | some f => some f
    | none => if rs.any fun r => hitsControl t r.1 r.2 then some (.queue, 0) else none

/-- MRD (R196, R197). -/
def trigMrd (arr : Nat) (c : Trig) (a : Acc) : Except Halt Acc :=
  let b := mxBase arr
  match mrdCtl c.val (c.opA b) (c.opB b) with
  | none => c.fault .illegal 0
  | some w =>
    let n := fsize w.ofmt
    let base := (c.opA b).toNat
    let str := (c.opB b).toNat
    c.check (if w.dm then none else mrdDest c.t base str (64 * n) w.nr)
      (let m := c.t.mx arr
       let es := mrdRows m w
       let tf := m.tflags w.tile
       let fl := es.foldl (fun f e => f.or e.2) { Flags.none with nv := tf.nv, ovf := tf.ovf }
       let rows := groupsOf 64 w.nr (es.map Prod.fst)
       let writes := if w.dm then [] else (rows.zip (List.range w.nr)).flatMap fun r =>
         atAddr (base + r.2 * str) (r.1.flatMap fun x => natLe n x.toNat)
       let lanes := if w.dm then (es.zip (List.range es.length)).map fun x =>
         (128 * w.vr + x.2, laneOf w.ofmt x.1.1) else []
       let tau := c.t.sq.tau
       enqueueCmd c a { Cmd.make a.st.task (.mrd arr) tau (tau + 3) with
         up := true, writes := writes, lanes := lanes, flags := fl })

/-- Perform the writes that a command has formed, with its flags. -/
def performFormed (t : Task) (c : Cmd) : Task :=
  ({ t with lmem := ssetMany t.lmem c.writes, vregs := ssetMany t.vregs c.lanes }.addFlags c.flags).dropCmd c.id

/-- The keys of what a command has formed (R229). -/
def Cmd.formedKeys (c : Cmd) : List Nat := c.writes.map (fun w => byteKey w.1) ++ c.lanes.map fun x => laneKey 0 x.1

/-- MRD_WRITE (R197): the destination writes at the end of τ t + 3. -/
def execMrdWrite (k : Nat) (s : State) : Host.Outcome State Fault Refusal :=
  match s.cmd? k with
  | none => .next s
  | some c =>
    match c.kind with
    | .mrd _ => if c.over s.task.sq.tau then .next (((s.mapTask fun t => performFormed t c).forget c.formedKeys).chargeCmd c) else .next s
    | _ => .next s

end Sys2Proof.Machine
end

