-- ==== Sys2Proof/Machine/Witness.lean ====
section
/-! DEFINITION. The witness unit (12_witness.md): tags, descriptors, the reductions WMAX, WMIN, WMED, WCLMP and WSSUM, and
adjoint routing. -/

namespace Sys2Proof.Machine

/-! ### Generation tags -/

/-- A tag is live (R241). Tag 0 never is: its generation, 0, is never that of an allocated slot. -/
def Task.tagLive (t : Task) (tag : BitVec 16) : Bool :=
  let i := (tag.extractLsb' 0 8).toNat
  tag ≠ 0 && t.tagOn.getLsbD i && sget t.tagGen i = tag.extractLsb' 8 8

/-- The task after WTAG, with the tag (R241). -/
def Task.newTag (t : Task) : Task × BitVec 16 :=
  match (List.range 256).find? fun i => !t.tagOn.getLsbD i with
  | none => (t, 0)
  | some i =>
    let g : BitVec 8 := BitVec.ofNat 8 ((sget t.tagGen i).toNat % 255 + 1)
    ({ t with tagOn := t.tagOn ||| BitVec.twoPow 256 i, tagGen := sset t.tagGen i g }, g ++ BitVec.ofNat 8 i)

/-- The task after a release of a live tag (R242). -/
def Task.freeTag (t : Task) (tag : BitVec 16) : Task :=
  { t with tagOn := t.tagOn &&& ~~~ (BitVec.twoPow 256 (tag.extractLsb' 0 8).toNat) }

/-- WTAG (R241). -/
def trigWtag (_c : Trig) (a : Acc) : Except Halt Acc :=
  let r := a.st.task.newTag
  .ok ((a.mapTask fun _ => r.1).result 1 643 (r.2.setWidth 64) Flags.none)

/-- WREL (R242). -/
def trigWrel (c : Trig) (a : Acc) : Except Halt Acc :=
  let tag := c.val.setWidth 16
  if !highZero c.val 16 then c.fault .illegal 0
  else if c.t.tagLive tag then .ok ((a.mapTask fun t => t.freeTag tag).result 1 643 1 Flags.none)
  else .ok (a.result 1 643 0 Flags.none)

/-! ### Descriptors -/

/-- A tile descriptor (R239). `spare` tells that bytes 5 to 7, 18 to 19 and 28 to 63 are 0. -/
structure Tile where
  tag   : BitVec 16
  kind  : Nat
  tie   : Nat
  prod  : Nat
  rows  : Nat
  il    : Nat
  nc    : Nat
  w     : Nat
  s     : Nat
  xs    : Nat
  ys    : Nat
  spare : Bool
  deriving DecidableEq, Repr

/-- Read a descriptor. -/
def readTile (m : Sparse 8) (d : Nat) : Tile :=
  { tag := BitVec.ofNat 16 (readLe m d 2), kind := readLe m (d + 2) 1, tie := readLe m (d + 3) 1,
    prod := readLe m (d + 4) 1, rows := readLe m (d + 8) 2, il := readLe m (d + 10) 2, nc := readLe m (d + 12) 2,
    w := readLe m (d + 14) 2, s := readLe m (d + 16) 2, xs := readLe m (d + 20) 4, ys := readLe m (d + 24) 4,
    spare := readLe m (d + 5) 3 = 0 && readLe m (d + 18) 2 = 0 && readLe m (d + 28) 36 = 0 }

/-- The conditions of R240 that do not depend on kind and rule. -/
def Tile.shapeOk (d : Tile) : Bool :=
  d.spare && 1 ≤ d.rows && d.rows ≤ 64 && 1 ≤ d.il && d.il ≤ 4096 && 1 ≤ d.nc && d.nc ≤ 4096 && 1 ≤ d.w && d.w ≤ 256
    && 1 ≤ d.s && d.s ≤ 256 && (d.nc - 1) * d.s + d.w ≤ d.il && d.rows * d.nc ≤ 16384 && d.xs % 4 = 0 && d.ys % 4 = 0

/-- The conditions of R240 for a kind and a rule. -/
def Tile.kindOk (d : Tile) (kind tie : Nat) : Bool :=
  (kind ≠ 4 || (d.w = 1 && d.s = 1 && d.il = d.nc)) && (tie ≠ 1 || d.w ≤ 16)

/-- Rows of `n` bytes with a stride. -/
def rowsAt (base str n rows : Nat) : List (Nat × Nat) := (List.range rows).map fun r => (base + r * str, n)

/-- The elements of a tile at D. -/
def Tile.elems (d : Tile) (at_ : Nat) : Nat × Nat := (at_ + 64, 4 * d.rows * d.nc)

/-! ### Checks -/

/-- Step 2 of R245. -/
def witBase (t : Task) (d x y : Nat) : Option (FaultCode × Word) :=
  if d % 64 ≠ 0 then some (.alignLocal, BitVec.ofNat 64 d)
  else if x % 4 ≠ 0 then some (.alignLocal, BitVec.ofNat 64 x)
  else if y % 4 ≠ 0 then some (.alignLocal, BitVec.ofNat 64 y)
  else localFault t (BitVec.ofNat 64 d) 64 1

/-- A range of written bytes overlaps a bound control word (step 7). -/
def writesControl (t : Task) (rs : List (Nat × Nat)) : Bool := rs.any fun r => hitsControl t r.1 r.2

/-- Eight reductions and ADJBs are pending (R236). -/
def witFull (t : Task) : Bool := 8 ≤ (t.cmds.filter fun c => c.kind = .wit || c.kind = .adjb).length

/-- The completion τ of a tile's operation (R236). -/
def witDone (t : Task) (d : Tile) : Nat := t.sq.tau + 4 + (d.rows * d.il + 63) / 64

/-! ### Reductions -/

/-- Insert by the order of R128. -/
def insertOrder (x : Lane) : List Lane → List Lane
  | [] => [x]
  | y :: ys => if orderKey x ≤ orderKey y then x :: y :: ys else y :: insertOrder x ys

/-- The value at a rank of a list sorted ascending. -/
def atRank (xs : List Lane) (rank : Nat) : Lane := (xs.foldr insertOrder []).getD rank 0

/-- The index of the first element that satisfies a condition. -/
def firstIdx (xs : List Lane) (p : Lane → Bool) : Nat := (xs.takeWhile fun x => !p x).length

/-- The bits of the elements that satisfy a condition. -/
def maskOf (xs : List Lane) (p : Lane → Bool) : Nat := (xs.foldr (fun x n => 2 * n + (if p x then 1 else 0)) 0)

/-- A result and its witness element of WMAX, WMIN or WMED (R238, R246). -/
def pickOne (kind : Nat) (cs : List Lane) : Lane × Nat :=
  let w := cs.length
  if cs.any isNan32 then
    let q := firstIdx cs isNan32
    (quiet (cs.getD q 0), kind * 2 ^ 28 + q * 2 ^ 16 + (if w ≤ 16 then 2 ^ q else 0))
  else
    let rank := if kind = 1 then w - 1 else if kind = 2 then 0 else (w - 1) / 2
    let y := atRank cs rank
    let ties := (cs.filter (· = y)).length
    (y, kind * 2 ^ 28 + (if 2 ≤ ties then 2 ^ 27 else 0) + firstIdx cs (· = y) * 2 ^ 16
          + (if w ≤ 16 then maskOf cs (· = y) else 0))

/-- A result and its class element of WCLMP or WSSUM on a value (R246): `lowCls` and `highCls` are the classes of a value
below and above. -/
def clampOne (kind lowCls highCls : Nat) (lo hi x : Lane) : Lane × Nat :=
  if isNan32 x then (quiet x, kind * 2 ^ 28)
  else if orderKey x < orderKey lo then (lo, kind * 2 ^ 28 + lowCls)
  else if orderKey hi < orderKey x then (hi, kind * 2 ^ 28 + highCls)
  else (x, kind * 2 ^ 28)

/-- The ascending sum of the contributors, with its flags (R246). -/
def sumOne (cs : List Lane) : Lane × Flags :=
  match cs with
  | [] => (0, Flags.none)
  | c :: rest => rest.foldl (fun (p : Lane × Flags) x =>
      let r := fpAdd .rne p.1 x
      (r.1, p.2.or r.2)) (c, Flags.none)

/-- One result, its element and its flags (R246). -/
def reduceOne (kind : Nat) (lo hi : Lane) (cs : List Lane) : Lane × Nat × Flags :=
  if kind ≤ 3 then
    let r := pickOne kind cs
    (r.1, r.2, Flags.none)
  else if kind = 4 then
    let r := clampOne 4 1 2 lo hi (cs.headD 0)
    (r.1, r.2, Flags.none)
  else
    let s := sumOne cs
    let r := clampOne 5 2 1 lo hi s.1
    (r.1, r.2, s.2)

/-- The results of a row. -/
def reduceRow (kind : Nat) (lo hi : Lane) (d : Tile) (xs : List Lane) : List (Lane × Nat × Flags) :=
  (List.range d.nc).map fun j => reduceOne kind lo hi ((xs.drop (j * d.s)).take d.w)

/-- The writes of a reduction in order (R247): result rows, elements, descriptor bytes 0 through 4. -/
def reduceWrites (kind tie : Nat) (tag : BitVec 16) (d : Tile) (at_ y : Nat) (rs : List (List (Lane × Nat × Flags))) :
    List (Nat × Byte) :=
  ((rs.zip (List.range rs.length)).flatMap fun r => atAddr (y + r.2 * d.ys) (bytesOfLanes (r.1.map fun e => e.1)))
    ++ atAddr (at_ + 64) (rs.flatMap fun r => r.flatMap fun e => natLe 4 e.2.1)
    ++ atAddr at_ (natLe 2 tag.toNat ++ natLe 1 kind ++ natLe 1 tie ++ natLe 1 0)

/-- The flags of a reduction. -/
def reduceFlags (rs : List (List (Lane × Nat × Flags))) : Flags :=
  rs.foldl (fun f r => r.foldl (fun f e => f.or e.2.2) f) Flags.none

/-- Steps 4 to 7 of R245 over the bytes read and written, the tag's check among them. -/
def witAccess (t : Task) (checked reads writes : List (Nat × Nat)) (stale : Option Word) (shape : Bool) :
    Option (FaultCode × Word) :=
  match rowsFault t checked with
  | some f => some f
  | none =>
    match stale with
    | some tag => some (.witnessStale, tag)
    | none =>
      if !shape then some (.alignShape, 0)
      else match rowsEarly t reads with
        | some f => some f
        | none => if writesControl t writes then some (.queue, 0) else none

/-- A bound pair that WCLMP and WSSUM refuse (R245). -/
def badBounds (lo hi : Lane) : Bool := isNan32 lo || isNan32 hi || orderKey hi < orderKey lo

/-- WMAX, WMIN, WMED, WCLMP and WSSUM, by kind 1 to 5 (R244 to R247). -/
def trigReduce (kind : Nat) (c : Trig) (a : Acc) : Except Halt Acc :=
  let pa := c.opA 640
  let pc := c.opC 640
  let tie := if c.val.getLsbD 21 then 1 else 0
  let x := (pa.extractLsb' 0 21).toNat
  let y := (pa.extractLsb' 21 21).toNat
  let at_ := (c.val.extractLsb' 0 21).toNat
  let lo := (c.opB 640).extractLsb' 0 32
  let hi := (c.opB 640).extractLsb' 32 32
  if !highZero pa 42 || !highZero pc 16 || !highZero c.val 22 || (4 ≤ kind && tie = 1) then c.fault .illegal 0
  else
    c.check (witBase c.t at_ x y)
      (let d := readTile c.t.lmem at_
       if !d.shapeOk || !d.kindOk kind tie then c.fault .alignShape 0
       else
         let tag := pc.setWidth 16
         let ins := rowsAt x d.xs (4 * d.il) d.rows
         let outs := rowsAt y d.ys (4 * d.nc) d.rows
         let els := d.elems at_
         let stale := if c.t.tagLive tag then none else some pc
         c.check (witAccess c.t (ins ++ outs ++ [els]) ((at_, 64) :: ins) (outs ++ [els, (at_, 5)]) stale true)
           (if 4 ≤ kind && badBounds lo hi then .ok a.refuse
            else if witFull c.t then c.fault .timing 0
            else
              let rs := ins.map fun r => reduceRow kind lo hi d (lanesOf (readBytes c.t.lmem r.1 r.2))
              let due := witDone c.t d
              match enqueueCmd c a { Cmd.make a.st.task .wit c.t.sq.tau due with
                up := true, writes := reduceWrites kind tie tag d at_ y rs, flags := reduceFlags rs } with
              | .error h => .error h
              | .ok a1 => .ok (a1.result 1 643 (BitVec.ofNat 64 due) Flags.none)))

/-! ### ADJB -/

/-- The gradient's equal share (R249). -/
def shareOf (g : Lane) (n : Nat) : Lane :=
  match unpack .fp32 g.toNat with
  | .fin s m e =>
    let k := 2 ^ 32 * m
    BitVec.ofNat 32 (roundTo .fp32 .rne false s (k / n) (e - 32) (k % n ≠ 0)).1
  | _ => g

/-- The contributors that a witness element routes a gradient to; `none` when the element is malformed (R249). -/
def route (kind tie w : Nat) (el : BitVec 32) (g : Lane) : Option (List (Nat × Lane)) :=
  let m := (el.extractLsb' 0 16).toNat
  let idx := (el.extractLsb' 16 8).toNat
  let tied := el.getLsbD 27
  if (el.extractLsb' 28 4).toNat ≠ kind || el.extractLsb' 24 3 ≠ 0 || w ≤ idx then none
  else if kind ≤ 3 then
    if (w ≤ 16 && 2 ^ w ≤ m) || (tie = 1 && tied && m = 0) then none
    else if tie = 0 || !tied then some [(idx, g)]
    else
      let is_ := (List.range 16).filter fun i => m.testBit i
      some (is_.map fun i => (i, shareOf g is_.length))
  else if tied || idx ≠ 0 || 4 ≤ m || m % 4 = 3 then none
  else
    let v : Lane := if m % 4 = 0 then g else 0
    if kind = 4 then some [(0, v)] else some ((List.range w).map fun i => (i, v))

/-- A destination row under construction: values by index, indices hit, flags. -/
structure Dest where
  acc : Sparse 32
  hit : List Nat
  fl  : Flags
  deriving DecidableEq, Repr

/-- Route one contribution (R249). -/
def addRouted (accum : Bool) (base : Nat) (d : Dest) (x : Nat × Lane) : Dest :=
  let p := base + x.1
  if !accum && !d.hit.contains p then { d with acc := sset d.acc p x.2, hit := p :: d.hit }
  else
    let r := fpAdd .rne (sget d.acc p) x.2
    { acc := sset d.acc p r.1, hit := if d.hit.contains p then d.hit else p :: d.hit, fl := d.fl.or r.2 }

/-- One destination row (R249). -/
def routeRow (accum : Bool) (t : Tile) (els : List (BitVec 32)) (gs dx : List Lane) : List Lane × Flags :=
  let d0 : Dest := { acc := if accum then sput [] 0 dx else [], hit := [], fl := Flags.none }
  let d := (List.range t.nc).foldl (fun (d : Dest) (j : Nat) =>
    match route t.kind t.tie t.w (els.getD j 0) (gs.getD j 0) with
    | none => { d with fl := d.fl.or flagNv }
    | some xs => xs.foldl (addRouted accum (j * t.s)) d) d0
  ((List.range t.il).map fun p => sget d.acc p, d.fl)

/-- KIND, TIE and PROD of a descriptor are as ADJB needs them (R248). -/
def Tile.adjOk (d : Tile) : Bool :=
  1 ≤ d.kind && d.kind ≤ 5 && d.tie ≤ 1 && (d.kind ≤ 3 || d.tie = 0) && d.prod = 0 && d.kindOk d.kind d.tie

/-- ADJB (R248, R249). -/
def trigAdjb (c : Trig) (a : Acc) : Except Halt Acc :=
  let pa := c.opA 640
  let g := (pa.extractLsb' 0 21).toNat
  let dx := (pa.extractLsb' 21 21).toNat
  let at_ := (c.val.extractLsb' 0 21).toNat
  let accum := c.val.getLsbD 21
  if !highZero pa 42 || !highZero c.val 22 then c.fault .illegal 0
  else
    c.check (witBase c.t at_ g dx)
      (let d := readTile c.t.lmem at_
       if !d.shapeOk then c.fault .alignShape 0
       else
         let els := d.elems at_
         let gs := rowsAt g d.ys (4 * d.nc) d.rows
         let dxs := rowsAt dx d.xs (4 * d.il) d.rows
         let stale := if c.t.tagLive d.tag then none else some (d.tag.setWidth 64)
         c.check (witAccess c.t (els :: (gs ++ dxs)) ((at_, 64) :: els :: (gs ++ (if accum then dxs else []))) dxs stale d.adjOk)
           (if witFull c.t then c.fault .timing 0
            else
              let lm := c.t.lmem
              let rows := (List.range d.rows).map fun r =>
                routeRow accum d (lanesOf (readBytes lm (at_ + 64 + 4 * d.nc * r) (4 * d.nc)))
                  (lanesOf (readBytes lm (g + r * d.ys) (4 * d.nc))) (lanesOf (readBytes lm (dx + r * d.xs) (4 * d.il)))
              let writes := (rows.zip (List.range d.rows)).flatMap fun r => atAddr (dx + r.2 * d.xs) (bytesOfLanes r.1.1)
              let due := witDone c.t d
              match enqueueCmd c a { Cmd.make a.st.task .adjb c.t.sq.tau due with
                up := true, writes := writes, flags := rows.foldl (fun f r => f.or r.2) Flags.none } with
              | .error h => .error h
              | .ok a1 => .ok (a1.result 1 643 (BitVec.ofNat 64 due) Flags.none)))

/-- WITNESS_COMPLETE (R246, R247): results, elements and descriptor bytes at the end of τ c. -/
def execWitnessComplete (k : Nat) (s : State) : Host.Outcome State Fault Refusal :=
  match s.cmd? k with
  | none => .next s
  | some c => if c.kind = .wit && c.over s.task.sq.tau then .next (((s.mapTask fun t => performFormed t c).forget c.formedKeys).chargeCmd c) else .next s

/-- ADJB_COMPLETE (R249): the destination rows at the end of τ c. -/
def execAdjbComplete (k : Nat) (s : State) : Host.Outcome State Fault Refusal :=
  match s.cmd? k with
  | none => .next s
  | some c => if c.kind = .adjb && c.over s.task.sq.tau then .next (((s.mapTask fun t => performFormed t c).forget c.formedKeys).chargeCmd c) else .next s

end Sys2Proof.Machine
end

