-- ==== Sys2Proof/Machine/DeviceMem.lean ====
section
/-! DEFINITION. The mem unit (R220 to R226) in both layers: LDG, STG, PREF, ATOM, FENCE; and the steps in which data
arrives, atomics are performed and writes are applied (R221, R225, R228, R230). -/

namespace Sys2Proof.Machine

/-- An access is checked (R212) and, when it passes, done with its DPA; TVAL is the address. An aligned one waits while its walk meets a
line that no access can use (R299). -/
def Trig.access (c : Trig) (va : Word) (align : Nat) (k : Access) (f : Nat → Except Halt Acc) : Except Halt Acc :=
  if va.toNat % align ≠ 0 then c.fault .alignLocal va
  else c.walkWait [(va.toNat, 1)] (match coreAccess c.s0 va align k with
    | .error e => c.fault e va
    | .ok d => f d)

/-- Issue a load-type access (R221): the destination entry becomes pending; a 33rd outstanding access waits, and so does
one whose destination is pending. -/
def loadIssue (c : Trig) (a : Acc) (va : Word) (d : Nat) (r : LoadReq) : Except Halt Acc :=
  let dest := sregAt c.t.fr.fb d
  if 32 ≤ c.t.loads.length || (d ≠ 0 && c.t.pending dest) then .error (.wait .load)
  else .ok ((a.mapSt fun s => s.fillTlb c.s0.tick va).mapTask fun t =>
    { t with loads := t.loads ++ [{ r with id := t.nextCmd, dest := if d = 0 then none else some dest, mark := c.s0.mem.nextW }],
             nextCmd := t.nextCmd + 1 })

/-- A plain load's request; `deps` are the writes in flight that its address was read from (R229). -/
def ldgReq (dpa hint : Nat) (deps : List Nat) : LoadReq :=
  { id := 0, dest := none, dpa := dpa, size := 8, hint := hint, atom := none, b := 0, cmp := 0, old := none, mark := 0, deps := deps }

/-- LDG of an address to register `d` (R222). -/
def doLdg (c : Trig) (a : Acc) (hint d : Nat) (deps : List Nat) (va : Word) : Except Halt Acc :=
  c.access va 8 .read fun dpa => loadIssue c a va d (ldgReq dpa hint deps)

/-- LDG natively. -/
def trigLdg (hint : Nat) (c : Trig) (a : Acc) : Except Halt Acc :=
  if !highZero (c.opB 448) 5 then .ok a.refuse else doLdg c a hint (c.opB 448).toNat (c.operandIds 448) (c.opA 448 + c.val)

/-- The address of form MG (R222). -/
def slotEaG (t : Task) (b : BitVec 5) (i : BitVec 9) : Word := t.sreg b.toNat + i.signExtend 64 * 8

/-- LDG of Peman. -/
def slotLdg (g : Gd) (d b : BitVec 5) (r : BitVec 2) (i : BitVec 9) : Slot :=
  { gd := g, regs := [d.toNat, b.toNat], run := fun c a => doLdg c a r.toNat d.toNat (c.regIds [b.toNat]) (slotEaG c.t b i) }

/-- STG of a value (R223). -/
def doStg (c : Trig) (a : Acc) (deps : List Nat) (va v : Word) : Except Halt Acc :=
  c.access va 8 .write fun dpa =>
    .ok (a.mapSt fun s => storeDevice (s.fillTlb c.s0.tick va) s.cur.uid deps (atAddr dpa (natLe 8 v.toNat)))

/-- STG natively. -/
def trigStg (c : Trig) (a : Acc) : Except Halt Acc := doStg c a (c.operandIds 448) (c.opA 448 + c.val) (c.opB 448)

/-- STG of Peman. -/
def slotStg (g : Gd) (d b : BitVec 5) (i : BitVec 9) : Slot :=
  { gd := g, regs := [d.toNat, b.toNat], run := fun c a => doStg c a (c.regIds [d.toNat, b.toNat]) (slotEaG c.t b i) (c.t.sreg d.toNat) }

/-- A line is brought toward a die (R224): where it cannot be read now, or what precedes its content has not reached the die, it does
not come (R230, R299). -/
def prefetch (s : State) (dpa hint : Nat) : State :=
  let die := coreDie s.cur.core
  if s.mem.blocked die dpa || !fetchOk s.mem die (dpa / 128) then s
  else { s with mem := bringLines s.health s.mem s.cur (some hint) [(dpa, 1)] }

/-- PREF of an address (R224): a fault is dropped. -/
def doPref (c : Trig) (a : Acc) (hint : Nat) (va : Word) : Except Halt Acc :=
  c.walkWait [(va.toNat, 1)] (match coreAccess c.s0 va 1 .read with
    | .error _ => .ok a
    | .ok dpa => .ok (a.mapSt fun s => prefetch (s.fillTlb c.s0.tick va) dpa hint))

/-- PREF natively. -/
def trigPref (hint : Nat) (c : Trig) (a : Acc) : Except Halt Acc := doPref c a hint (c.opA 448 + c.val)

/-- PREF of Peman. -/
def slotPref (g : Gd) (b : BitVec 5) (r : BitVec 2) (i : BitVec 9) : Slot :=
  { gd := g, regs := [b.toNat], run := fun c a => doPref c a r.toNat (slotEaG c.t b i) }

/-- The size of an atomic's location (R225). -/
def atomSize (op : AtomOp) : Nat := if op = .fadd then 4 else 8

/-- ATOM of a location (R225). -/
def doAtom (c : Trig) (a : Acc) (op : AtomOp) (d : Nat) (deps : List Nat) (va b cmp : Word) : Except Halt Acc :=
  c.access va (atomSize op) .atomic fun dpa =>
    loadIssue c a va d { ldgReq dpa 1 deps with size := atomSize op, atom := some op, b := b, cmp := cmp }

/-- ATOM natively. -/
def trigAtom (op : AtomOp) (c : Trig) (a : Acc) : Except Halt Acc :=
  if !highZero (c.opB 448) 5 then .ok a.refuse
  else doAtom c a op (c.opB 448).toNat (c.operandIds 448) (c.opA 448) c.val (c.opC 448)

/-- ATOM of Peman. -/
def slotAtom (op : AtomOp) (g : Gd) (d a b : BitVec 5) : Slot :=
  { gd := g, regs := [d.toNat, a.toNat, b.toNat],
    run := fun c acc => doAtom c acc op d.toNat (c.regIds [d.toNat, a.toNat, b.toNat]) (c.t.sreg a.toNat) (c.t.sreg b.toNat) (c.t.sreg d.toNat) }

/-- The scope of a code (R226). -/
def scopeOf (n : Nat) : Scope :=
  match n with
  | 0 => .core
  | 1 => .die
  | 2 => .pkg
  | _ => .sys

/-- A task's earlier accesses are complete at a scope (R226). -/
def fenceReady (s : State) (sc : Scope) : Bool := s.task.loads.isEmpty && writesApplied s.mem s.cur sc

/-- FENCE (R226): the LIW does not issue before the earlier accesses are complete at the scope. -/
def trigFence (sc : Scope) (c : Trig) (a : Acc) : Except Halt Acc :=
  if fenceReady c.s0 sc then .ok (a.mapSt fun s => { s with cur := noteFence s.cur sc }) else .ok (a.hold (.fence sc))

/-- FENCE of Peman. -/
def slotFence (g : Gd) (sc : Scope) : Slot := { gd := g, regs := [], run := trigFence sc }

/-- The atomic of a trigger offset of the mem unit (R42). -/
def atomOf (off : Nat) : AtomOp :=
  match off with
  | 13 => .add
  | 14 => .min
  | 15 => .max
  | 16 => .or
  | 17 => .exch
  | 18 => .cas
  | _ => .fadd

/-- A trigger of the mem unit by its offset (R42, R220). -/
def trigMem (off : Nat) (c : Trig) (a : Acc) : Except Halt Acc :=
  if off ≤ 7 then trigLdg (off - 4) c a
  else if off = 8 then trigStg c a
  else if off ≤ 12 then trigPref (off - 9) c a
  else if off ≤ 19 then trigAtom (atomOf off) c a
  else trigFence (scopeOf (off - 20)) c a

/-! ### The memory system's steps -/

/-- No earlier access of the task to the location of an outstanding one is outstanding (R221, R229). -/
def loadFirst (u : QUnit) (r : LoadReq) : Bool := u.task.loads.all fun x => !(x.dpa / 8 = r.dpa / 8 && x.id < r.id)

/-- The data of an outstanding access may arrive (R221, R229, R230): of a load when its die can read the line, of an atomic once it
has been performed. -/
def loadReady (s : State) (u : QUnit) (r : LoadReq) : Bool :=
  loadFirst u r && (if r.atom.isSome then r.old.isSome else readReady s.mem u r.deps r.mark [(r.dpa, r.size)])

/-- An atomic may take its place at its home die (R225, R230): what precedes it is applied there, and the task's own earlier writes
to the location have theirs. -/
def atomReady (s : State) (u : QUnit) (r : LoadReq) : Bool :=
  let die := dpaDie r.dpa
  r.atom.isSome && r.old.isNone && loadFirst u r && !s.mem.blocked die r.dpa
    && (s.mem.writes.all fun w => !(w.uid = some u.uid && w.loc = r.dpa / 8 && w.id < r.mark) || w.homed.isSome)
    && (r.deps.all fun i => appliedAt s.mem i die)
    && u.fenced.all fun d => !scopeCovers d.2 (coreDie u.core) die || appliedAt s.mem d.1 die

/-- An outstanding access of the unit in focus. -/
def State.load? (s : State) (k : Nat) : Option LoadReq := if s.on then s.task.loads.find? fun r => r.id = k else none

/-- LOAD_ARRIVAL (R221): the data of an outstanding access arrives in its entry. A line that an injection has hurt as it entered an L2
stays there, and the access meets the error (R300). -/
def execLoadArrival (k : Nat) (s : State) : Host.Outcome State Fault Refusal :=
  match s.load? k with
  | none => .next s
  | some r =>
    if !loadReady s s.cur r then .next s
    else
      let m := s.fetched [(r.dpa, r.size)]
      .next (if r.atom.isNone && lineHurt m (coreDie s.cur.core) r.dpa then { s with mem := m } else arriveLoad s s.cur r)

/-- ATOM_PERFORM (R225): the read and write of an atomic, as one step at the home die. It reads its line and so meets an error that an
injection puts there (R300). -/
def execAtomPerform (k : Nat) (s : State) : Host.Outcome State Fault Refusal :=
  match s.load? k with
  | none => .next s
  | some r =>
    match r.atom with
    | some op =>
      let m := l2Touch s.health s.mem (dpaDie r.dpa) r.dpa none s.cur.ctx false
      if !atomReady s s.cur r then .next s
      else .next (if lineHurt m (dpaDie r.dpa) r.dpa then { s with mem := m } else performAtom s s.cur r op)
    | none => .next s

/-- WRITE_APPLY_HOME (R228): a write takes its place in home order at its home die. -/
def execWriteApplyHome (w : Nat) (s : State) : Host.Outcome State Fault Refusal :=
  match s.mem.writes.find? fun x => x.id = w with
  | none => .next s
  | some x => if s.homeReady x then .next { s with mem := applyHome s.health s.mem x } else .next s

/-- WRITE_APPLY_REMOTE (R230): a die applies a write once all that precedes it has been applied there. -/
def execWriteApplyRemote (w die : Nat) (s : State) : Host.Outcome State Fault Refusal :=
  match s.mem.writes.find? fun x => x.id = w with
  | none => .next s
  | some x => if remoteReady s.mem x die then .next { s with mem := applyAt s.mem x die } else .next s

end Sys2Proof.Machine
end

