-- ==== Sys2Proof/Machine/Work.lean ====
section
/-! DEFINITION. The work scheduler (14_work_scheduler.md): launch records and admission, placement, the instructions LAUNCH,
JOIN, CANCEL, CNTRD, CORID, YIELD and ENDT, and the packets of a context's command queue. -/

namespace Sys2Proof.Machine

/-! ### Launch records -/

/-- The healthy cores of a partition (R262). -/
def healthyCores (s : State) (c : Ctx) : Nat :=
  ((c.dies.flatMap fun d => (List.range 96).map fun i => 96 * d + i).filter fun k => !s.health.badCores.contains k).length

/-- The logical core count of a level (R262). -/
def logicalCores (s : State) (c : Ctx) : Level → Nat
  | .dl2 => 320
  | .dl1 => 96 * c.dies.length
  | .dl0 => healthyCores s c

/-- `n` bytes of a record from an offset, as a number. -/
def byteField (bs : List Byte) (o n : Nat) : Nat := leNat ((bs.drop o).take n)

/-- A launch as its record describes it (R256); handle, graph and place in the graph are still to come. -/
def recordLaunch (bs : List Byte) (va : Word) (inherit : Level) : Launch :=
  let fl := byteField bs 2 2
  let f : Nat → Nat → Nat := byteField bs
  { h := 0, graph := 0, entry := 0, preds := [], record := va, u := f 4 4, kdesc := BitVec.ofNat 64 (f 8 8), lid := f 16 4,
    est := f 20 4, seed := BitVec.ofNat 64 (f 24 8),
    foot := { tile := f 32 4, queue := f 36 4, wit := f 40 4, spill := f 44 4 },
    rset := BitVec.ofNat 96 (f 48 12), wset := BitVec.ofNat 96 (f 60 12),
    args := (List.range (f 72 1)).map fun i => BitVec.ofNat 64 (f (80 + 8 * i) 8),
    wl := fl.testBit 5, gang := fl.testBit 4, prio := fl / 4 % 4,
    level := if fl % 4 = 3 then inherit else levelOf (fl % 4),
    granted := none, boost := 0, reserve := false, placed := [], completed := 0, cancelled := 0, arrived := 0, barrier := [],
    counted := [], late := [], behind := [], taint := false, dead := false }

/-- A footprint keeps R148. -/
def Foot.ok (f : Foot) : Bool :=
  f.tile % 4096 = 0 && f.queue % 4096 = 0 && f.wit % 4096 = 0 && f.spill % 4096 = 0 && 4096 ≤ f.spill
    && f.size ≤ 2097152

/-- The checks of R257 on a record. -/
def checkRecord (s : State) (c : Ctx) (bs : List Byte) (va : Word) (inherit : Level) : Except FaultCode Launch :=
  let l := recordLaunch bs va inherit
  if byteField bs 0 2 ≠ 1 || 64 ≤ byteField bs 2 2 || byteField bs 73 7 ≠ 0 || l.u = 0 || 2 ^ 24 < l.u || 8 < byteField bs 72 1
      || (l.wset ≠ 0 && !l.wl) || l.wset &&& l.rset ≠ 0 then .error .illegal
  else if (c.desc? l.kdesc).isNone then .error .callSig
  else if !l.foot.ok || (l.gang && 4 * logicalCores s c l.level < l.u) then .error .launchFit
  else .ok l

/-! ### Creating objects -/

/-- Add a group to a list of a context's objects. -/
def newGroup (h parent after : Nat) (issued : Option Nat) (number cond : Word) (born : Nat) : Group :=
  { h := h, members := [], issued := issued, completed := 0, cancelled := 0, parent := parent, after := after,
    number := number, cond := cond, born := born, incomplete := false, met := [], ended := false, dead := false, counted := [] }

/-- Add a member to a group. -/
def Group.addMember (g : Group) (m : Nat) : Group := { g with members := g.members ++ [m] }

/-- Create a graph in a phase, 0 for none (R254, R255); with its handle. -/
def createGraph (c : Ctx) (phase after : Nat) (born : Nat) : Ctx × Nat :=
  let n := c.serials.2.1 + 1
  let h := mkHandle 1 n
  ({ c with graphs := c.graphs ++ [newGroup h phase after none 0 0 born],
            phases := mapGroup c.phases phase fun g => g.addMember h,
            serials := (c.serials.1, n, c.serials.2.2) }, h)

/-- Create a launch of a graph; with its handle. -/
def createLaunch (c : Ctx) (graph : Nat) (preds : List Nat) (l : Launch) : Ctx × Nat :=
  let n := c.serials.1 + 1
  let h := mkHandle 0 n
  let entry := match group? c.graphs graph with
    | some g => g.members.length
    | none => 0
  ({ c with launches := c.launches ++ [{ l with h := h, graph := graph, entry := entry, preds := preds }],
            graphs := mapGroup c.graphs graph fun g => g.addMember h,
            serials := (n, c.serials.2) }, h)

/-- Fix a graph's ISSUED at the launches it has (R254). -/
def closeGraph (c : Ctx) (graph : Nat) : Ctx :=
  { c with graphs := mapGroup c.graphs graph fun g => { g with issued := some g.members.length } }

/-- The objects that hold a launch, and the launch itself (R271). -/
def holders (c : Ctx) (h : Nat) : List Nat :=
  match c.launch? h with
  | none => [h]
  | some l =>
    match group? c.graphs l.graph with
    | none => [h, l.graph]
    | some g => match group? c.phases g.parent with
      | none => [h, l.graph, g.parent]
      | some p => [h, l.graph, g.parent, p.parent]

/-! ### Cancellation -/

/-- Cancel one launch (R272): unplaced units are counted cancelled, running ones are marked, one in trap is terminated. -/
def cancelLaunch (s : State) (cid h : Nat) : State :=
  match s.ctx? cid with
  | none => s
  | some c =>
    match c.launch? h with
    | none => s
    | some l =>
      if l.done || l.dead then s
      else
        let l' : Launch := { l with dead := true, cancelled := l.cancelled + (l.u - l.placed.length) }
        let s1 := s.mapCtx cid fun c => c.mapLaunch h fun _ => l'
        let s2 := if l'.done then { s1 with mem := releaseRegions s1.mem c.dies l' } else s1
        let mine := s2.units.filter fun u => u.ctx = cid && u.launch = h && u.kind = .user
        let s3 := mine.foldl (fun (s : State) (u : QUnit) =>
          if u.status = .trapped then terminate s u.uid false else s.mapUnit u.uid fun x => { x with cancel := true }) s2
        s3.settle cid

/-- Mark groups cancelled; an open one is closed as it stands. -/
def killGroups (gs : List Group) (hs : List Nat) : List Group :=
  gs.map fun g =>
    if hs.contains g.h then { g with dead := true, issued := some (g.issued.getD g.members.length) } else g

/-- The phases of an object. -/
def phasesUnder (c : Ctx) (h : Nat) : List Nat :=
  match handleLevel h with
  | 2 => [h]
  | 3 => match group? c.jobs h with
    | some j => j.members
    | none => []
  | _ => []

/-- The graphs of an object. -/
def graphsUnder (c : Ctx) (h : Nat) : List Nat :=
  if handleLevel h = 1 then [h]
  else (phasesUnder c h).flatMap fun p => match group? c.phases p with
    | some g => g.members
    | none => []

/-- The launches of an object. -/
def launchesUnder (c : Ctx) (h : Nat) : List Nat :=
  if handleLevel h = 0 then [h]
  else (graphsUnder c h).flatMap fun p => match group? c.graphs p with
    | some g => g.members
    | none => []

/-- Cancel an object (R272); one that is finished changes nothing. -/
def cancelObject (s : State) (cid h : Nat) : State :=
  match s.ctx? cid with
  | none => s
  | some c =>
    if objectFinished s c h = some true then s
    else
      let s1 := (launchesUnder c h).foldl (fun (s : State) (l : Nat) => cancelLaunch s cid l) s
      let s2 := s1.mapCtx cid fun c =>
        { c with graphs := killGroups c.graphs (graphsUnder c h), phases := killGroups c.phases (phasesUnder c h),
                 jobs := killGroups c.jobs [h] }
      s2.settle cid

/-! ### LAUNCH, JOIN, CANCEL, CNTRD, CORID, YIELD, ENDT -/

/-- The phase that the unit in focus works for, 0 for none. -/
def State.ownPhase (s : State) : Nat :=
  match (holders s.curCtx s.cur.launch)[2]? with
  | some p => p
  | none => 0

/-- LAUNCH (R270): create the launch in a graph of its own (R261). -/
def trigLaunch (c : Trig) (a : Acc) : Except Halt Acc :=
  let va := c.val
  let x := c.s0.curCtx
  if va.toNat % 16 ≠ 0 then c.fault .alignLocal va
  else c.walkWait [(va.toNat, 144)] <| match engineRanges c.s0 .device .read [(va.toNat, 144)] with
    | .error f => c.fault f va
    | .ok rs =>
      match c.s0.readWaits rs with
      | some d => .error (.wait (.memory d))
      | none => match checkRecord c.s0 x (c.s0.deviceBytes rs) va c.t.tstat.dl with
        | .error f => c.fault f 0
        | .ok l =>
          let a := a.mapSt fun s => { s.fillRanges c.s0.tick [(va.toNat, 144)] with mem := (s.fillRanges c.s0.tick [(va.toNat, 144)]).fetched rs }
          let y := (a.st.ctx? x.id).getD x
          let g := createGraph y c.s0.ownPhase 0 c.s0.gcyc
          let k := createLaunch g.1 g.2 [] l
          let y' := closeGraph k.1 g.2
          .ok ((a.mapSt fun s => s.mapCtx x.id fun _ => y').result 1 67 (BitVec.ofNat 64 k.2) Flags.none)

/-- COMPLETED, CANCELLED and ISSUED of an object (R254). -/
def counters (c : Ctx) (h : Nat) : Nat × Nat × Nat :=
  let grp : Option Group → Nat × Nat × Nat := fun o => match o with
    | some g => (g.completed, g.cancelled, g.issued.getD g.members.length)
    | none => (0, 0, 0)
  match handleLevel h with
  | 0 => match c.launch? h with
    | some l => (l.completed, l.cancelled, l.u)
    | none => (0, 0, 0)
  | 1 => grp (group? c.graphs h)
  | 2 => grp (group? c.phases h)
  | _ => grp (group? c.jobs h)

/-- Every unit of a gang has registered arrival `k`, counting `me` as arrived, or has ended or been cancelled (R271). -/
def barrierMet (l : Launch) (me k : Nat) : Bool :=
  (List.range l.u).all fun i => i = me || l.counted.contains i || (l.dead && !l.placed.contains i)
    || l.barrier.any fun b => b.1 = i && k ≤ b.2

/-- Register arrival `k` of a unit of a launch. -/
def Launch.register (l : Launch) (i k : Nat) : Launch :=
  { l with barrier := (i, k) :: l.barrier.filter fun b => b.1 ≠ i }

/-- A waiting barrier JOIN has registered its arrival (R271). -/
def registerArrival (s : State) : State :=
  if s.cur.barReg then s
  else
    let k := s.task.rounds + 1
    let s1 := s.mapCtx s.cur.ctx fun c => c.mapLaunch s.cur.launch fun l => l.register s.cur.index k
    { s1 with cur := { s1.cur with barReg := true } }

/-- JOIN as a barrier (R271). -/
def joinBarrier (c : Trig) (a : Acc) (h : Nat) (n : Word) : Except Halt Acc :=
  match c.s0.curCtx.launch? h with
  | none => c.fault .illegal 0
  | some l =>
    if h ≠ c.s0.cur.launch || n ≠ 0 || !l.gang then c.fault .illegal 0
    else
      let k := c.t.rounds + 1
      if barrierMet l c.s0.cur.index k then
        let a1 := a.mapSt fun s =>
          let s1 := s.mapCtx s.cur.ctx fun x => x.mapLaunch h fun l => { l.register s.cur.index k with arrived := max l.arrived k }
          { s1 with cur := { s1.cur with barReg := false, task := { s1.cur.task with rounds := k } } }
        .ok (a1.result 1 67 (BitVec.ofNat 64 (if c.t.dl0 then l.completed + l.cancelled else k)) Flags.none)
      else .ok (a.hold .barrier)

/-- The writes of an object's counted units that were in flight when those were counted (R260, R271): of cancelled units alone, since
ENDT applies its task's writes before the unit is counted (R273). -/
def lateWrites (c : Ctx) (h : Nat) : List Nat :=
  (launchesUnder c h).flatMap fun l => match c.launch? l with
    | some x => x.late
    | none => []

/-- JOIN (R271). Every write of the counted units precedes the task's later accesses (R230). -/
def trigJoin (c : Trig) (a : Acc) : Except Halt Acc :=
  let x := c.s0.curCtx
  let h := (c.opA 64).toNat
  let n : Word := (c.val.extractLsb' 0 32).setWidth 64
  if !highZero (c.opA 64) 32 || !highZero c.val 33 then c.fault .illegal 0
  else match objectFinished c.s0 x h with
    | none => c.fault .prot (c.opA 64)
    | some fin =>
      if c.val.getLsbD 32 then joinBarrier c a h n
      else if (holders x c.s0.cur.launch).contains h then c.fault .illegal 0
      else
        let k := counters x h
        let done := k.1 + k.2.1
        if (if n = 0 then fin else n.toNat ≤ done) then
          .ok ((a.mapSt fun s => { s with cur := { s.cur with fenced := (lateWrites x h).map (fun i => (i, Scope.sys)) ++ s.cur.fenced } }).result
            1 67 (if c.t.dl0 then BitVec.ofNat 64 done else if n = 0 then BitVec.ofNat 64 k.2.2 else n) Flags.none)
        else .ok (a.hold .join)

/-- CANCEL (R270, R272). -/
def trigCancel (c : Trig) (a : Acc) : Except Halt Acc :=
  let h := c.val.toNat
  if !highZero c.val 32 then c.fault .illegal 0
  else match objectFinished c.s0 c.s0.curCtx h with
    | none => c.fault .prot c.val
    | some fin => .ok ((a.mapSt fun s => cancelObject s s.cur.ctx h).result 1 67 (if fin then 0 else 1) Flags.none)

/-- CNTRD (R270). -/
def trigCntrd (c : Trig) (a : Acc) : Except Halt Acc :=
  let x := c.s0.curCtx
  let h := (c.opA 64).toNat
  if !highZero (c.opA 64) 32 || !highZero c.val 2 then c.fault .illegal 0
  else match objectFinished c.s0 x h with
    | none => c.fault .prot (c.opA 64)
    | some fin =>
      let k := counters x h
      let v := match c.val.toNat with
        | 0 => k.2.2
        | 1 => k.1
        | 2 => k.2.1
        | _ => match x.launch? h with
          | some l => l.arrived
          | none => 0
      let a1 := if !c.t.dl0 && !fin then a.mapTask Task.setTaint else a
      .ok (a1.result 1 67 (BitVec.ofNat 64 v) Flags.none)

/-- The logical die of a logical core (R262). -/
def logicalDie (l : Level) (lc : Nat) : Nat := if l = .dl2 then lc / 80 else lc / 96

/-- CORID (R270). -/
def trigCorid (c : Trig) (a : Acc) : Except Halt Acc :=
  let u := c.s0.cur
  let out : Nat → Except Halt Acc := fun v => .ok (a.result 1 67 (BitVec.ofNat 64 v) Flags.none)
  if !highZero c.val 3 then c.fault .illegal 0
  else match c.val.toNat with
    | 0 => out u.index
    | 1 => out (match c.s0.launchOf u with
      | some l => l.u
      | none => 0)
    | 2 => out u.lcore
    | 3 => out (logicalDie c.t.tstat.dl u.lcore)
    | 4 => out u.launch
    | 5 => realTime c a 67 (BitVec.ofNat 64 u.core)
    | _ => c.fault .illegal 0

/-- YIELD (R274): the following LIW is the transfer's target. -/
def trigYield (c : Trig) (a : Acc) : Except Halt Acc := .ok { a with target := some c.next, after := .yield }

/-- The task has nothing left that ENDT or RFT waits for (R165, R235, R273). -/
def quiet? (t : Task) : Bool := t.cmds.isEmpty && t.loads.isEmpty

/-- ENDT (R273); ILLEGAL in a handler (R292). -/
def trigEndt (c : Trig) (a : Acc) : Except Halt Acc :=
  if c.s0.cur.kind = .handler then c.fault .illegal 0
  else if quiet? c.t then .ok { a with after := .ended }
  else .ok (a.hold .endt)

/-- ENDT of Peman. -/
def slotEndt (g : Gd) : Slot := { gd := g, regs := [], run := trigEndt }

/-- The end of the unit in focus, once its writes have been applied at SYS scope (R273). -/
def endUnit (s : State) : State :=
  let u := s.cur
  let s2 := retireUnit (s.settle u.ctx) u
  if u.kind = .user then countUnit s2 u.ctx u.launch u.index true u.task.tstat.taint else s2

/-! ### Admission -/

/-- A launch may take a region's state on a die (R179). -/
def regionFree (m : Memory) (die r : Nat) (write : Bool) : Bool :=
  match regionState m die r, write with
  | .free, _ => true
  | .read _, false => true
  | _, _ => false

/-- Every (die, region) state a launch names allows its admission (R179, R263). -/
def regionsFree (m : Memory) (dies : List Nat) (l : Launch) : Bool :=
  dies.all fun d => (regionList l.rset).all (fun r => regionFree m d r false) && (regionList l.wset).all fun r => regionFree m d r true

/-- Take the region states of a launch (R179). -/
def takeRegions (m : Memory) (dies : List Nat) (l : Launch) : Memory :=
  dies.foldl (fun m d =>
    let m1 := (regionList l.rset).foldl (fun m r => setRegion m d r (match regionState m d r with
      | .read c => .read (c + 1)
      | _ => .read 1)) m
    (regionList l.wset).foldl (fun m r => setRegion m d r .write) m1) m

/-- The launch at the head of a context's admission requests (R361). -/
def Ctx.headRequest (c : Ctx) : Option Launch := c.launches.find? fun l => l.granted.isNone && !l.dead

/-- The grant of the launch at the head is allowed (R179, R361). -/
def grantOk (s : State) (c : Ctx) (l : Launch) : Bool :=
  regionsFree s.mem c.dies l && (c.energy.committed = 0 || c.energy.committed + l.u * l.est ≤ c.energy.grant)

/-- LAUNCH_GRANT (R264, R361). -/
def execLaunchGrant (cid h : Nat) (s : State) : Host.Outcome State Fault Refusal :=
  match s.ctx? cid with
  | none => .next s
  | some c =>
    match c.headRequest with
    | none => .next s
    | some l =>
      if l.h ≠ h || !grantOk s c l then .next s
      else
        let s1 : State := { s with mem := takeRegions s.mem c.dies l }
        .next (s1.mapCtx cid fun c =>
          { c.mapLaunch h (fun l => { l with granted := some s.gcyc }) with
            energy := { c.energy with committed := c.energy.committed + l.u * l.est } })

/-! ### Placement -/

/-- The effective priority of a launch (R267). -/
def Launch.effPrio (l : Launch) : Nat := l.prio - l.boost

/-- The keys of R266 for a unit. -/
structure Key where
  prio   : Nat
  ctx    : Nat
  served : Nat
  share  : Nat
  graph  : Nat
  launch : Nat
  index  : Nat
  deriving DecidableEq, Repr

/-- The keys of a unit of a launch. -/
def keyOf (c : Ctx) (l : Launch) (index : Nat) : Key :=
  { prio := l.effPrio, ctx := c.id, served := c.served, share := c.share, graph := l.graph, launch := l.h, index := index }

/-- One unit ranks at or before another (R266). -/
def Key.le (a b : Key) : Bool :=
  if a.prio ≠ b.prio then a.prio < b.prio
  else if a.ctx = b.ctx then
    if a.graph ≠ b.graph then a.graph < b.graph
    else if a.launch ≠ b.launch then a.launch < b.launch
    else a.index ≤ b.index
  else if a.served * b.share ≠ b.served * a.share then a.served * b.share < b.served * a.share
  else a.ctx < b.ctx

/-- A launch with units still to be placed that may be placed (R261, R264, R266). -/
def placeable (s : State) (c : Ctx) (l : Launch) : Bool :=
  l.granted.isSome && !l.dead && l.placed.length < l.u
    && l.preds.all (fun p => match c.launch? p with
      | some q => q.done
      | none => true)
    && (match group? c.graphs l.graph with
      | none => true
      | some g => g.after = 0 || (match group? c.phases g.after with
        | some p => phaseFinished s c p
        | none => true))

/-- A context has a placeable unit. -/
def hasWork (s : State) (c : Ctx) : Bool := c.launches.any fun l => placeable s c l

/-- The context of least SERVED / share among some (R266). -/
def leastRatio : List Ctx → Option Ctx
  | [] => none
  | c :: cs => match leastRatio cs with
    | none => some c
    | some d => if c.served * d.share ≤ d.served * c.share then some c else some d

/-- Contexts that gained a placeable unit have their SERVED raised to the competitors' least ratio (R266). -/
def compete (s : State) : State :=
  let old := leastRatio (s.ctxs.filter fun c => c.hadWork && hasWork s c)
  { s with ctxs := s.ctxs.map fun c =>
      let w := hasWork s c
      if w && !c.hadWork then
        match old with
        | some d => { c with hadWork := true, served := max c.served (d.served * c.share / d.share) }
        | none => { c with hadWork := true }
      else { c with hadWork := w } }

/-- The logical core of a unit (R262); at DL0 it has none of its own. -/
def unitCore (c : Ctx) (l : Launch) (index : Nat) : Option Nat :=
  let k := (cbg l.seed (BitVec.ofNat 64 l.lid) (BitVec.ofNat 64 index)).toNat
  match l.level with
  | .dl0 => none
  | .dl1 => some (k % (96 * c.dies.length))
  | .dl2 => some (k % 320)

/-- The physical die that hosts a unit (R207, R262); `none` at DL0. -/
def unitDie (c : Ctx) (l : Launch) (index : Nat) : Option Nat :=
  (unitCore c l index).map fun lc => pageHome c.dies (logicalDie l.level lc)

/-- The units that occupy a core (R149); a handler shares its unit's place. -/
def residents (s : State) (core : Nat) : List QUnit :=
  s.units.filter fun u => u.core = core && u.kind = .user

/-- A core has room for a footprint beside `extra` further units of that footprint (R149). -/
def roomFor (s : State) (core : Nat) (f extra : Nat) : Bool :=
  let rs := residents s core
  rs.length + extra < 4 && (rs.foldl (fun n u => n + u.task.f) 0) + (extra + 1) * f ≤ 2097152

/-- A compute core that may take units (R25). -/
def coreHealthy (s : State) (core : Nat) : Bool :=
  core < 384 && !s.health.badCores.contains core && !s.health.badDies.contains (coreDie core)

/-- A unit of a launch may stand on a core. -/
def hostsUnit (s : State) (c : Ctx) (l : Launch) (index core : Nat) : Bool :=
  coreHealthy s core && c.dies.contains (coreDie core) && match unitDie c l index with
    | none => true
    | some d => d = coreDie core

/-- A place for each unit of a gang on the dies that `free` allows, the lowest-numbered core with room first; `none` while it does not
fit (R268). -/
def gangPlan (s : State) (c : Ctx) (l : Launch) (free : Nat → Bool) : Nat → List (Nat × Nat) → Option (List (Nat × Nat))
  | 0, acc => some acc.reverse
  | n + 1, acc =>
    let i := l.u - (n + 1)
    match (List.range 384).find? fun k =>
        free (coreDie k) && hostsUnit s c l i k && roomFor s k l.foot.size (acc.filter fun p => p.2 = k).length with
    | none => none
    | some k => gangPlan s c l free n ((i, k) :: acc)

/-- The dies that a gang needs (R268). -/
def gangDies (c : Ctx) (l : Launch) : List Nat :=
  if l.level = .dl0 then c.dies else (List.range l.u).filterMap fun i => unitDie c l i

/-- A gang's reservation stands: it has neither been placed nor cancelled (R268). -/
def Launch.reserves (g : Launch) : Bool := g.reserve && !g.dead && g.placed.isEmpty

/-- A die is reserved against a launch with these keys (R268): by a gang that ranks before it, or during whose reservation aging
promoted the launch; a gang that was promoted during this launch's own reservation ranks behind it (R275). -/
def reservedAgainst (s : State) (die : Nat) (l : Launch) (k : Key) : Bool :=
  s.ctxs.any fun c => c.launches.any fun g =>
    g.reserves && (gangDies c g).contains die && !(c.id = k.ctx && g.h = k.launch)
      && (l.behind.contains (c.id, g.h) || (!(k.le (keyOf c g 0)) && !g.behind.contains (k.ctx, k.launch)))

/-- What a launch would place next on a core: unit indices with their cores. -/
def placementOn (s : State) (c : Ctx) (l : Launch) (core : Nat) : List (Nat × Nat) :=
  if !placeable s c l then []
  else if l.gang then
    if !roomFor s core l.foot.size 0 || !(List.range l.u).any (fun i => hostsUnit s c l i core) then []
    else (gangPlan s c l (fun d => !reservedAgainst s d l (keyOf c l 0)) l.u []).getD []
  else if !roomFor s core l.foot.size 0 || reservedAgainst s (coreDie core) l (keyOf c l 0) then []
  else match (List.range l.u).find? fun i => !l.placed.contains i && hostsUnit s c l i core with
    | some i => [(i, core)]
    | none => []

/-- A candidate of a selection. -/
structure Cand where
  key   : Key
  ctx   : Nat
  h     : Nat
  units : List (Nat × Nat)
  deriving DecidableEq, Repr

/-- The candidates for a core (R266). -/
def candidates (s : State) (core : Nat) : List Cand :=
  s.ctxs.flatMap fun c => c.launches.filterMap fun l =>
    match placementOn s c l core with
    | [] => none
    | (i, k) :: r => some { key := keyOf c l i, ctx := c.id, h := l.h, units := (i, k) :: r }

/-- The first-ranked of some candidates. -/
def firstRanked : List Cand → Option Cand
  | [] => none
  | c :: cs => match firstRanked cs with
    | none => some c
    | some d => if c.key.le d.key then some c else some d

/-- The pages of a core's scratchpad that no resident unit's footprint lies in (R149). -/
def freePages (s : State) (core : Nat) : List Nat :=
  (List.range 512).filter fun p => !(residents s core).any fun u => u.pages.getLsbD p

/-- Where a footprint of `f` bytes is put in a core's scratchpad: free pages, of which the spec does not choose (R149, R258, log 9). -/
def placeFoot (s : State) (core f : Nat) : BitVec 512 :=
  let ps := freePages s core
  let k := Config.placeShift s.tick % ps.length
  ((ps.drop k ++ ps.take k).take ((f + 4095) / 4096)).foldl (fun m p => m ||| BitVec.twoPow 512 p) 0

/-- The scratchpad bytes that a unit of a context finds in its place on a core (R258, log 9). -/
def foundBytes (s : State) (core cid : Nat) (ps : BitVec 512) (f : Nat) : Sparse 8 :=
  (residueOf s.mem core cid).filterMap fun x => (footAt ps f x.1).map fun a => (a, x.2)

/-- The task state of a unit at its start (R101, R258). -/
def startTask (l : Launch) (entry : Word) (lm : Sparse 8) : Task :=
  let base := l.foot.size - l.foot.spill
  let fr : Frames := { Frames.reset with glob := sset (sset [] 1 l.record) 2 (BitVec.ofNat 64 base), bsbase := base, bslim := l.foot.size }
  let t0 : Task := { Task.reset with
    fr := fr, sq := { Task.reset.sq with pc := entry }, lmem := lm, foot := l.foot,
    tstat := { taint := false, gang := l.gang, prio := BitVec.ofNat 2 l.prio, wl := l.wl, dl := l.level } }
  (l.args.zip (List.range l.args.length)).foldl (fun t x => t.setSReg (.phys x.2) x.1) t0

/-- A core has a unit that issues or waits (R149). -/
def coreBusy (s : State) (core : Nat) : Bool :=
  s.units.any fun u => u.core = core && match u.status with
    | .ready => true
    | .waiting _ => true
    | _ => false

/-- Place one unit (R258, R266). Bytes of other contexts in its place on the core are cleared. -/
def placeUnit (s : State) (cid : Nat) (l : Launch) (index core : Nat) : State :=
  match s.ctx? cid with
  | none => s
  | some c =>
    let entry := match c.desc? l.kdesc with
      | some d => d.entry
      | none => 0
    let ps := placeFoot s core l.foot.size
    let t := startTask l entry (foundBytes s core cid ps l.foot.size)
    let u : QUnit := { QUnit.reset with
      uid := s.nextUid, ctx := cid, launch := l.h, index := index, core := core, pages := ps,
      lcore := (unitCore c l index).getD core, status := if coreBusy s core then .out none else .ready, task := t }
    let s1 : State := { s with parked := s.parked ++ [u], nextUid := s.nextUid + 1, mem := clearResidue s.mem core ps l.foot.size, tick := s.tick + 1 }
    s1.mapCtx cid fun c => { c.mapLaunch l.h (fun l => { l with placed := index :: l.placed }) with served := (c.served + l.est) % 2 ^ 64 }

/-- Place what a candidate names. -/
def placeCand (s : State) (x : Cand) : State :=
  match s.ctx? x.ctx with
  | none => s
  | some c => match c.launch? x.h with
    | none => s
    | some l => x.units.foldl (fun (s : State) (p : Nat × Nat) => placeUnit s x.ctx l p.1 p.2) s

/-- UNIT_PLACEMENT (R266): Confluence places the first-ranked unit that the core has room for. -/
def execUnitPlacement (core : Nat) (s : State) : Host.Outcome State Fault Refusal :=
  let s1 := compete s
  match firstRanked (candidates s1 core) with
  | none => .next s1
  | some x => .next (compete (placeCand s1 x))

/-- The levels that a launch should have risen by now (R267). -/
def agedLevels (s : State) (l : Launch) : Nat := match l.granted with
  | some g => (s.gcyc - g) / 2 ^ 20
  | none => 0

/-- A launch is due to rise (R267). -/
def agingDue (s : State) (l : Launch) : Bool :=
  !l.dead && l.placed.length < l.u && 0 < l.effPrio && l.boost < agedLevels s l

/-- The gangs whose reservations stand (R268). -/
def reservations (s : State) : List (Nat × Nat) :=
  s.ctxs.flatMap fun c => (c.launches.filter Launch.reserves).map fun g => (c.id, g.h)

/-- PRIORITY_AGING (R267). A gang that holds a reservation is placed before a launch that is promoted meanwhile (R275). -/
def execPriorityAging (cid h : Nat) (s : State) : Host.Outcome State Fault Refusal :=
  .next (s.mapCtx cid fun c => c.mapLaunch h fun l =>
    if agingDue s l then { l with boost := l.boost + 1, behind := (reservations s ++ l.behind).eraseDups } else l)

/-- A gang is due to reserve its dies (R268). -/
def reserveDue (s : State) (l : Launch) : Bool :=
  l.gang && !l.dead && l.placed.isEmpty && l.effPrio = 0 && 1 ≤ agedLevels s l && !l.reserve

/-- GANG_RESERVATION (R268). -/
def execGangReservation (cid h : Nat) (s : State) : Host.Outcome State Fault Refusal :=
  .next (s.mapCtx cid fun c => c.mapLaunch h fun l => if reserveDue s l then { l with reserve := true } else l)

/-! ### Packets (R260) -/

/-- The packet at the head of a context's ring, when one is exposed. -/
def headPacket (s : State) (c : Ctx) : Option (List Byte) :=
  let va := c.rings.cqBase.toNat + 64 * c.rings.cqHead
  if c.rings.cqSize = 0 || c.rings.cqHead = c.rings.cqTail || (agentBlocked s c [(va, 64)] []).isSome then none
  else match ctxRead s c va 64 with
    | .ok bs => some bs
    | .error _ => none

/-- TYPE of the packet at the head. -/
def headType (s : State) (c : Ctx) : Option Nat := (headPacket s c).map fun bs => byteField bs 0 2

/-- Take the packet at the head into work. -/
def Ctx.takePacket (c : Ctx) (cpl : Word) (w : PacketWork) : Ctx :=
  { c with rings := { c.rings with cqHead := (c.rings.cqHead + 1) % c.rings.cqSize },
           packets := c.packets ++ [{ cpl := cpl, work := w }] }

/-- Process the head packet: `f` gives the state after its effect and what its completion waits for. -/
def processPacket (s : State) (cid ty : Nat) (f : Ctx → List Byte → State × PacketWork) : State :=
  match s.ctx? cid with
  | none => s
  | some c =>
    match headPacket s c with
    | none => s
    | some bs =>
      let known := 2 ≤ byteField bs 0 2 && byteField bs 0 2 ≤ 7
      if !(byteField bs 0 2 = ty || (ty = 1 && !known)) then s
      else
        let cpl := BitVec.ofNat 64 (byteField bs 8 8)
        let r := if byteField bs 0 2 ≠ ty || byteField bs 2 6 ≠ 0 then (s, PacketWork.done 0x10 0) else f c bs
        r.1.mapCtx cid fun c => c.takePacket cpl r.2

/-- A handle field (R260): the status when it is refused; 0 stands for none where `zeroOk`. -/
def handleStatus (c : Ctx) (gs : List Group) (level h : Nat) (zeroOk : Bool) : Option Nat :=
  if h = 0 && zeroOk then none
  else if handleLevel h ≠ level then some 0x10
  else if !c.handleLive h || (group? gs h).isNone then some 0x19
  else none

/-- The entries of a graph object (R261): launch records with their predecessors' indices. -/
def graphEntries (s : State) (c : Ctx) (va n : Nat) : Except Nat (List (Word × List Nat)) :=
  match ctxRead s c (va + 8) (16 * n) with
  | .error f => .error f.num
  | .ok es =>
    let row : Nat → Except Nat (Word × List Nat) := fun i =>
      let e := (es.drop (16 * i)).take 16
      let pc := byteField e 10 2
      if byteField e 12 4 ≠ 0 then .error 0x10
      else match ctxRead s c (va + 8 + 16 * n + 2 * byteField e 8 2) (2 * pc) with
        | .error f => .error f.num
        | .ok ps =>
          let is_ := (List.range pc).map fun k => byteField ps (2 * k) 2
          if is_.any fun p => i ≤ p then .error 0x10 else .ok (BitVec.ofNat 64 (byteField e 0 8), is_)
    (List.range n).foldr (fun i acc => match row i, acc with
      | .error f, _ => .error f
      | .ok _, .error f => .error f
      | .ok r, .ok rs => .ok (r :: rs)) (.ok [])

/-- Create the launches of a graph in entry order, up to the first that is refused (R257, R261). -/
def admitEntries (s : State) (graph : Nat) : List (Word × List Nat) → List Nat → Ctx → Ctx × Option Nat
  | [], _, c => (c, none)
  | (va, ps) :: es, made, c =>
    if va.toNat % 16 ≠ 0 then (c, some FaultCode.alignLocal.num)
    else match ctxRead s c va.toNat 144 with
      | .error f => (c, some f.num)
      | .ok bs => match checkRecord s c bs va c.level with
        | .error f => (c, some f.num)
        | .ok l =>
          let r := createLaunch c graph (ps.map fun p => made.getD p 0) l
          admitEntries s graph es (made ++ [r.2]) r.1

/-- The effect of a GRAPH packet. -/
def graphPacket (s : State) (c : Ctx) (bs : List Byte) : State × PacketWork :=
  let va := byteField bs 16 8
  let ph := byteField bs 24 4
  let pre := byteField bs 28 4
  match handleStatus c c.phases 2 ph false, handleStatus c c.phases 2 pre true with
  | some st, _ => (s, .done st 0)
  | none, some st => (s, .done st 0)
  | none, none =>
    match ctxRead s c va 8 with
    | .error f => (s, .done f.num 0)
    | .ok hd =>
      let n := leNat hd
      if n < 1 || 4096 < n then (s, .done 0x10 0)
      else match graphEntries s c va n with
        | .error st => (s, .done st 0)
        | .ok es =>
          let g := createGraph c ph pre s.gcyc
          let r := admitEntries s g.2 es [] g.1
          let s1 := s.mapCtx c.id fun _ => closeGraph r.1 g.2
          (s1.settle c.id, match r.2 with
            | some st => .done st 0
            | none => .object g.2)

/-- GRAPH (R260, R261). A packet of no known TYPE is met here as well: it gets status ILLEGAL and is skipped. -/
def execGraph (cid : Nat) (s : State) : Host.Outcome State Fault Refusal := .next (processPacket s cid 1 (graphPacket s))

/-- DETLEVEL (R260, R265). -/
def execDetlevel (cid : Nat) (s : State) : Host.Outcome State Fault Refusal :=
  .next (processPacket s cid 2 fun c bs =>
    if 2 < byteField bs 16 1 then (s, .done 0x10 0)
    else (s.mapCtx c.id fun c => { c with level := levelOf (byteField bs 16 1) }, .done 0 0))

/-- CANCEL packet (R260, R272). -/
def execCancelPacket (cid : Nat) (s : State) : Host.Outcome State Fault Refusal :=
  .next (processPacket s cid 3 fun c bs =>
    let h := byteField bs 16 4
    match objectFinished s c h with
    | none => (s, .done 0x19 0)
    | some _ => (cancelObject s c.id h, .done 0 h))

/-- Create a phase in a job, a new one for 0 (R260). -/
def createPhase (c : Ctx) (job : Nat) (number cond : Word) (born : Nat) : Ctx × Nat :=
  let newJob := job = 0
  let jn := c.serials.2.2.2 + (if newJob then 1 else 0)
  let j := if newJob then mkHandle 3 jn else job
  let pn := c.serials.2.2.1 + 1
  let h := mkHandle 2 pn
  let jobs := if newJob then c.jobs ++ [newGroup j 0 0 none 0 0 born] else c.jobs
  ({ c with jobs := mapGroup jobs j fun g => g.addMember h,
            phases := c.phases ++ [newGroup h j 0 none number cond born],
            serials := (c.serials.1, c.serials.2.1, pn, jn) }, h)

/-- PHASE (R260). -/
def execPhase (cid : Nat) (s : State) : Host.Outcome State Fault Refusal :=
  .next (processPacket s cid 4 fun c bs =>
    let job := byteField bs 16 4
    match handleStatus c c.jobs 3 job true with
    | some st => (s, .done st 0)
    | none =>
      if job ≠ 0 && ((group? c.jobs job).map fun g => g.issued.isSome) = some true then (s, .done 0x10 0)
      else
        let r := createPhase c job (BitVec.ofNat 64 (byteField bs 20 8)) (BitVec.ofNat 64 (byteField bs 28 8)) s.gcyc
        (s.mapCtx c.id fun _ => r.1, .done 0 r.2))

/-- Fix a group's ISSUED unless it is fixed (R254). -/
def Group.close (g : Group) : Group := { g with issued := some (g.issued.getD g.members.length) }

/-- PHASE_END (R260). Its work is finished when the phase is (R344). -/
def execPhaseEnd (cid : Nat) (s : State) : Host.Outcome State Fault Refusal :=
  .next (processPacket s cid 5 fun c bs =>
    let h := byteField bs 16 4
    let last := byteField bs 20 1
    if 1 < last || byteField bs 21 3 ≠ 0 then (s, .done 0x10 0)
    else match handleStatus c c.phases 2 h false, group? c.phases h with
      | some st, _ => (s, .done st 0)
      | none, none => (s, .done 0x19 0)
      | none, some p =>
        let s1 := s.mapCtx c.id fun c =>
          { c with phases := mapGroup c.phases h Group.close,
                   jobs := if last = 1 then mapGroup c.jobs p.parent Group.close else c.jobs }
        (s1.settle c.id, .object h))

/-- A write is no longer in flight. -/
def appliedEverywhere (m : Memory) (id : Nat) : Bool := m.writes.all fun w => w.id ≠ id

/-- A packet's work is finished, and every write of it has been applied (R260). -/
def packetReady (s : State) (c : Ctx) (p : Packet) : Bool :=
  match p.work with
  | .done _ _ => true
  | .object h => (objectFinished s c h).getD true && (lateWrites c h).all fun i => appliedEverywhere s.mem i
  | _ => false

/-- Every packet before number `i` in the list has its work finished. -/
def earlierDone (s : State) (c : Ctx) (i : Nat) : Bool := (c.packets.take i).all fun p => packetReady s c p

/-- The first signal whose earlier packets' work is finished. -/
def readySignal (s : State) (c : Ctx) : Option Nat :=
  (List.range c.packets.length).find? fun i => earlierDone s c i && match c.packets[i]? with
    | some { work := .signal _ _, .. } => true
    | _ => false

/-- Replace packet number `i`'s work. -/
def Ctx.setWork (c : Ctx) (i : Nat) (w : PacketWork) : Ctx :=
  { c with packets := (c.packets.zip (List.range c.packets.length)).map fun p => if p.2 = i then { p.1 with work := w } else p.1 }

/-- SIGNAL (R260): a signal whose turn has come stores its value; else the one at the head of the ring is taken into work. -/
def execSignal (cid : Nat) (s : State) : Host.Outcome State Fault Refusal :=
  match s.ctx? cid with
  | none => .next s
  | some c =>
    match readySignal s c with
    | some i => match c.packets[i]? with
      | some { work := .signal a v, .. } =>
        match ctxRanges s c a.toNat 8 .write with
        | .error f => .next (s.mapCtx cid fun c => c.setWork i (.done f.num 0))
        | .ok rs =>
          let s1 : State := { s with mem := agentWrite s.health (agentWalked s c [(a.toNat, 8)]) c.id (placeRanges rs (natLe 8 v.toNat)) }
          .next (s1.mapCtx cid fun c => c.setWork i (.done 0 0))
      | _ => .next s
    | none =>
      .next (processPacket s cid 6 fun _ bs =>
        (s, .signal (BitVec.ofNat 64 (byteField bs 16 8)) (BitVec.ofNat 64 (byteField bs 24 8))))

/-- The TAINT of an object: of its launches (R259). -/
def objectTaint (c : Ctx) (h : Nat) : Bool :=
  (launchesUnder c h).any fun l => match c.launch? l with
    | some x => x.taint
    | none => false

/-- The status of a finished object (R260, R344). -/
def objectStatus (c : Ctx) (h : Nat) : Nat :=
  let k := counters c h
  let g := match handleLevel h with
    | 1 => group? c.graphs h
    | 2 => group? c.phases h
    | _ => group? c.jobs h
  match g with
  | some g => if g.incomplete then 2 else if g.dead || k.2.1 ≠ 0 then 1 else 0
  | none => if k.2.1 ≠ 0 then 1 else 0

/-- The completion word of a packet whose work is finished (R260). -/
def completionWord (c : Ctx) : PacketWork → Nat
  | .done st h => st + h * 2 ^ 32
  | .object h => objectStatus c h + (if objectTaint c h then 256 else 0) + h * 2 ^ 32
  | _ => 0

/-- PACKET_COMPLETION (R260): the completion word of packet number `i` in work is written at SYS scope. -/
def execPacketCompletion (cid i : Nat) (s : State) : Host.Outcome State Fault Refusal :=
  match (s.settle cid).ctx? cid with
  | none => .next s
  | some c =>
    match c.packets[i]? with
    | none => .next s
    | some p =>
      if !packetReady s c p then .next s
      else
        let s1 := (s.settle cid).mapCtx cid fun c => { c with packets := c.packets.eraseIdx i }
        .next (writeWord s1 c p.cpl.toNat (completionWord c p.work))

end Sys2Proof.Machine
end

