-- ==== Sys2Proof/Machine/Image.lean ====
section
/-! DEFINITION. The context image of one unit (R282 to R285): its bytes as the part lays them out, and the header that decides
whether a part accepts it. A unit that is switched out stands in the state with its whole task; the image is what that state is in
bytes. Layouts that the spec does not give are those of log 12. -/

namespace Sys2Proof.Machine

/-- An 8-byte slot. -/
def slot8 (n : Nat) : List Byte := natLe 8 n

/-- Zero bytes. -/
def zeros (n : Nat) : List Byte := List.replicate n 0

/-- Bytes filled up with zeros, or cut, to a size. -/
def padTo (n : Nat) (bs : List Byte) : List Byte := (bs ++ zeros (n - bs.length)).take n

/-- The image's header (R284): version 1, part tag 0x0009, F. -/
def imageHead (u : QUnit) : List Byte := slot8 (1 + 0x0009 * 2 ^ 16 + u.task.f * 2 ^ 32)

/-- A part accepts an image by its version and part tag (R285). -/
def unitImageOk (head : List Byte) : Bool := leNat (head.take 2) = 1 && leNat ((head.drop 2).take 2) = 0x0009

/-- A privilege level as a number. -/
def Priv.num : Priv → Nat
  | .user => 0
  | .supervisor => 1
  | .system => 2

/-! ### Eddy entries -/

/-- The destination word of an Eddy entry (R282). -/
def eddyDest (kind cluster port reg : Nat) : Nat := kind * 2 ^ 30 + cluster * 2 ^ 27 + port * 2 ^ 17 + reg * 2 ^ 12

/-- The Eddy entry of 80 bytes for a result or a pending FMTSET, at a switch-out with T as the τ of the next LIW (R282). Flags without a
result stand as FMT's flag bits (log 12). -/
def eddyBytes (tau : Nat) (e : Eddy) : List Byte :=
  let entry : Nat → List Byte → BitVec 16 → List Byte := fun dest val mask =>
    natLe 4 dest ++ natLe 4 (e.ready - tau) ++ padTo 64 val ++ natLe 2 mask.toNat ++ zeros 6
  match e.val with
  | .fmt v => entry (eddyDest 2 0 0 0) (slot8 v.toNat) 0
  | .result p => match p.dest with
    | .latchA port => entry (eddyDest 0 0 port 0) (slot8 p.val.toNat) 0
    | .latchB port => entry (eddyDest 0 (port / 128) port 0) (bytesOfLanes p.lanes) p.mask
    | .vreg c r => entry (eddyDest 1 c 0 r) (bytesOfLanes p.lanes) p.mask
    | .flagsOnly => entry (eddyDest 2 0 0 0) (slot8 ({ sat := false, rm := 0, flags := p.flags } : Fmt).word.toNat) 0

/-! ### The sections -/

/-- A register as a number of the window file, for the fields of a loop level (R87). -/
def SReg.entry : SReg → Nat
  | .fixed i => i
  | .phys i => i

/-- A loop level in 64 bytes (R87, R284). -/
def levelBytes (l : Loop) : List Byte :=
  slot8 l.start.toNat ++ slot8 l.stop.toNat ++ slot8 l.after.toNat ++ slot8 (l.n + 2 ^ 32 * l.e + (if l.r then 2 ^ 35 else 0)
    + (if l.en0 then 2 ^ 36 else 0) + (if l.en1 then 2 ^ 37 else 0) + 2 ^ 40 * l.reg0.entry + 2 ^ 48 * l.reg1.entry + 2 ^ 56 * l.depth)
    ++ slot8 l.j ++ slot8 l.stride0.toNat ++ slot8 l.stride1.toNat ++ zeros 8

/-- The pending LSET value (R88). -/
def cfgWord (c : LoopCfg) : Nat :=
  c.reg0.toNat + 2 ^ 5 * c.reg1.toNat + 2 ^ 10 * c.e.toNat + (if c.r then 2 ^ 13 else 0) + (if c.en0 then 2 ^ 14 else 0)
    + (if c.en1 then 2 ^ 15 else 0)

/-- An array's fields (R183, R284). -/
def arrayWord (m : MxArray) : Nat :=
  m.oscale.toNat + 2 ^ 32 * formatCode m.wf + 2 ^ 35 * formatCode m.af + (if m.act then 2 ^ 38 else 0)
    + (if m.flags0.nv then 2 ^ 39 else 0) + (if m.flags0.ovf then 2 ^ 40 else 0)
    + (if m.flags1.nv then 2 ^ 41 else 0) + (if m.flags1.ovf then 2 ^ 42 else 0)

/-- A plane or a tile in 16 KiB. -/
def arrayBytes (m : Sparse 32) : List Byte := bytesOfLanes ((List.range 4096).map (sget m))

/-- The records that carry what MRD, the reductions and ADJB have formed, and the rows that a started step has read (R283): due τ,
destination, length, bytes. The rows stand under the address of the step's first operand (log 12). -/
def carriedRecords (t : Task) : List (List Byte) :=
  let record : Cmd → Nat → List Byte → List Byte := fun c a bs => slot8 c.due ++ slot8 a ++ slot8 bs.length ++ bs
  t.cmds.flatMap fun c => match c.kind with
    | .step _ _ _ _ _ a _ _ _ _ _ _ => if c.data = [] then [] else [record c a c.data]
    | _ => c.writes.map fun w => record c w.1 [w.2]

/-- The control block (R284). -/
def controlBlock (u : QUnit) : List Byte :=
  let t := u.task
  let echk : Nat → Nat := fun i => match t.echk.find? fun e => e.idx = i with
    | some e => e.base + 2 ^ 21 * e.len
    | none => 0
  let latch : Nat → Nat := fun j => match t.queue? j with
    | some b => b.addr
    | none => 2 ^ 64 - 1
  padTo 512 (imageHead u ++ ([t.sq.pc.toNat, t.sq.tau, u.priv.num, t.fr.fb, t.fr.rb, t.fr.depth, t.fr.bsbase, t.fr.bslim,
    t.fmt.word.toNat, t.tstat.word.toNat, cfgWord t.sq.cfg, t.sq.cfg.stride0.toNat, t.sq.cfg.stride1.toNat, t.sq.loops.length,
    arrayWord t.mxa, arrayWord t.mxb] ++ (List.range 4).map echk ++ (List.range 8).map latch
    ++ [t.sq.ilocks.length, t.eddy.length, t.cmds.length, (carriedRecords t).length, t.rounds + (if u.barReg then 1 else 0)]).flatMap slot8)

/-- The bank A blocks and the clusters' blocks of the units' ports (R284). -/
def portSection (p : Ports) : List Byte :=
  let a := (List.range 12).flatMap fun k => (List.range 4).flatMap fun i => slot8 (p.getA (64 * (k + 1) + i)).toNat
  let b := (List.range 8).flatMap fun c => [CUnit.alu, .mul, .sfu, .cxc].flatMap fun k =>
    let first := 128 * c + k.base
    ((List.range 4).flatMap fun i => bytesOfLanes (p.getB (first + i))) ++ natLe 16 (p.written (first + 3)).toNat
  padTo 11264 (a ++ b)

/-- An arrival entry's 128 bits (R334). -/
def Arrival.bytes (a : Arrival) : List Byte :=
  natLe 4 a.arr.toNat ++ natLe 4 a.exp.toNat ++ natLe 2 a.tag.toNat ++ natLe 2 1 ++ natLe 4 a.src.toNat

/-- A pending command in 64 bytes: its start, its due τ, its operands. -/
def Cmd.record (c : Cmd) : List Byte :=
  let k : List Nat := match c.kind with
    | .copy _ _ sa da sl dl q => [1, sa.toNat, da.toNat, layoutSize sl, layoutSize dl, q.getD 255]
    | .wsload sa w n => [2, sa.toNat, w, n]
    | .mlw arr _ sa str tr wf => [3 + 256 * arr + (if tr then 65536 else 0), sa.toNat, str, formatCode wf]
    | .mswp arr => [4 + 256 * arr]
    | .step arr mop tile acc rows a sa g sg _ _ r =>
      [(if mop then 6 else 5) + 256 * arr + 65536 * tile + (if acc then 2 ^ 24 else 0), rows + 2 ^ 32 * r, a, sa, g, sg]
    | .mrd arr => [7 + 256 * arr]
    | .wit => [8]
    | .adjb => [9]
    | .braid b => [10 + 256 * b.kind, b.la.toNat, b.doff.toNat, b.cpl.toNat, b.rank, b.n]
    | .bfetch m la n => [11, m, la, n]
  padTo 64 ((k ++ List.replicate (6 - k.length) 0).flatMap slot8 ++ slot8 c.start ++ slot8 c.due)

/-- The witness tag table (R243, R284). -/
def tagSection (t : Task) : List Byte :=
  padTo 4096 ((List.range 256).flatMap fun i => natLe 2 ((sget t.tagGen i).toNat + (if t.tagOn.getLsbD i then 256 else 0)))

/-- The image of a unit, section by section (R284). No physical core, row, bank, way or die appears in it (R24, R285). -/
def unitImage (u : QUnit) : List Byte :=
  let t := u.task
  controlBlock u
    ++ padTo 512 (t.sq.loops.reverse.flatMap levelBytes)
    ++ (List.range 256).flatMap (fun i => slot8 (sget t.fr.win ((t.fr.rb + i) % 256)).toNat)
    ++ padTo 512 (t.fr.links.reverse.flatMap fun l => slot8 l.ret.toNat ++ slot8 l.o)
    ++ padTo 512 (slot8 (t.preds ||| 1).toNat ++ (List.range 8).flatMap fun k => natLe 16 (t.mask k).toNat)
    ++ bytesOfLanes ((List.range 4096).map fun i => sget t.vregs i)
    ++ portSection t.ports
    ++ (List.range 64).flatMap (fun e => match t.arrivals.find? fun a => a.e = e with
        | some a => a.bytes
        | none => zeros 16)
    ++ padTo 16384 ((t.eddy.map (eddyBytes t.sq.tau)).flatten)
    ++ padTo 8192 (t.cmds.flatMap Cmd.record)
    ++ tagSection t
    ++ padTo 4096 (t.sq.ilocks.flatMap fun w => slot8 w.toNat)
    ++ [t.mxa, t.mxb].flatMap (fun m => arrayBytes m.plane0 ++ arrayBytes m.plane1 ++ arrayBytes m.tile0 ++ arrayBytes m.tile1)
    ++ readBytes t.lmem 0 t.f
    ++ (carriedRecords t).flatten

/-- Where a section of the image begins (R284): ports, arrival entries, Eddy, commands, tags, locks, arrays, the footprint. -/
def imageOffsets : List Nat := [0x5000, 0x7C00, 0x8000, 0xC000, 0xE000, 0xF000, 0x10000, 0x30000]

end Sys2Proof.Machine
end

