-- ==== Sys2Proof/Machine/System.lean ====
section
/-! DEFINITION. Privilege, control registers, soft errors and the switching of tasks (16_contexts_faults.md,
17_cache_fault_program.md): CSRR, CSRW, TLBI, SYSCALL, RFT, SYSTEM's register writes, errors, retirement. -/

namespace Sys2Proof.Machine

/-! ### Soft-error registers -/

/-- DEV_HEALTH (R300). -/
def healthWord (h : Health) : Word :=
  let dies := (List.range 4).foldl (fun n d => n + (if h.badDies.contains d then 2 ^ d else 0)) 0
  BitVec.ofNat 64 (min h.pages 65535 * 2 ^ 24 + min h.qways 255 * 2 ^ 16 + min h.badCores.length 384 * 2 ^ 7 + dies * 2 ^ 3
    + (if h.ueSeen then 4 else 0) + (if h.ceSeen then 2 else 0) + (if h.replace then 1 else 0))

/-- An ERRLOG record (R300). -/
def errRecord (kind struct owner way dpa : Nat) : Word :=
  BitVec.ofNat 64 (2 ^ 63 + kind * 2 ^ 60 + struct * 2 ^ 56 + owner * 2 ^ 48 + way * 2 ^ 43 + dpa / 128 * 128 % 2 ^ 40)

/-- ERRLOG as it reads (R300, R304): 0 when no record is held. -/
def errlogWord (h : Health) : Word := h.errlog.headD 0

/-- The number of a die's first system core; system cores are no compute cores (R12). -/
def systemCore (die : Nat) : Nat := 768 + 96 * die

/-- The firmware scratchpad of a system core (R303). -/
def fwLocalOf (s : State) (core : Nat) : Sparse 8 :=
  match s.board.fwLocal.find? fun x => x.1 = core with
  | some x => x.2
  | none => []

/-- A firmware task (R303, R304): every scalar register 0, no loop level, F = 0x4_0000. -/
def firmwareTask (entry : Word) (lm : Sparse 8) : Task :=
  { Task.reset with sq := { Task.reset.sq with pc := entry }, lmem := lm,
                    fr := { Frames.reset with bslim := 0x40000 },
                    foot := { tile := 0x40000, queue := 0, wit := 0, spill := 0 } }

/-- A core number is a system core's: there are two to a die (R12). -/
def isSystemCore (core : Nat) : Bool := (List.range 4).any fun d => core = systemCore d || core = systemCore d + 1

/-- A firmware unit runs on a system core. -/
def State.firmwareOn (s : State) (core : Nat) : Bool := s.units.any fun u => u.isFirmware && u.core = core

/-- The system core of a die on which the error entry starts: one that no fault has stopped, and one that runs no procedure before one
that does (R303, R304). -/
def errorCore (s : State) (die : Nat) : Nat :=
  let first := systemCore die
  let up := [first, first + 1].filter fun k => !s.board.sysDown.contains k
  (up.find? fun k => !s.firmwareOn k).getD (up.headD first)

/-- A record has become valid: a system core of its die starts the error entry unless one runs (R304); a core that a fault
has stopped starts nothing (R303). A procedure on that core stands still until the entry has ended (log 20). -/
def startErrorEntry (s : State) : State :=
  let core := errorCore s ((errlogWord s.health).extractLsb' 38 2).toNat
  let held := s.units.find? fun u => u.isFirmware && u.core = core
  let lm := held.elim (fwLocalOf s core) fun u => u.task.lmem
  let entry := BitVec.ofNat 64 (readLe lm 0 8)
  if s.board.errBusy || s.board.sysDown.contains core || s.health.errlog.isEmpty || !s.board.fwStarts.contains entry then s
  else
    let u : QUnit := { QUnit.reset with uid := s.nextUid, core := core, kind := .errorEntry, priv := .system,
                                        task := firmwareTask entry lm, serves := held.map fun u => u.uid }
    let s1 := match held with
      | some p => s.mapUnit p.uid fun x => { x with status := .trapped }
      | none => s
    { s1 with parked := s1.parked ++ [u], nextUid := s.nextUid + 1, board := { s.board with errBusy := true } }

/-- An uncorrectable error's record joins the queue, or waits while all 16 entries are held (R300). -/
def addRecord (s : State) (r : Word) : State :=
  if 16 ≤ s.health.errlog.length then { s with health := { s.health with waiting := s.health.waiting ++ [r] } }
  else
    let first := s.health.errlog.isEmpty
    let s1 : State := { s with health := { s.health with errlog := s.health.errlog ++ [r], ueSeen := true } }
    if first then startErrorEntry s1 else s1

/-- A write to ERRLOG by SYSTEM (R300): 1 in V clears the record, and the next one becomes valid. -/
def writeErrlog (s : State) (v : Word) : State :=
  if !v.getLsbD 63 || s.health.errlog.isEmpty then s
  else
    let s1 : State := { s with health := { s.health with errlog := s.health.errlog.tail } }
    let s2 : State := match s1.health.waiting with
      | [] => s1
      | r :: rs => { s1 with health := { s1.health with errlog := s1.health.errlog ++ [r], waiting := rs, ueSeen := true } }
    if s2.health.errlog.isEmpty then s2 else startErrorEntry s2

/-- A write to DEV_HEALTH by SYSTEM (R300): W1C of UE_SEEN and CE_SEEN. -/
def writeDevHealth (s : State) (v : Word) : State :=
  { s with health := { s.health with ueSeen := s.health.ueSeen && !v.getLsbD 2, ceSeen := s.health.ceSeen && !v.getLsbD 1 } }

/-- A write to EINJ by SYSTEM (R300). -/
def writeEinj (s : State) (v : Word) : State := inject { s with mem := { s.mem with einj := v } }

/-- Two entries are the same line of the same die's L2. -/
def L2Line.same (a b : L2Line) : Bool := a.die = b.die && a.line = b.line && a.way = b.way

/-- A line leaves its L2. -/
def dropLine (m : Memory) (l : L2Line) : Memory := { m with l2 := m.l2.filter fun x => !x.same l }

/-- An uncorrectable error in a dirty line has been detected (R299): the line is poisoned. -/
def poisonLine (s : State) (l : L2Line) : State :=
  addRecord { s with mem := { s.mem with l2 := s.mem.l2.map fun x => if x.same l then { x with poison := true, hurt := none, leaving := false } else x } }
    (errRecord 3 1 l.owner l.way (128 * l.line))

/-- An uncorrectable error in a clean line has been detected (R298): the line is dropped, and DRAM still has its data. -/
def dropClean (s : State) (l : L2Line) : State :=
  addRecord { s with mem := dropLine s.mem l } (errRecord 2 1 l.owner l.way (128 * l.line))

/-- A single-bit error in a line has been corrected (R297). -/
def correctLine (s : State) (l : L2Line) : State :=
  { s with health := { s.health with ceSeen := true },
           mem := { s.mem with l2 := s.mem.l2.map fun x => if x.same l then { x with hurt := none, leaving := false } else x } }

/-- The dies' views take the bytes that DRAM holds. -/
def restoreBytes (m : Memory) (bs : List (Nat × Byte)) : Memory :=
  (List.range 4).foldl (fun m d => m.setView d (ssetMany (m.view d) bs)) m

/-- A poisoned line is discarded (R219, R299): DRAM keeps what it had, no die keeps a replica, and the line's writes that its home die
had applied reach no further die. -/
def discardLine (m : Memory) (l : L2Line) : Memory :=
  let m1 := restoreBytes m l.dram
  { m1 with l2 := m1.l2.filter fun x => x.line ≠ l.line,
            writes := m1.writes.filter fun w => !(w.homed.isSome && 8 * w.loc / 128 = l.line) }

/-- A poisoned line that has left its way `w`, which is quarantined: no way holds it, every access to it stalls (R219, R299). -/
def outsideWay (w : Nat) : Nat := 32 + w

/-- A dirty line's error is met as its way is quarantined (R219, R299): it is poisoned, and no way holds it. -/
def poisonOut (s : State) (l : L2Line) : State :=
  let s1 := poisonLine s l
  { s1 with mem := { s1.mem with l2 := s1.mem.l2.map fun x => if x.same l then { x with way := outsideWay l.way } else x } }

/-- A line leaves a way that is being quarantined (R219): a poisoned one is discarded, any other leaves by an eviction, which meets
its error. -/
def quarLine (s : State) (l : L2Line) : State :=
  if l.poison then { s with mem := discardLine s.mem l }
  else match l.hurt with
    | some true => if l.dirty then poisonOut s l else dropClean s l
    | some false => { correctLine s l with mem := dropLine (correctLine s l).mem { l with hurt := none } }
    | none => { s with mem := dropLine s.mem l }

/-- L2QUAR (R219, R299): the way's lines leave the set group, the way is never chosen again. A dirty line whose error is met only now
stands outside the way and is discarded by the next L2QUAR of that way (log 24). -/
def doL2quar (s : State) (v : Word) : State :=
  let die := (v.extractLsb' 14 2).toNat
  let way := (v.extractLsb' 8 5).toNat
  let grp := (v.extractLsb' 0 6).toNat
  let s1 := (s.mem.l2.filter fun l => l.die = die && (l.way = way || l.way = outsideWay way) && l2Set l.line / 4096 = grp).foldl quarLine s
  let known := s1.health.quar.contains (die, grp, way)
  { s1 with health := { s1.health with quar := if known then s1.health.quar else (die, grp, way) :: s1.health.quar,
                                       qways := if known then s1.health.qways else s1.health.qways + 1 } }

/-- PRETIRE (R294, R300): a 64 KiB frame is retired. -/
def doPretire (s : State) (v : Word) : State :=
  let f := v.toNat / 2 ^ 16
  if s.health.frames.contains f then s
  else { s with health := { s.health with frames := f :: s.health.frames, pages := s.health.pages + 1 } }

/-- Terminate every unit of a context (R290): those in trap take their handlers along, and no handler is left. -/
def endUnits (s : State) (cid : Nat) : State :=
  let ends : (QUnit → Bool) → State → State := fun p s =>
    (s.units.filter fun u => u.ctx = cid && !u.isFirmware && p u).foldl (fun (s : State) (u : QUnit) => terminate s u.uid false) s
  ends (fun _ => true) (ends (fun u => u.kind ≠ .handler) s)

/-- Terminate a context (R290, R298): every unit with or without a handler, and every object is finished as cancelled. -/
def endContext (s : State) (cid : Nat) : State :=
  match s.ctx? cid with
  | none => s
  | some c =>
    let s1 := endUnits s cid
    let hs := c.launches.map (fun l => l.h) ++ c.graphs.map (fun g => g.h) ++ c.phases.map (fun g => g.h) ++ c.jobs.map fun g => g.h
    hs.foldl (fun (s : State) (h : Nat) => cancelObject s cid h) s1

/-- The context's commands that the fabric has taken over and whose source is poisoned send nothing: no poisoned value is delivered
(R299). -/
def dropPoisoned (s : State) (cid : Nat) : State :=
  { s with fabric := { s.fabric with owed := s.fabric.owed.filter fun x =>
      !(x.1.ctx = cid && (rangeLines x.2.src).any (linePoisoned s.mem)) } }

/-- Terminate a context with MEM_UE, whose cause is posted to the host (R298, R358). -/
def killContext (s : State) (cid : Nat) : State :=
  if (s.ctx? cid).isNone then s else postEvent (dropPoisoned (endContext s cid) cid) cid (eventBytes 2 FaultCode.memUe.num 0 0 0 0)

/-- Some DPA ranges touch a line. -/
def rangesTouch (rs : List (Nat × Nat)) (line : Nat) : Bool :=
  rs.any fun r => 0 < r.2 && r.1 / 128 ≤ line && line ≤ (r.1 + r.2 - 1) / 128

/-- A Braid command that reads its source now (R332). -/
def Cmd.readsAtStart (c : Cmd) (tau : Nat) : Bool := c.starts tau && c.braidKind.any fun k => k ≠ 1

/-- A unit has an access that stalls on a line (R299): a load, an atomic that has not been performed, a command's data, the source of a
Braid command that is to start, an LIW. -/
def stalledOn (u : QUnit) (line : Nat) : Bool :=
  u.task.loads.any (fun r => r.dpa / 128 = line && r.old.isNone)
    || u.task.cmds.any (fun k => (k.late || k.readsAtStart u.task.sq.tau) && rangesTouch k.src line)
    || (match u.status with
        | .waiting (.memory d) => d / 128 = line
        | _ => false)

/-- The DPA ranges that Confluence reads next for a context: the packet at the head of its ring (R260). -/
def packetWants (s : State) (c : Ctx) : List (Nat × Nat) :=
  if c.rings.cqSize = 0 || c.rings.cqHead = c.rings.cqTail then [] else ctxDpas s c (c.rings.cqBase.toNat + 64 * c.rings.cqHead) 64

/-- The contexts with an access that is stalled on a line (R299): of a unit, of a store on its way home, of Confluence, of a message
that has arrived, of the host, of a command that the fabric has taken over. -/
def stalledCtxs (s : State) (line : Nat) : List Nat :=
  ((s.units.filter fun u => !u.isFirmware && stalledOn u line).map fun u => u.ctx)
    ++ ((s.mem.writes.filter fun w => w.homed.isNone && 8 * w.loc / 128 = line).map fun w => w.ctx)
    ++ ((s.ctxs.filter fun c => rangesTouch (packetWants s c) line).map fun c => c.id)
    ++ ((s.fabric.owed.filter fun x => rangesTouch x.2.src line).map fun x => x.1.ctx)
    ++ ((s.fabric.inbox.filter fun m => (s.msgBlocked m).any fun d => d / 128 = line).map fun m => msgCtx m.msg)
    ++ s.inbox.filterMap fun i => match i with
      | .op o => if (opBlocked s o).any fun d => d / 128 = line then o.over else none
      | .row _ => none

/-- CTXKILL (R299): the context, and every other one whose access is stalled on a poisoned line of it. -/
def doCtxkill (s : State) (v : Word) : State :=
  let owner := v.toNat
  let lines := (s.mem.l2.filter fun l => l.poison && l.owner = owner).map fun l => l.line
  let others := (lines.flatMap (stalledCtxs s)).filter fun c => c ≠ owner
  others.eraseDups.foldl killContext (killContext s owner)

/-- The values a write to L2QUAR, PRETIRE or CTXKILL may have (R294). -/
def l2quarOk (v : Word) : Bool := highZero v 16 && v.getLsbD 13 = false && v.extractLsb' 6 2 = 0 && (v.extractLsb' 8 5).toNat < 24
/-- See `l2quarOk`. -/
def pretireOk (v : Word) : Bool := highZero v 40 && v.extractLsb' 0 16 = 0
/-- See `l2quarOk`. -/
def ctxkillOk (v : Word) : Bool := highZero v 8

/-- L2QUAR as SYSTEM's write. -/
def execL2quar (v : Word) (s : State) : Host.Outcome State Fault Refusal := .next (if l2quarOk v then doL2quar s v else s)
/-- PRETIRE as SYSTEM's write. -/
def execPretire (v : Word) (s : State) : Host.Outcome State Fault Refusal := .next (if pretireOk v then doPretire s v else s)
/-- CTXKILL as SYSTEM's write. -/
def execCtxkill (v : Word) (s : State) : Host.Outcome State Fault Refusal := .next (if ctxkillOk v then doCtxkill s v else s)

/-- The reserved bits of EINJ, ERRLOG and DEV_HEALTH are 0 in a value written (R295, R300). -/
def einjOk (v : Word) : Bool := highZero v 42 && v.extractLsb' 0 7 = 0
/-- See `einjOk`. -/
def errlogOk (v : Word) : Bool := v.extractLsb' 40 3 = 0 && v.extractLsb' 0 7 = 0
/-- See `einjOk`. -/
def devHealthOk (v : Word) : Bool := highZero v 40

/-- EINJ as SYSTEM's write. -/
def execEinj (v : Word) (s : State) : Host.Outcome State Fault Refusal := .next (if einjOk v then writeEinj s v else s)
/-- ERRLOG_CLEAR as SYSTEM's write. -/
def execErrlogClear (v : Word) (s : State) : Host.Outcome State Fault Refusal := .next (if errlogOk v then writeErrlog s v else s)
/-- DEV_HEALTH_CLEAR as SYSTEM's write. -/
def execDevHealthClear (v : Word) (s : State) : Host.Outcome State Fault Refusal :=
  .next (if devHealthOk v then writeDevHealth s v else s)

/-- EINJ_INJECT (R300): an armed injection is performed when its line is in its home L2. -/
def execEinjInject (s : State) : Host.Outcome State Fault Refusal := .next (inject s)

/-! ### Errors -/

/-- CORRECTED_ERROR (R297): a single-bit error is corrected on read, in a line that bears one or in any other word of the part. -/
def execCorrectedError (s : State) : Host.Outcome State Fault Refusal :=
  .next (match s.mem.l2.find? fun l => l.hurt = some false with
    | some l => correctLine s l
    | none => { s with health := { s.health with ceSeen := true } })

/-- An uncorrectable error in a line, in the copy that bears one, else in the home die's copy, else in a replica: it is detected when
its record finds room, and stays in the line until then (R300). -/
def lineUe (s : State) (line : Nat) (dirty : Bool) (f : State → L2Line → State) : State :=
  let cs := s.mem.l2.filter fun l => l.line = line && l.dirty = dirty && !l.poison && l.way < 24
  match (cs.find? fun l => l.hurt = some true).or ((cs.find? fun l => l.die = dpaDie (128 * line)).or cs.head?) with
  | none => s
  | some l =>
    if 16 ≤ s.health.errlog.length then
      { s with mem := { s.mem with l2 := s.mem.l2.map fun x => if x.same l then { x with hurt := some true } else x } }
    else f s l

/-- CLEAN_LINE_UE (R298): the line is dropped and refetched. -/
def execCleanLineUe (line : Nat) (s : State) : Host.Outcome State Fault Refusal := .next (lineUe s line false dropClean)

/-- DIRTY_LINE_UE (R299): the line is poisoned. -/
def execDirtyLineUe (line : Nat) (s : State) : Host.Outcome State Fault Refusal := .next (lineUe s line true poisonLine)

/-- DRAM_UE (R298): no access to the word's line completes; the record names no owner. -/
def execDramUe (dpa : Nat) (s : State) : Host.Outcome State Fault Refusal :=
  let l : L2Line := { die := dpaDie dpa, way := 24, line := dpa / 128, owner := 0xFF, dirty := false, rrpv := 0,
                      poison := true, hurt := none, leaving := false, dram := [] }
  .next (addRecord { s with mem := { s.mem with l2 := l :: s.mem.l2 } } (errRecord 4 0 0xFF 0 dpa))

/-- An error that ends the context of a unit is recorded with its owner (R298, R300). A procedure of a system core belongs to no context, so
that the record names none and none is terminated (log 20). -/
def endOwner (s : State) (x : QUnit) (kind struct : Nat) : State :=
  let r := errRecord kind struct (if x.isFirmware then 0xFF else x.ctx) 0 (Config.errLine s.tick)
  let s1 := addRecord { s with tick := s.tick + 1 } r
  if x.isFirmware then s1 else killContext s1 x.ctx

/-- WEIGHT_STORE_UE (R298): the region is poisoned and the reading unit's context terminated. Like every detection it waits while 16
records are held (R300). -/
def execWeightStoreUe (die off u : Nat) (s : State) : Host.Outcome State Fault Refusal :=
  match s.unit? u with
  | none => .next s
  | some x =>
    if 16 ≤ s.health.errlog.length then .next s
    else
    let h : Health := { s.health with wsPoison := ((die, off / 2 ^ 26) :: s.health.wsPoison).eraseDups }
    .next (endOwner { s with health := h } x 5 2)

/-- CORE_STATE_UE (R298): the context of the task that owns the state is terminated. -/
def execCoreStateUe (u : Nat) (s : State) : Host.Outcome State Fault Refusal :=
  match s.unit? u with
  | none => .next s
  | some x => .next (if 16 ≤ s.health.errlog.length then s else endOwner s x 6 3)

/-- ICACHE_UE (R298): the line is refetched, with no effect. -/
def execIcacheUe (_core _line : Nat) (s : State) : Host.Outcome State Fault Refusal := .next s

/-! ### Retirement -/

/-- A unit on a core that is retired is asked to leave it at its next pre-emption point, and resumes elsewhere (R280, R286, R301). -/
def evictUnit (s : State) (u : QUnit) : State := s.mapUnit u.uid fun x => { x with preempt := true }

/-- Retire a core (R25, R301). -/
def retireCore (s : State) (core : Nat) : State :=
  if 384 ≤ core || s.health.badCores.contains core then s
  else
    let s1 : State := { s with health := { s.health with badCores := core :: s.health.badCores, replace := true } }
    raiseAlert ((s1.units.filter fun u => u.core = core).foldl evictUnit s1) "core retired"

/-- CORE_RETIRE (R301). -/
def execCoreRetire (core : Nat) (s : State) : Host.Outcome State Fault Refusal := .next (retireCore s core)

/-- DIE_RETIRE (R301): the die leaves the partitions that held it. -/
def execDieRetire (die : Nat) (s : State) : Host.Outcome State Fault Refusal :=
  if 4 ≤ die || s.health.badDies.contains die then .next s
  else
    let s1 : State := { s with
      health := { s.health with badDies := die :: s.health.badDies, replace := true },
      ctxs := s.ctxs.map fun c => { c with dies := c.dies.filter fun d => d ≠ die } }
    .next (raiseAlert ((s1.units.filter fun u => u.core < 384 && coreDie u.core = die).foldl evictUnit s1) "die retired")

/-- The physical rows of an array that repair has mapped out so far. -/
def failedRows (h : Health) (core arr : Nat) : List Nat :=
  match h.repairs.find? fun r => r.1 = core && r.2.1 = arr with
  | some r => r.2.2
  | none => []

/-- ROW_REPAIR (R202): the logical rows go onto healthy physical rows; more than four failed rows retire the core (R25). -/
def execRowRepair (core arr : Nat) (failed : List Nat) (s : State) : Host.Outcome State Fault Refusal :=
  if 384 ≤ core || 2 ≤ arr then .next s
  else
    let rows := ((failed.filter fun r => r < 68) ++ failedRows s.health core arr).eraseDups
    let reps := (core, arr, rows) :: s.health.repairs.filter fun r => !(r.1 = core && r.2.1 = arr)
    let used := (reps.filter fun r => coreDie r.1 = coreDie core).foldl (fun n r => n + min 4 r.2.2.length) 0
    let s1 : State := { s with health := { s.health with repairs := reps, replace := s.health.replace || 768 ≤ used } }
    let s2 := if s1.health.replace && !s.health.replace then raiseAlert s1 "spare rows used up" else s1
    .next (if 4 < rows.length then retireCore s2 core else s2)

/-! ### Control registers -/

/-- A privilege level is at least another (R279). -/
def Priv.atLeast : Priv → Priv → Bool
  | _, .user => true
  | .supervisor, .supervisor => true
  | .system, _ => true
  | _, _ => false

/-- The levels that R294 gives for reading and writing a register; `none` for an unassigned number. -/
def csrLevels (n : Nat) : Option (Option Priv × Option Priv) :=
  match n with
  | 0x000 => some (some .user, none)
  | 0x001 => some (some .user, none)
  | 0x011 => some (some .supervisor, some .supervisor)
  | 0x012 => some (some .supervisor, some .supervisor)
  | 0x100 => some (some .supervisor, some .system)
  | 0x101 => some (some .system, some .system)
  | 0x102 => some (some .system, some .system)
  | 0x103 => some (none, some .system)
  | 0x104 => some (none, some .system)
  | 0x105 => some (none, some .system)
  | _ => none

/-- The level above the task's that a control-register access needs, if it does (R295, order 1). -/
def csrPriv (p : Priv) (v : Word) (write : Bool) : Bool :=
  match csrLevels (v.extractLsb' 0 12).toNat with
  | none => false
  | some (r, w) => match (if write then w else r) with
    | none => false
    | some l => !p.atLeast l

/-- A trigger above the task's level (R279, R292, R296): rft outside a handler, csrr and csrw by their register, tlbi. -/
def privFault (s : State) (port : Nat) (v : Word) : Bool :=
  match port with
  | 94 => !(s.cur.kind = .handler || s.cur.kind = .errorEntry)
  | 95 => csrPriv s.cur.priv v false
  | 96 => csrPriv s.cur.priv v true
  | 97 => !s.cur.priv.atLeast .supervisor
  | _ => false

/-- Change the context of the unit in focus; a system core's procedure has none (R294; log 20). -/
def State.mapOwnCtx (s : State) (f : Ctx → Ctx) : State := if s.cur.isFirmware then s else s.mapCtx s.cur.ctx f

/-- CSRR (R295). A procedure of a system core has no context, so PTROOT and TVEC read as 0 there (log 20). -/
def trigCsrr (c : Trig) (a : Acc) : Except Halt Acc :=
  let n := (c.val.extractLsb' 0 12).toNat
  let s := c.s0
  let out : Word → Except Halt Acc := fun v => .ok (a.result 1 67 v Flags.none)
  if !highZero c.val 12 then c.fault .illegal 0
  else match n with
    | 0x000 => out c.t.fmt.word
    | 0x001 => out c.t.tstat.word
    | 0x011 => out (if s.cur.isFirmware then 0 else s.curCtx.ptroot)
    | 0x012 => out (if s.cur.isFirmware then 0 else s.curCtx.tvec)
    | 0x100 => realTime c a 67 (healthWord s.health)
    | 0x101 => out (errlogWord s.health)
    | 0x102 => out s.mem.einj
    | _ => c.fault .illegal 0

/-- A value that PTROOT may have (R294). -/
def ptrootOk (v : Word) : Bool := highZero v 40 && v.extractLsb' 0 21 = 0

/-- CSRW (R295), performed at the end of the LIW. -/
def trigCsrw (c : Trig) (a : Acc) : Except Halt Acc :=
  let n := (c.val.extractLsb' 0 12).toNat
  let v := c.opA 64
  let set : Bool → (State → State) → Except Halt Acc := fun ok f => if ok then .ok (a.mapSt f) else c.fault .illegal 0
  if !highZero c.val 12 then c.fault .illegal 0
  else match n with
    | 0x011 => set (ptrootOk v) fun s => s.mapOwnCtx fun x => { x with ptroot := v }
    | 0x012 => set true fun s => s.mapOwnCtx fun x => { x with tvec := v }
    | 0x100 => set (devHealthOk v) fun s => writeDevHealth s v
    | 0x101 => set (errlogOk v) fun s => writeErrlog s v
    | 0x102 => set (einjOk v) fun s => writeEinj s v
    | 0x103 => set (l2quarOk v) fun s => doL2quar s v
    | 0x104 => set (pretireOk v) fun s => doPretire s v
    | 0x105 => set (ctxkillOk v) fun s => doCtxkill s v
    | _ => c.fault .illegal 0

/-- The cached translations that a TLBI drops (R296). -/
def tlbiHits (cid : Nat) (all : Bool) (va : Nat) (t : TlbEntry) : Bool :=
  t.ctx = cid && (all || t.page = va / (if t.big then 2 ^ 25 else 2 ^ 16))

/-- LS: LA is a DEVICE address. -/
def Block.dev (b : Block) : Bool := b.flags.getLsbD 0
/-- FMT. -/
def Block.fmt (b : Block) : Nat := (b.flags.extractLsb' 1 2).toNat
/-- OP. -/
def Block.op (b : Block) : Nat := (b.flags.extractLsb' 3 2).toNat
/-- ALL. -/
def Block.all (b : Block) : Bool := b.flags.getLsbD 5

/-- The bytes at LA that a command reads or writes (R331). -/
def Block.bytes (b : Block) : Nat :=
  match b.kind with
  | 0 => b.n
  | 1 => b.n
  | 2 => b.n * (if 2 ≤ b.op then 8 else 4)
  | 3 => b.n * (if b.fmt = 1 then 2 else 4)
  | _ => 0

/-- A unit is active, so that agents may fill its queues and its scratchpad (R162, R163, R332). -/
def QUnit.active (u : QUnit) : Bool :=
  match u.status with
  | .ready => true
  | .waiting _ => true
  | _ => false

/-- The DEVICE bytes that a command reads, by their addresses. -/
def Cmd.devReads (c : Cmd) : List (Nat × Nat) :=
  match c.kind with
  | .copy .device _ sa _ sl _ _ => layoutRanges sa sl
  | .wsload sa _ n => [(sa.toNat, n)]
  | .braid b => if b.dev && b.kind ≠ 1 && b.bytes ≠ 0 then [(b.la.toNat, b.bytes)] else []
  | _ => []

/-- The DEVICE bytes that a command writes, by their addresses. -/
def Cmd.devWrites (c : Cmd) : List (Nat × Nat) :=
  match c.kind with
  | .copy _ .device _ da _ dl none => layoutRanges da dl
  | _ => []

/-- DPA ranges found anew for an access of a unit; those of before where the table refuses it now (log 24). -/
def State.rewalk (s : State) (u : QUnit) (a : Access) (vas old : List (Nat × Nat)) : List (Nat × Nat) :=
  match vas, s.ctx? u.ctx with
  | [], _ => old
  | _, none => old
  | _, some x => ((devRanges s.mem s.board.slots s.tick u.core x a (u.priv = .user) vas).toOption).getD old

/-- The accesses that a pending command has still to make are translated anew (R214, R296). -/
def State.rewalkCmd (s : State) (u : QUnit) (c : Cmd) : Cmd :=
  { c with src := if c.up && !c.late then c.src else s.rewalk u .read c.devReads c.src, dst := s.rewalk u .write c.devWrites c.dst }

/-- A unit has an access outstanding that has been translated: a load, or the data of a command that it waits for (R221, R174). -/
def QUnit.accessing (u : QUnit) : Bool :=
  !u.task.loads.isEmpty || (u.active && u.task.cmds.any fun c => c.up && c.late && c.fetched && !c.src.isEmpty)

/-- Every access of the context that used a cached translation has been performed (R296): loads, stores, the reads of its commands. What a
command has not accessed yet stands still meanwhile and uses no translation of before (`dropTlb`, log 24). -/
def ctxQuiet (s : State) (cid : Nat) : Bool :=
  (s.units.all fun u => u.ctx ≠ cid || !u.accessing) && s.mem.writes.all fun w => w.ctx ≠ cid || w.homed.isSome

/-- A TLBI drops the translations in its scope (R296); what the context's pending commands still access is translated by the table as it
then stands. -/
def State.dropTlb (s : State) (cid : Nat) (all : Bool) (va : Nat) : State :=
  let s1 : State := { s with mem := { s.mem with tlb := s.mem.tlb.filter fun t => !tlbiHits cid all va t } }
  let f : QUnit → QUnit := fun u =>
    if u.ctx = cid && !u.isFirmware then { u with task := { u.task with cmds := u.task.cmds.map (s1.rewalkCmd u) } } else u
  { s1 with cur := f s1.cur, parked := s1.parked.map f }

/-- TLBI (R296). -/
def trigTlbi (c : Trig) (a : Acc) : Except Halt Acc :=
  if !highZero c.val 1 then c.fault .illegal 0
  else if !(writesApplied c.s0.mem c.s0.cur .pkg && ctxQuiet c.s0 c.s0.cur.ctx) then .ok (a.hold .tlbi)
  else .ok (a.mapSt fun s => s.dropTlb s.cur.ctx (c.val = 1) (c.opA 64).toNat)

/-- SYSCALL (R293). -/
def trigSyscall (c : Trig) (a : Acc) : Except Halt Acc :=
  if !highZero c.val 16 then c.fault .illegal 0
  else .ok { a with after := .syscall (c.opA 64) c.val.toNat }

/-- RFT (R292); in an error entry its value must be 0 (R303). -/
def trigRft (c : Trig) (a : Acc) : Except Halt Acc :=
  if c.s0.cur.kind = .errorEntry then
    if c.val ≠ 0 then c.fault .illegal 0 else .ok { a with after := .ended }
  else if !highZero c.val 1 then c.fault .illegal 0
  else if quiet? c.t then .ok { a with after := .rft (c.val = 0) }
  else .ok (a.hold .rft)

/-! ### Switching tasks -/

/-- PREEMPTION_REQUEST (R280). -/
def execPreemptionRequest (u : Nat) (s : State) : Host.Outcome State Fault Refusal :=
  .next (s.mapUnit u fun x => { x with preempt := true })

/-- A wait before which a task may be switched out (R280). -/
def Wait.yields : Wait → Bool
  | .join => true
  | .barrier => true
  | .qwait => true
  | .bwait => true
  | _ => false

/-- Another resident unit could issue on the core (R149, R280). -/
def rivalOn (s : State) (u : QUnit) : Bool :=
  s.units.any fun x => x.core = u.core && x.uid ≠ u.uid && match x.status with
    | .out _ => true
    | _ => false

/-- Where the unit in focus may be switched out now (R280), and the status it leaves with. -/
def switchPoint (s : State) : Option UnitStatus :=
  if !s.on || s.cur.isFirmware || s.loading || s.cur.lag ≠ 0 || endsDue s.task then none
  else match s.cur.status with
    | .ready => if s.cur.preempt && s.cur.atPoint then some (.out none) else none
    | .waiting (.call _) => none
    | .waiting (.syscall _) => none
    | .waiting (.leave _) => none
    | .waiting (.unit n keep top) => if s.cur.preempt && s.cur.atPoint then some (.out (some (.unit n keep top))) else none
    | .waiting w =>
      if w.yields && rivalOn s s.cur then some (.out (some w))
      else if s.cur.preempt && s.cur.atPoint then some (.out none) else none
    | _ => none

/-- SWITCH_OUT (R281). -/
def execSwitchOut (s : State) : Host.Outcome State Fault Refusal :=
  match switchPoint s with
  | none => .next s
  | some st => .next (switchOutTo s st)

/-- The units that leave a core with one: a handler takes the unit it serves along (R288). -/
def movesWith (u x : QUnit) : Bool := x.uid = u.uid || u.serves = some x.uid

/-- The numbers of the arrival entries of a unit, and of one that leaves its core with it, are free on another core (R285, R334). -/
def arrivalsFree (s : State) (u : QUnit) (k : Nat) : Bool :=
  !s.units.any fun x => x.core = k && !movesWith u x && x.task.arrivals.any fun a =>
    (s.units.filter (movesWith u)).any fun y => y.task.arrivals.any fun b => b.e = a.e

/-- A unit's image may be restored on another core (R24, R285, R286): a healthy one that hosts its logical core, with room. -/
def mayMigrate (s : State) (u : QUnit) (k : Nat) : Bool :=
  k ≠ u.core && !coreBusy s k && arrivalsFree s u k && match s.ctx? u.ctx, s.launchOf u with
    | some c, some l => hostsUnit s c l u.index k && roomFor s k u.task.f 0
    | _, _ => false

/-- The cores on which a unit may be resumed now (R24, R285, R286): its own while that is healthy, first, then any other that its
image may be restored on. -/
def resumeCores (s : State) (u : QUnit) : List Nat :=
  match u.status, u.cancel with
  | .out _, false => (if coreHealthy s u.core && !coreBusy s u.core then [u.core] else []) ++ (List.range 384).filter (mayMigrate s u)
  | _, _ => []

/-- Where a unit is resumed: which of the cores takes it is Confluence's and SYSTEM's choice, free here (log 9). -/
def canResume (s : State) (u : QUnit) : Option Nat := (resumeCores s u)[Config.resumeAt s.tick % (resumeCores s u).length]?

/-- A unit's footprint, with the unit whose handler it is, goes to another core (R286): the bytes it leaves stay behind (R258). -/
def migrate (s : State) (u : QUnit) (k : Nat) : State :=
  let ps := placeFoot s k u.task.f
  let m := clearResidue (leaveResidue s.mem u) k ps u.task.f
  { s with mem := m,
           parked := s.parked.map fun x => if movesWith u x then
             { x with core := k, pages := ps, lcore := if x.task.dl0 then k else x.lcore } else x }

/-- How a unit goes on when it is resumed: its next LIW comes up, or the unit of its CALLR is performed (R320). -/
def QUnit.resumed (u : QUnit) : UnitStatus :=
  match u.status with
  | .out (some (.unit n keep top)) => .waiting (.unit n keep top)
  | _ => .ready

/-- UNIT_RESUME (R285). An image of another version or part would be refused. -/
def execUnitResume (uid : Nat) (s : State) : Host.Outcome State Fault Refusal :=
  match s.unit? uid with
  | none => .next s
  | some u => match canResume s u with
    | none => .next s
    | some k =>
      if !unitImageOk (imageHead u) then
        let f : FaultInfo := { code := .illegal, tval := 0, bus := 0xFF }
        .next (terminate (s.mapUnit uid fun x => { x with trap := some (f, x.task.sq.pc) }) uid)
      else
        let s1 := if k = u.core then s else migrate s u k
        .next (s1.mapUnit uid fun x => { x with status := x.resumed, task := rebindAll x.task })

/-- EDDY_WRITE (R282): the Eddy's entries that are due at the end of this τ stand first among its writes. -/
def execEddyWrite (s : State) : Host.Outcome State Fault Refusal :=
  if !s.on then .next s
  else .next (s.mapTask fun t =>
    let due := t.eddy.filter fun e => e.ready ≤ t.sq.tau + 1
    let res := due.filterMap fun e => match e.val with
      | .result p => some p
      | .fmt _ => none
    let fmts := due.filterMap fun e => match e.val with
      | .fmt v => some (e.ready, v)
      | .result _ => none
    { t with eddy := t.eddy.filter (fun e => t.sq.tau + 1 < e.ready), pipe := res ++ t.pipe, fmtPend := fmts ++ t.fmtPend })

/-- A unit whose LIW has issued that ends, traps or yields it (R273, R274, R291). -/
def QUnit.leaving (u : QUnit) : Bool :=
  match u.status with
  | .waiting (.leave _) => true
  | _ => false

/-- A cancelled unit stands where it is terminated (R272). -/
def terminable (u : QUnit) : Bool :=
  u.cancel && !u.leaving && (u.atPoint || match u.status with
    | .out _ => true
    | .trapped => true
    | .waiting w => w.yields
    | _ => false)

/-- UNIT_TERMINATE (R272, R290). -/
def execUnitTerminate (uid : Nat) (s : State) : Host.Outcome State Fault Refusal :=
  match s.unit? uid with
  | none => .next s
  | some u => if terminable u then .next (terminate s uid false) else .next s

/-- SYSTEM's answer to a SYSCALL (R293). -/
def syscallValue (s : State) (service : Nat) : Word :=
  match service with
  | 0 => 0
  | 1 => if s.task.dl0 then healthWord s.health else 0
  | _ => BitVec.allOnes 64

/-- SYSCALL_ANSWER (R293): ctl.y is written and the core resumes issue. -/
def execSyscallAnswer (s : State) : Host.Outcome State Fault Refusal :=
  match s.on, s.cur.status with
  | true, .waiting (.syscall n) =>
    let v := syscallValue s n
    let s1 := s.mapTask fun t =>
      let t1 : Task := { t with ports := t.ports.setA 67 v }
      if n = 1 && !t.dl0 then t1.setTaint else t1
    .next { s1 with cur := { s1.cur with status := .ready, answer := some v } }
  | _, _ => .next s

end Sys2Proof.Machine
end

