-- ==== Sys2Proof/Machine/Braid.lean ====
section
/-! DEFINITION. The Braid fabric (R326 to R339): the triggers BSEND, BFETCH, BRED, BEXP, BWAIT, BGRAD and BSUB, the
snapshots, and what this package's receivers do with puts, fetches, reductions and statuses. -/

namespace Sys2Proof.Machine

/-! ### Ranks and routes -/

/-- A context's Braid tables (R328). -/
def Ctx.tab (c : Ctx) : BraidTab :=
  c.braid.getD { rank := 0, ranks := 0, pkgOf := [], windows := [], groups := [], shards := [] }

/-- The package of a rank (R328); a rank the map leaves out stands on this package. -/
def BraidTab.pkg (b : BraidTab) (r : Nat) : Option Nat := if r = b.rank then none else b.pkgOf[r]?

/-- A rank stands on this package. -/
def BraidTab.here (b : BraidTab) (r : Nat) : Bool := b.pkg r = none || b.pkg r = b.pkgOf[b.rank]?

/-- The package of a rank has been declared failed (R346). -/
def State.lost (s : State) (b : BraidTab) (r : Nat) : Bool :=
  match b.pkg r with
  | none => false
  | some p => !b.here r && s.fabric.failed.contains p

/-- The Braid version that the route to a package carries (R326). -/
def routeVersion (s : State) (pkg : Nat) : Nat :=
  let r := Config.route pkg
  match s.fabric.ports.find? fun p => p.1 = r.1 with
  | some p => min p.2 r.2
  | none => 0

/-- The route to a rank carries an operation of a version (R326). -/
def carries (s : State) (b : BraidTab) (r v : Nat) : Bool :=
  b.here r || match b.pkg r with
    | some p => v ≤ routeVersion s p
    | none => true

/-- The version that a message of the update rules needs of the route it takes, which the check of R331 at its enqueue may not have seen:
BGRAD and BSUB on their way to a promoted mirror, mirroring, weight return (R326). -/
def msgVersion : Msg → Nat
  | .forward _ _ _ _ _ _ _ _ => 3
  | .weights _ _ _ _ _ _ _ _ _ _ => 3
  | .grad _ _ _ _ _ _ => 3
  | .subscribe _ _ _ _ _ _ _ _ _ _ => 3
  | .confirm _ _ _ _ _ => 3
  | _ => 0

/-- The flits that carry some bytes, 224 to a flit (R327). -/
def flitsOf (n : Nat) : Nat := max 1 ((n + 223) / 224)

/-- The data bytes that a message carries. -/
def msgData : Msg → Nat
  | .put _ _ _ _ _ bytes => bytes.length
  | .fetched _ _ _ _ _ _ bytes => bytes.length
  | .bred _ _ _ _ _ _ _ _ _ _ bytes => bytes.length
  | .deliver _ _ _ _ _ _ _ _ bytes => bytes.length
  | .grad _ _ _ _ _ g => 4 * g.length
  | .forward _ _ _ _ _ _ g hyp => 4 * g.length + hyp.length
  | .weights _ _ _ _ _ _ _ _ _ bytes => bytes.length
  | _ => 0

/-- The nJ of a message's flits (R359, log 19). -/
def flitEnergy (m : Msg) : Nat := energyOf [(4, flitsOf (msgData m))]

/-- Send a message of a context to a rank: into this package's own inbox, or out of it. What needs a version waits for a
route that carries it (R326, log 28). -/
def emit (s : State) (cid dst : Nat) (m : Msg) : State :=
  let b := match s.ctx? cid with
    | some c => c.tab
    | none => { rank := 0, ranks := 0, pkgOf := [], windows := [], groups := [], shards := [] }
  let f := s.fabric
  if b.here dst then { s with fabric := { f with inbox := f.inbox ++ [{ msg := m, again := 0, begun := none }] } }
  else if msgVersion m ≠ 0 && !carries s b dst (msgVersion m) then { s with fabric := { f with stuck := f.stuck ++ [(cid, dst, m)] } }
  else ({ s with fabric := { f with outbox := f.outbox ++ [((b.pkg dst).getD 0, m)] } }).addEnergy cid agentCore 5 (flitEnergy m)

/-- The origin of a message that belongs to a command. -/
def msgOrigin : Msg → Option Origin
  | .put o _ _ _ _ _ => some o
  | .fetch o _ _ _ _ _ _ _ _ => some o
  | .fetched o _ _ _ _ _ _ => some o
  | .bred o _ _ _ _ _ _ _ _ _ _ => some o
  | .status o _ _ _ => some o
  | .grad o _ _ _ _ _ => some o
  | .subscribe o _ _ _ _ _ _ _ _ _ => some o
  | _ => none

/-- A message belongs to command `o`. -/
def msgIsOf (o : Origin) (m : Msg) : Bool := msgOrigin m = some o

/-- Send the status of a command to its sender (R333). -/
def tell (s : State) (o : Origin) (code : Nat) (f : Flags := Flags.none) : State :=
  emit s o.ctx o.rank (.status o code f.nv f.ovf)

/-- The ranks a command needs, the primary of its shard or the lowest of its group among them. -/
def msgTarget : Msg → Nat
  | .put _ dst _ _ _ _ => dst
  | .fetch _ dst _ _ _ _ _ _ _ => dst
  | .bred _ _ _ _ _ _ _ _ _ members _ => members.headD 0
  | .grad _ dst _ _ _ _ => dst
  | .subscribe _ dst _ _ _ _ _ _ _ _ => dst
  | _ => 0

/-- No mirror (R340). -/
def noMirror : Nat := 0xFFFFFFFF

/-- The shard map after a package's failure: a live mirror becomes the primary, a lost mirror is none (R346). -/
def failShard (lost : Nat → Bool) (sh : ShardMap) : ShardMap :=
  if lost sh.pri then (if sh.mir ≠ noMirror && !lost sh.mir then { sh with pri := sh.mir, mir := noMirror } else sh)
  else if sh.mir ≠ noMirror && lost sh.mir then { sh with mir := noMirror } else sh

/-- A context whose shard map knows of the failed packages (R346). -/
def State.knowing (s : State) (c : Ctx) : Ctx :=
  { c with braid := c.braid.map fun t => { t with shards := t.shards.map (failShard (s.lost c.tab)) } }

/-- Every rank that a kept message needs. -/
def needs : Msg → List Nat
  | .bred _ _ _ _ _ _ _ _ _ members _ => members
  | m => [msgTarget m]

/-- A command with its shard's present primary as its receiver (R346). -/
def retarget (c : Ctx) : Msg → Msg
  | .grad o dst sid step blk g => .grad o ((c.shard? sid).elim dst fun sh => sh.pri) sid step blk g
  | .subscribe o dst node sid win doff stepOff fmt tag mirror =>
    .subscribe o ((c.shard? sid).elim dst fun sh => sh.pri) node sid win doff stepOff fmt tag mirror
  | m => m

/-- An earlier command of a context to a lost node is still kept: it is resent when the failure is notified, and what follows it with it,
so that their order holds (R346, R350). -/
def State.resends (s : State) (c : Ctx) : Bool := c.resend.any fun m => (needs m).any (s.lost c.tab)

/-- A context's command leaves for its destination and is kept until it has a status (R342). Where the destination is lost
it goes to the shard's promoted mirror, after what is to be resent there; UNREACH when there is none (R333, R346). -/
def postCommand (s : State) (o : Origin) (m0 : Msg) : State :=
  match s.ctx? o.ctx with
  | none => s
  | some c =>
    let m := if s.lost c.tab (msgTarget m0) then retarget (s.knowing c) m0 else m0
    let keep : Msg → State := fun m => s.mapCtx o.ctx fun c => { c with resend := c.resend ++ [m], nextMsg := c.nextMsg + 1 }
    if (needs m).any (s.lost c.tab) then tell (keep m) o 8
    else if s.lost c.tab (msgTarget m0) && s.resends c then keep m0
    else emit (keep m) o.ctx (msgTarget m) m

/-! ### Command blocks -/

/-- Read a command block (R330). -/
def readBlock (m : Sparse 8) (kind ad : Nat) : Block :=
  { kind := kind, la := BitVec.ofNat 64 (readLe m (ad + 8) 8), doff := BitVec.ofNat 64 (readLe m (ad + 16) 8),
    cpl := BitVec.ofNat 64 (readLe m (ad + 24) 8), rank := readLe m (ad + 32) 4, n := readLe m (ad + 36) 4,
    blk := readLe m (ad + 40) 4, shard := readLe m (ad + 44) 4, win := readLe m (ad + 48) 2,
    tag := BitVec.ofNat 16 (readLe m (ad + 50) 2), flags := BitVec.ofNat 16 (readLe m (ad + 52) 2), round := 0 }

/-- The fields a kind marks 0 are 0, with FMT, OP and ALL where they are not its own (R330). -/
def Block.zeros (b : Block) : Bool :=
  b.flags.extractLsb' 6 10 = 0 && (match b.kind with
    | 0 => b.blk = 0 && b.shard = 0 && b.fmt = 0 && b.op = 0 && !b.all
    | 1 => b.blk = 0 && b.shard = 0 && b.fmt = 0 && b.op = 0 && !b.all
    | 2 => b.blk = 0 && b.shard = 0 && b.fmt = 0
    | 3 => b.rank = 0 && b.win = 0 && b.tag = 0 && b.op = 0 && !b.all && b.fmt < 2
    | _ => b.la = 0 && b.n = 0 && b.op = 0 && !b.all && b.fmt < 3)

/-- N is in range (R331, step 3); an unregistered shard is left to step 6. -/
def Block.countOk (b : Block) (c : Ctx) : Bool :=
  match b.kind with
  | 0 => 4 ≤ b.n && b.n ≤ 2 ^ 24 && b.n % 4 = 0
  | 1 => 4 ≤ b.n && b.n ≤ 2 ^ 24 && b.n % 4 = 0
  | 2 => 1 ≤ b.n && b.n ≤ 65536
  | 3 => match c.shard? b.shard with
    | some sh => b.n = sh.b
    | none => true
  | _ => true

/-- The alignment of LA (R331, step 4). -/
def Block.align (b : Block) : Nat := if b.kind = 2 && 2 ≤ b.op then 8 else 4

/-- The version an operation needs (R326). -/
def Block.version (b : Block) : Nat :=
  match b.kind with
  | 2 => if 2 ≤ b.op then 2 else 1
  | 3 => 3
  | 4 => 3
  | _ => 1

/-- The members of a group (R328). -/
def Ctx.group (c : Ctx) (g : Nat) : Option (List Nat) := (c.tab.groups.find? fun x => x.1 = g).map fun x => x.2

/-- What a failing step 6 of R331 names, if it fails. -/
def Block.fabricFault (s : State) (c : Ctx) (b : Block) : Option Nat :=
  let t := c.tab
  let route : Nat → Bool := fun r => carries s t r b.version
  match b.kind with
  | 2 => match c.group b.rank with
    | none => some b.rank
    | some ms => if ms.all route then none else some b.rank
  | 3 => match c.shard? b.shard with
    | none => some b.shard
    | some sh => if route sh.pri then none else some b.shard
  | 4 =>
    if t.ranks ≤ b.rank then some b.rank
    else if (c.shard? b.shard).isNone then some b.shard
    else if route b.rank then none else some b.rank
  | _ => if t.ranks ≤ b.rank || !route b.rank then some b.rank else none

/-- A command reads LA, and in LOCAL. -/
def Block.readsLocal (b : Block) : Bool := !b.dev && b.kind ≠ 1 && b.kind ≠ 4

/-- The five block instructions (R329 to R332): the checks of R331 in order, then the command is enqueued; a LOCAL source
is read now when the command starts now. -/
def trigBlock (kind : Nat) (c : Trig) (a : Acc) : Except Halt Acc :=
  let s := c.s0
  let x := s.curCtx
  if !highZero c.val 21 then c.fault .illegal 0
  else
    c.check (localFault c.t c.val 64 64)
      (let b := readBlock c.t.lmem kind c.val.toNat
       let at_ := BitVec.ofNat 64 (readLe c.t.lmem c.val.toNat 8)
       let spare := readLe c.t.lmem (c.val.toNat + 54) 10
       let la := b.la.toNat
       let rs := if b.bytes = 0 then [] else [(la, b.bytes)]
       if spare ≠ 0 || !b.zeros || !b.countOk x || b.cpl.toNat % 8 ≠ 0 then c.fault .illegal 0
       else if la % b.align ≠ 0 || (!b.dev && beyondSpace .local rs) then c.fault .alignCopy b.la
       else if !b.dev && notOwned s .local rs then c.fault .prot b.la
       else
         let mem := if b.dev then engineRanges s .device (if kind = 1 then .write else .read) rs else .ok []
         let cpl := if b.cpl = 0 then .ok [] else engineRanges s .device .write [(b.cpl.toNat, 8)]
         c.check (engineFault mem cpl b.la b.cpl)
           (match b.fabricFault s x with
            | some n => c.fault .fabric (BitVec.ofNat 64 n)
            | none =>
              if b.readsLocal && earlyRead c.t la b.bytes then c.fault .earlyRead b.la
              else if kind = 1 && !b.dev && hitsControl c.t la b.n then c.fault .queue 0
              else
                let start := startOf c.t at_
                let k := (x.rounds.find? fun r => r.1 = b.rank && r.2.1 = b.tag.toNat).elim 1 fun r => r.2.2 + 1
                let b1 : Block := if kind = 2 then { b with round := k } else b
                let cmd : Cmd := { Cmd.make a.st.task (.braid b1) start start with
                  src := mem.toOption.getD [],
                  data := if b.readsLocal && start ≤ c.t.sq.tau then readBytes c.t.lmem la b.bytes else [] }
                match enqueueCmd c a cmd with
                | .error h => .error h
                | .ok a1 =>
                  .ok (if kind = 2 then a1.mapSt fun s => s.mapCtx x.id fun y =>
                      { y with rounds := (b.rank, b.tag.toNat, k) :: y.rounds.filter fun r =>
                          !(r.1 = b.rank && r.2.1 = b.tag.toNat) }
                    else a1)))

/-! ### BEXP and BWAIT -/

/-- The arrival entries of the units on the core in focus (R334). -/
def coreArrivals (s : State) : List Arrival :=
  (s.units.filter fun u => u.core = s.cur.core).flatMap fun u => u.task.arrivals

/-- BEXP (R336). -/
def trigBexp (c : Trig) (a : Acc) : Except Halt Acc :=
  let p := c.opA 64
  let src := p.extractLsb' 0 32
  let tag := p.extractLsb' 32 16
  let count := c.val.extractLsb' 0 32
  let e := (c.val.extractLsb' 32 6).toNat
  let out : Acc → Word → Except Halt Acc := fun a y => .ok (a.result 1 67 y Flags.none)
  if !highZero p 48 || 16384 ≤ src.toNat || !highZero c.val 39 then c.fault .illegal 0
  else
    let own := c.t.arrivals.find? fun x => x.e = e
    if c.val.getLsbD 38 then
      match own with
      | some _ => out (a.mapTask fun t => { t with arrivals := t.arrivals.filter fun x => x.e ≠ e }) 1
      | none => out a 0
    else if !(coreArrivals c.s0).any (fun x => x.e = e)
        && !(ctxArrivals c.s0 c.s0.cur.ctx).any (fun x => x.src = src && x.tag = tag) then
      out (a.mapTask fun t => { t with arrivals := t.arrivals ++ [{ e := e, src := src, tag := tag, exp := count, arr := 0 }] }) 1
    else match own with
      | some x =>
        if x.src = src && x.tag = tag && x.exp.toNat + count.toNat < 2 ^ 32 then
          out (a.mapTask fun t => { t with arrivals := t.arrivals.map fun y =>
            if y.e = e then { y with exp := y.exp + count } else y }) 1
        else out a 0
      | none => out a 0

/-- The named entries of the unit that are short (R337). -/
def shortEntries (t : Task) (mask : Word) : Nat :=
  t.arrivals.foldl (fun n x => n + (if mask.getLsbD x.e && x.arr.toNat < x.exp.toNat then 2 ^ x.e else 0)) 0

/-- The deadline of a BWAIT has passed (R337). -/
def deadlinePassed (s : State) (d : Word) : Bool :=
  d ≠ 0 && match s.cur.since with
    | some g => g + d.toNat ≤ s.gcyc
    | none => false

/-- BWAIT (R337). -/
def trigBwait (c : Trig) (a : Acc) : Except Halt Acc :=
  let short := shortEntries c.t c.val
  if short ≠ 0 && !deadlinePassed c.s0 (c.opA 64) then .ok (a.hold .bwait)
  else
    let a1 := if short ≠ 0 && !c.t.dl0 then a.mapTask Task.setTaint else a
    .ok (a1.result 1 67 (BitVec.ofNat 64 short) Flags.none)

/-! ### Snapshots -/

/-- The converted size of a returned block (R345). -/
def returnSize (fmt b : Nat) : Nat := if fmt = 0 then 2 * b else b + b / 32

/-- The checks of a BSUB against its own window (R345): the failing status. -/
def subscribeCheck (c : Ctx) (b : Block) : Option Nat :=
  match c.shard? b.shard, c.window? b.win with
  | some sh, some (.region _ size) =>
    let k := sh.e / sh.b
    if size < b.doff.toNat + k * returnSize b.fmt sh.b || size < b.blk + 8 * k then some 5
    else if b.fmt ≠ 0 && sh.b < 32 then some 9
    else none
  | _, _ => some 6

/-- The message of a command with its snapshot. -/
def blockMsg (c : Ctx) (o : Origin) (uid : Nat) (b : Block) (bytes : List Byte) : Msg :=
  match b.kind with
  | 0 => .put o b.rank b.win b.doff b.tag bytes
  | 1 => .fetch o b.rank b.win b.doff b.n b.tag (!b.dev) b.la uid
  | 2 => .bred o b.rank b.round b.n b.op b.all b.win b.doff b.tag ((c.group b.rank).getD []) bytes
  | 3 =>
    let g := if b.fmt = 1 then (groupsOf 2 b.n bytes).map fun x => (cvt (BitVec.ofNat 32 (leNat x)) .bf16 .fp32 .rne false).1
      else lanesOf bytes
    .grad o ((c.shard? b.shard).elim 0 fun sh => sh.pri) b.shard b.doff.toNat b.blk g
  | _ => .subscribe o b.rank b.rank b.shard b.win b.doff b.blk b.fmt b.tag false

/-- The source of a command's snapshot (R332): as its LIW read it, LOCAL now, or DEVICE through the unit's view. -/
def snapshotBytes (s : State) (c : Cmd) (b : Block) : List Byte :=
  if c.data ≠ [] then c.data
  else if b.readsLocal then readBytes s.task.lmem b.la.toNat b.bytes
  else if b.kind = 1 then []
  else s.deviceBytes c.src

/-- A command is a put to a window of a rank. -/
def Cmd.putsTo (dst win : Nat) (c : Cmd) : Bool :=
  match c.kind with
  | .braid b => b.kind = 0 && b.rank = dst && b.win = win
  | _ => false

/-- A message is a put to a window of a rank. -/
def msgPutsTo (dst win : Nat) : Msg → Bool
  | .put _ d w _ _ _ => d = dst && w = win
  | _ => false

/-- A put of a unit's command must follow one that the unit has enqueued before it to the same window and that has not left (R333). -/
def putHeld (s : State) (uid k : Nat) : Msg → Bool
  | .put _ dst win _ _ _ =>
    ((s.unit? uid).any fun u => u.task.cmds.any fun c => c.id < k && c.putsTo dst win)
      || s.fabric.owed.any (fun x => x.1.uid = uid && x.2.id < k && x.2.putsTo dst win)
      || s.fabric.behind.any fun x => x.1 = uid && x.2.1 < k && msgPutsTo dst win x.2.2.2
  | _ => false

/-- The unit in focus sends command `c`, whose block is `b` (R332): its snapshot belongs to the fabric; a BFETCH into LOCAL stays pending;
a put waits for the unit's earlier ones to its window (R333). -/
def braidSend (s : State) (c : Cmd) (b : Block) : State :=
  let x := s.curCtx
  let o : Origin := { rank := x.tab.rank, ctx := x.id, task := s.cur.uid, id := x.nextMsg, cpl := b.cpl }
  let m := blockMsg x o s.cur.uid b (snapshotBytes s c b)
  let mem := if b.kind = 1 then s.mem else s.fetched c.src
  let u := c.src.foldl (fun (u : QUnit) (r : Nat × Nat) =>
    if b.kind = 1 then u else noteRead mem u (coreDie u.core) mem.nextW r.1 r.2) s.cur
  let t := if b.kind = 1 && !b.dev then
      u.task.mapCmd c.id fun y => { y with up := true, kind := .bfetch o.id b.la.toNat b.n }
    else u.task.dropCmd c.id
  let flits := if x.tab.here (msgTarget m) then 0 else flitEnergy m
  let s1 := ({ s with cur := { u with task := t, energy := meterAdd u.energy flits }, mem := mem } : State).charge 5 [(3, b.bytes)]
  let numbered : State := s1.mapCtx x.id fun y => { y with nextMsg := y.nextMsg + 1 }
  match (if b.kind = 4 then subscribeCheck x b else none) with
  | some st => tell (numbered.mapCtx x.id fun y => { y with resend := y.resend ++ [m] }) o st
  | none =>
    if putHeld s1 s.cur.uid c.id m then
      { numbered with fabric := { s1.fabric with behind := s1.fabric.behind ++ [(s.cur.uid, c.id, o, m)] } }
    else postCommand s1 o m

/-- BRAID_SNAPSHOT (R332): the command takes its snapshot and belongs to the fabric; a BFETCH into LOCAL stays pending. -/
def execBraidSnapshot (k : Nat) (s : State) : Host.Outcome State Fault Refusal :=
  match s.cmd? k with
  | none => .next s
  | some c =>
    match c.kind with
    | .braid b => .next (if !c.starts s.task.sq.tau || (b.kind ≠ 1 && sourceBlocked s c) then s else braidSend s c b)
    | _ => .next s

/-- A command of a terminated unit as the fabric performs it (R332): through the unit's view, as it stood. -/
def sendOwed (s : State) (x : QUnit × Cmd) : State :=
  let s1 : State := { s with fabric := { s.fabric with owed := s.fabric.owed.filter fun y => !(y.1.uid = x.1.uid && y.2.id = x.2.id) } }
  match x.2.kind with
  | .braid b => { braidSend { s1 with on := true, cur := x.1 } x.2 b with on := s.on, cur := s.cur }
  | _ => s1

/-- The fabric cannot read the source of a command that it has taken over now (R299, R332). -/
def owedBlocked (s : State) (x : QUnit × Cmd) : Bool := x.2.braidKind ≠ some 1 && sourceBlocked { s with on := true, cur := x.1 } x.2

/-- The first of the commands that the fabric has taken over which it can send: those of one unit in their order. -/
def firstOwed (s : State) (held : List Nat) : List (QUnit × Cmd) → Option (QUnit × Cmd)
  | [] => none
  | x :: xs => if held.contains x.1.uid || owedBlocked s x then firstOwed s (x.1.uid :: held) xs else some x

/-- What the fabric does at once with the commands it holds (R332, R333): a put follows when those before it have left, a command of a
terminated unit is sent. -/
def fabricOwn (s : State) : Option State :=
  match s.fabric.behind.find? fun x => !putHeld s x.1 x.2.1 x.2.2.2 with
  | some x =>
    some (postCommand { s with fabric := { s.fabric with behind := s.fabric.behind.filter fun y => !(y.1 = x.1 && y.2.1 = x.2.1) } } x.2.2.1 x.2.2.2)
  | none => (firstOwed s [] s.fabric.owed).map (sendOwed s)

/-! ### Arrivals -/

/-- Take message number `i` out of the inbox. -/
def State.takeMsg (s : State) (i : Nat) : State :=
  { s with fabric := { s.fabric with inbox := s.fabric.inbox.eraseIdx i } }

/-- A refused arrival is retried after 4,096 GCYC (R335). -/
def State.refuseMsg (s : State) (i : Nat) : State :=
  { s with fabric := { s.fabric with inbox :=
      (s.fabric.inbox.zip (List.range s.fabric.inbox.length)).map fun x =>
        if x.2 = i then { x.1 with again := s.gcyc + 4096 } else x.1 } }

/-- An entry of the context in this package holds (SRC, TAG) (R335). -/
def hasEntry (s : State) (cid src : Nat) (tag : BitVec 16) : Bool :=
  (ctxArrivals s cid).any fun a => a.src.toNat = src && a.tag = tag

/-- Count an arrival (R335). -/
def countArrival (s : State) (cid src : Nat) (tag : BitVec 16) : State :=
  let up : QUnit → QUnit := fun u =>
    if u.ctx = cid then
      { u with task := { u.task with arrivals := u.task.arrivals.map fun a =>
          if a.src.toNat = src && a.tag = tag then { a with arr := a.arr + 1 } else a } }
    else u
  { s with cur := if s.on then up s.cur else s.cur, parked := s.parked.map up }

/-- The resident unit whose latch a queue window names (R328, R335). -/
def queueUnit (s : State) (cid core j : Nat) : Option QUnit :=
  s.units.find? fun u => u.ctx = cid && u.kind = .user && u.lcore = core && (u.task.queue? j).isSome

/-- How an arriving write goes on: it is refused and retried, it waits for room, it fails with a status, its DEVICE writes are entered
(their numbers, and whether it counts as an arrival), or it is done. -/
inductive Landing where
  | refused
  | waits
  | failed (code : Nat)
  | entered (s : State) (ids : List Nat) (counts : Bool)
  | done (s : State)
  deriving DecidableEq, Repr

/-- A write into a region window that is an arrival (R333, R335). -/
def landRegion (s : State) (c : Ctx) (src win : Nat) (doff : Word) (tag : BitVec 16) (bytes : List Byte) : Landing :=
  match windowRange c win doff bytes.length with
  | .error st => .failed st
  | .ok va =>
    match ctxRanges s c va bytes.length .write with
    | .error _ => .failed 10
    | .ok rs =>
      if !hasEntry s c.id src tag then .refused
      else
        let p := agentStore s.health (agentWalked s c [(va, bytes.length)]) c.id [] (placeRanges rs bytes)
        .entered { s with mem := p.1 } p.2 true

/-- A put into a queue window (R162, R335, R338). -/
def landQueue (s : State) (c : Ctx) (src core j : Nat) (tag : BitVec 16) (bytes : List Byte) : Landing :=
  match queueUnit s c.id core j with
  | none => .refused
  | some u =>
    match u.task.queue? j with
    | none => .refused
    | some b =>
      let m := bytes.length / 2 ^ b.esz
      if bytes.length % 2 ^ b.esz ≠ 0 || b.depth < m then .failed 5
      else if b.depth - b.fill < m || !u.active then .waits
      else
        let s1 := s.mapUnit u.uid fun x =>
          { x with task := agentAdvance x.task b m (placeRanges (queueSlots b bytes.length) bytes),
                   origins := setLocal x.origins (queueSlots b bytes.length) [] }
        .done (countArrival s1 c.id src tag)

/-- A weight return (R345): data, then the step word; one that does not raise its step word is not counted, and one of an older step
than the word shows changes nothing (log 29); one that the window or the page table refuses is dropped. -/
def landWeights (s : State) (c : Ctx) (node win : Nat) (doff : Word) (stepOff step blk : Nat) (tag : BitVec 16)
    (bytes : List Byte) : Landing :=
  match windowRange c win (doff + BitVec.ofNat 64 (blk * bytes.length)) bytes.length,
      windowRange c win (BitVec.ofNat 64 (stepOff + 8 * blk)) 8 with
  | .ok va, .ok vs =>
    match ctxRanges s c va bytes.length .write, ctxRanges s c vs 8 .write with
    | .ok rs, .ok rw =>
      let old := leNat (homeRanges s.mem rw)
      if step < old then .failed 0
      else if old < step && !hasEntry s c.id node tag then .refused
      else
        let p := agentStore s.health (agentWalked s c [(va, bytes.length), (vs, 8)]) c.id [] (placeRanges rs bytes)
        let q := agentStore s.health p.1 c.id p.2 (placeRanges rw (natLe 8 step))
        .entered { s with mem := q.1 } (p.2 ++ q.2) (old < step)
    | _, _ => .failed 0
  | _, _ => .failed 0

/-- How an arriving write ends, by its message. -/
def landing (s : State) (c : Ctx) (m : Msg) : Landing :=
  match m with
  | .put o _ win doff tag bytes =>
    match c.window? win with
    | some (.queue core j) => landQueue s c o.rank core j tag bytes
    | _ => landRegion s c o.rank win doff tag bytes
  | .deliver _ m0 _ _ _ win doff tag bytes => landRegion s c m0 win doff tag bytes
  | .weights _ _ node win doff stepOff tag step blk bytes => landWeights s c node win doff stepOff step blk tag bytes
  | _ => .failed 0

/-- What the sender hears of a write that has ended (R333). -/
def landed (s : State) (m : Msg) (code : Nat) : State :=
  match m with
  | .put o _ _ _ _ _ => tell s o code
  | .deliver dst m0 ctx g r _ _ tag _ => emit s ctx m0 (.delivered m0 dst ctx g r tag code)
  | _ => s

/-- The source and the tag under which a message counts as an arrival (R335, R349). -/
def msgArrival : Msg → Option (Nat × BitVec 16)
  | .put o _ _ _ tag _ => some (o.rank, tag)
  | .deliver _ m0 _ _ _ _ _ tag _ => some (m0, tag)
  | .weights _ _ node _ _ _ tag _ _ _ => some (node, tag)
  | .fetched _ src tag _ _ _ _ => some (src, tag)
  | _ => none

/-- Count the arrival that a message is, if it is to be counted (R335). -/
def countMsg (s : State) (m : Msg) (counts : Bool) : State :=
  match msgArrival m with
  | some (src, tag) => if counts then countArrival s (msgCtx m) src tag else s
  | none => s

/-- Message number `i` has entered its writes. -/
def State.beginMsg (s : State) (i : Nat) (ids : List Nat) (counts : Bool) : State :=
  { s with fabric := { s.fabric with inbox :=
      (s.fabric.inbox.zip (List.range s.fabric.inbox.length)).map fun x =>
        if x.2 = i then { x.1 with begun := some (ids, counts) } else x.1 } }

/-- The writes that a message has entered are applied at PKG scope (R333). -/
def storesApplied (m : Memory) (ids : List Nat) : Bool := ids.all fun i => !m.writes.any fun w => w.id = i

/-- A receiver meets message number `i`, a write (R333, R335): it enters the writes, and once they are applied counts the arrival. -/
def receiveWrite (s : State) (i : Nat) (x : InMsg) : State :=
  match s.ctx? (msgCtx x.msg) with
  | none => s.takeMsg i
  | some c => match x.begun with
    | some (ids, counts) => if storesApplied s.mem ids then landed ((countMsg s x.msg counts).takeMsg i) x.msg 1 else s
    | none => match landing s c x.msg with
      | .refused => s.refuseMsg i
      | .waits => s
      | .failed code => landed (s.takeMsg i) x.msg code
      | .entered s1 ids counts => s1.beginMsg i ids counts
      | .done s1 => landed (s1.takeMsg i) x.msg 1

/-- A command has its status: it leaves the resend store, and its completion word is written (R333). -/
def finishCommand (s : State) (o : Origin) (word : Nat) : State :=
  match s.ctx? o.ctx with
  | none => s
  | some c =>
    if !c.resend.any (msgIsOf o) then s
    else
      let s1 := s.mapCtx o.ctx fun c => { c with resend := c.resend.filter fun m => !msgIsOf o m }
      writeWord s1 c o.cpl.toNat word

/-- The pending BFETCH of a message in a unit. -/
def QUnit.fetching (u : QUnit) (id : Nat) : Option Cmd :=
  u.task.cmds.find? fun c => match c.kind with
    | .bfetch m _ _ => m = id
    | _ => false

/-- The bytes of a BFETCH land (R332, R333, R335). -/
def receiveFetched (s : State) (i : Nat) (o : Origin) (src : Nat) (tag : BitVec 16) (toLocal : Bool) (la : Word) (unit : Nat)
    (bytes : List Byte) (begun : Option (List Nat × Bool)) : State :=
  match s.ctx? o.ctx with
  | none => s.takeMsg i
  | some c =>
    match begun with
    | some (ids, _) =>
      if storesApplied s.mem ids then finishCommand (countArrival (s.takeMsg i) o.ctx src tag) o 1 else s
    | none =>
    if toLocal then
      match s.unit? unit with
      | none => s.takeMsg i
      | some u => match u.fetching o.id with
        | none => s.takeMsg i
        | some k =>
          if !u.active then s
          else if !hasEntry s o.ctx src tag then s.refuseMsg i
          else
            let s1 := s.mapUnit unit fun x =>
              { x with task := { x.task with lmem := writeBytes x.task.lmem la.toNat bytes }.dropCmd k.id,
                       origins := setLocal x.origins [(la.toNat, bytes.length)] [] }
            finishCommand (countArrival (s1.takeMsg i) o.ctx src tag) o 1
    else if !hasEntry s o.ctx src tag then s.refuseMsg i
    else match ctxStore s c [] la.toNat bytes with
      | none => finishCommand (s.takeMsg i) o 10
      | some p => p.1.beginMsg i p.2 true

/-- The order that holds among messages (R333, R343, R345, R350): those with one key are met in the order of arrival. -/
def msgStream : Msg → Option (Nat × Nat × Nat × Nat)
  | .put o _ win _ _ _ => some (0, o.rank, o.task, win)
  | .weights _ ctx node win _ _ _ _ _ _ => some (1, ctx, node, win)
  | .grad o dst _ _ _ _ => some (2, o.rank, o.task, dst)
  | .subscribe o dst _ sid _ _ _ _ _ mirror => if mirror then some (3, o.ctx, sid, dst) else some (2, o.rank, o.task, dst)
  | .forward dst _ ctx sid _ _ _ _ => some (3, ctx, sid, dst)
  | _ => none

/-- Message number `i` of the inbox with its retry time, when nothing that it must follow stands before it and it can be met. -/
def State.msg? (s : State) (i : Nat) : Option InMsg :=
  match s.fabric.inbox[i]? with
  | none => none
  | some m =>
    if (msgStream m.msg).isSome && (s.fabric.inbox.take i).any (fun x => msgStream x.msg = msgStream m.msg) then none
    else if (s.msgBlocked m).isSome then none
    else some m

/-- PUT_APPLY (R333, R335, R338): puts, BRED deliveries and weight returns. -/
def execPutApply (i : Nat) (s : State) : Host.Outcome State Fault Refusal :=
  match s.msg? i with
  | none => .next s
  | some m =>
    if m.again ≠ 0 then .next s
    else match m.msg with
      | .put .. => .next (receiveWrite s i m)
      | .deliver .. => .next (receiveWrite s i m)
      | .weights .. => .next (receiveWrite s i m)
      | _ => .next s

/-- BFETCH_LANDING (R332, R333, R335). -/
def execBfetchLanding (i : Nat) (s : State) : Host.Outcome State Fault Refusal :=
  match s.msg? i with
  | none => .next s
  | some m =>
    if m.again ≠ 0 then .next s
    else match m.msg with
      | .fetched o src tag toLocal la unit bytes => .next (receiveFetched s i o src tag toLocal la unit bytes m.begun)
      | _ => .next s

/-- ARRIVAL_RETRY (R335): a refused arrival comes again. -/
def execArrivalRetry (i : Nat) (s : State) : Host.Outcome State Fault Refusal :=
  match s.msg? i with
  | none => .next s
  | some m =>
    if m.again = 0 || s.gcyc < m.again then .next s
    else match m.msg with
      | .fetched o src tag toLocal la unit bytes => .next (receiveFetched s i o src tag toLocal la unit bytes m.begun)
      | _ => .next (receiveWrite s i m)

/-- BFETCH_SERVE (R333, R338): the bytes of a remote window are read and sent back. -/
def execBfetchServe (i : Nat) (s : State) : Host.Outcome State Fault Refusal :=
  match s.msg? i with
  | none => .next s
  | some m =>
    match m.msg with
    | .fetch o dst win doff n tag toLocal la unit =>
      let s1 := s.takeMsg i
      match s.ctx? o.ctx with
      | none => .next s1
      | some c => match windowRange c win doff n with
        | .error st => .next (tell s1 o st)
        | .ok va => match ctxRanges s c va n .read with
          | .error _ => .next (tell s1 o 10)
          | .ok rs => .next (emit { s1 with mem := agentTouch s.health (agentWalked s c [(va, n)]) c.id rs } o.ctx o.rank
              (.fetched o dst tag toLocal la unit (homeRanges s.mem rs)))
    | _ => .next s

/-! ### BRED -/

/-- Two pairs combine (R250). -/
def pairRule (mx : Bool) (a b : Word) : Word :=
  let x : Lane := a.extractLsb' 0 32
  let y : Lane := b.extractLsb' 0 32
  let lower : Word := if (a.extractLsb' 32 32).toNat ≤ (b.extractLsb' 32 32).toNat then a else b
  if isNan32 x && isNan32 y then lower
  else if isNan32 x then a
  else if isNan32 y then b
  else if x = y then lower
  else if (orderKey y < orderKey x) = mx then a else b

/-- One element of the fold in ascending rank (R339). -/
def foldElem (op : Nat) (cs : List Word) : Word × Flags :=
  match cs with
  | [] => (0, Flags.none)
  | c :: rest => rest.foldl (fun (p : Word × Flags) (x : Word) =>
      match op with
      | 0 =>
        let r := fpAdd .rne (lo32 p.1) (lo32 x)
        (r.1.setWidth 64, p.2.or r.2)
      | 1 => ((lo32 p.1 + lo32 x).setWidth 64, p.2)
      | 2 => (pairRule true p.1 x, p.2)
      | _ => (pairRule false p.1 x, p.2)) (c, Flags.none)

/-- The bytes and flags of a fold over the members' snapshots in ascending rank (R339). -/
def foldAll (op n : Nat) (snaps : List (List Byte)) : List Byte × Flags :=
  let z := if 2 ≤ op then 8 else 4
  let cols : List (List Word) := snaps.map fun b => (groupsOf z n b).map fun e => BitVec.ofNat 64 (leNat e)
  (List.range n).foldl (fun (p : List Byte × Flags) (i : Nat) =>
    let r := foldElem op (cols.map fun col => col.getD i 0)
    (p.1 ++ natLe z r.1.toNat, p.2.or r.2)) ([], Flags.none)

/-- A round is the one of these numbers. -/
def Round.is (r : Round) (ctx group round : Nat) (tag : BitVec 16) : Bool :=
  r.ctx = ctx && r.group = group && r.round = round && r.tag = tag

/-- Two contributions agree in N, OP, ALL, WIN and DOFF (R339). -/
def agree : Msg → Msg → Bool
  | .bred _ _ _ n op all win doff _ _ _, .bred _ _ _ n' op' all' win' doff' _ _ _ =>
    n = n' && op = op' && all = all' && win = win' && doff = doff'
  | _, _ => false

/-- The origins of a round's members. -/
def Round.origins (r : Round) : List Origin := r.got.filterMap msgOrigin

/-- Replace a round. -/
def State.mapRound (s : State) (ctx group round : Nat) (tag : BitVec 16) (f : Round → Round) : State :=
  { s with fabric := { s.fabric with rounds := s.fabric.rounds.map fun r => if r.is ctx group round tag then f r else r } }

/-- A round is over. -/
def State.dropRound (s : State) (ctx group round : Nat) (tag : BitVec 16) : State :=
  { s with fabric := { s.fabric with rounds := s.fabric.rounds.filter fun r => !r.is ctx group round tag } }

/-- The contribution of a rank. -/
def Round.of (r : Round) (rank : Nat) : Option Msg := r.got.find? fun m => match msgOrigin m with
  | some o => o.rank = rank
  | none => false

/-- The snapshot that a contribution carries. -/
def msgSnapshot : Msg → List Byte
  | .bred _ _ _ _ _ _ _ _ _ _ bytes => bytes
  | _ => []

/-- Fold a complete round and send its deliveries (R339). -/
def foldRound (s : State) (r : Round) : State :=
  match r.got.head? with
  | some (.bred o g k n op all win doff tag members bytes) =>
    let first : Msg := .bred o g k n op all win doff tag members bytes
    if !(members.all fun m => (r.of m).isSome) then s
    else if !r.got.all (agree first) then
      r.origins.foldl (fun (s : State) (o : Origin) => tell s o 7) (s.dropRound r.ctx r.group r.round r.tag)
    else
      let m0 := members.headD 0
      let res := foldAll op n (members.map fun m => ((r.of m).map msgSnapshot).getD [])
      let dests := if all then members else [m0]
      let s1 := s.mapRound r.ctx r.group r.round r.tag fun x => { x with flags := res.2, left := dests }
      dests.foldl (fun (s : State) (d : Nat) => emit s r.ctx d (.deliver d m0 r.ctx g k win doff tag res.1)) s1
  | _ => s

/-- The status of a round whose deliveries have all ended (R333): that of the failing delivery of lowest rank. -/
def Round.status (r : Round) : Nat :=
  match r.fails.foldl (fun (b : Option (Nat × Nat)) (x : Nat × Nat) => match b with
    | none => some x
    | some y => if x.1 < y.1 then some x else some y) none with
  | some x => x.2
  | none => 1

/-- A delivery has ended (R333, R339). -/
def endDelivery (s : State) (ctx group round src code : Nat) (tag : BitVec 16) : State :=
  let s1 := s.mapRound ctx group round tag fun r =>
    { r with left := r.left.filter (fun m => m ≠ src), fails := if code = 1 then r.fails else r.fails ++ [(src, code)] }
  match s1.fabric.rounds.find? fun r => r.is ctx group round tag with
  | none => s1
  | some r =>
    if r.left ≠ [] then s1
    else r.origins.foldl (fun (s : State) (o : Origin) => tell s o r.status r.flags) (s1.dropRound ctx group round tag)

/-- BRED_CONTRIBUTION (R339): a snapshot arrives, the last one starts the fold and the deliveries; or the end of a
delivery is heard. -/
def execBredContribution (i : Nat) (s : State) : Host.Outcome State Fault Refusal :=
  match s.msg? i with
  | none => .next s
  | some m =>
    let s1 := s.takeMsg i
    match m.msg with
    | .bred o g k _ _ _ _ _ tag _ _ =>
      let known := s1.fabric.rounds.any fun r => r.is o.ctx g k tag
      let s2 : State := if known then s1
        else { s1 with fabric := { s1.fabric with rounds := s1.fabric.rounds ++
          [{ group := g, ctx := o.ctx, tag := tag, round := k, got := [], flags := Flags.none, left := [], fails := [] }] } }
      let s3 := s2.mapRound o.ctx g k tag fun r => { r with got := r.got ++ [m.msg] }
      match s3.fabric.rounds.find? fun r => r.is o.ctx g k tag with
      | none => .next s3
      | some r => .next (foldRound s3 r)
    | .delivered _ src ctx g k tag code => .next (endDelivery s1 ctx g k src code tag)
    | _ => .next s

/-- A BFETCH into LOCAL that failed is no longer pending. -/
def endFetch (s : State) (o : Origin) (m : Msg) : State :=
  match m with
  | .fetch _ _ _ _ _ _ _ _ unit => s.mapUnit unit fun u => match u.fetching o.id with
    | some k => { u with task := u.task.dropCmd k.id }
    | none => u
  | _ => s

/-- BRAID_STATUS (R333): the completion word of a command is written. An OK subscription is known to its context (R344). -/
def execBraidStatus (i : Nat) (s : State) : Host.Outcome State Fault Refusal :=
  match s.msg? i with
  | none => .next s
  | some m =>
    match m.msg with
    | .status o code nv ovf =>
      let s1 := s.takeMsg i
      match s.ctx? o.ctx with
      | none => .next s1
      | some c => match c.resend.find? (msgIsOf o) with
        | none => .next s1
        | some cmd =>
          let s2 := endFetch s1 o cmd
          let s3 := match cmd, code with
            | .subscribe _ _ _ sid win _ stepOff _ _ _, 1 => s2.mapCtx o.ctx fun c => { c with subs := c.subs ++ [(sid, win, stepOff)] }
            | _, _ => s2
          .next (finishCommand s3 o (code + (if nv then 256 else 0) + (if ovf then 512 else 0)))
    | _ => .next s

/-! ### Links and flits -/

/-- The ports have trained: what has waited for a route that carries it leaves (R326). -/
def State.withPorts (s : State) (ps : List (Nat × Nat)) : State :=
  let s1 : State := { s with fabric := { s.fabric with ports := ps, stuck := [] } }
  s.fabric.stuck.foldl (fun (s : State) (x : Nat × Nat × Msg) => emit s x.1 x.2.1 x.2.2) s1

/-- BRAID_LINK_TRAIN (R326): a port trains to the highest version that both ends support; version 0 stands for a link that fails to train,
which raises an alert (R368). -/
def execBraidLinkTrain (port peer : Nat) (s : State) : Host.Outcome State Fault Refusal :=
  if 16 ≤ port then .next s
  else
    let rest := s.fabric.ports.filter fun p => p.1 ≠ port
    .next (if peer = 0 then raiseAlert (s.withPorts rest) "link failed to train" else s.withPorts ((port, min 3 peer) :: rest))

/-- The sequence number expected next from a package (R327). -/
def nextSeq (f : Fabric) (src : Nat) : Nat := match f.lastSeq.find? fun x => x.1 = src with
  | some x => x.2
  | none => 0

/-- A STEP notice of a package that has been declared failed tells nothing: its refused blocks are resent to the mirror (R346). -/
def staleNotice (f : Fabric) (src : Nat) : Msg → Bool
  | .stepNotice _ _ _ _ => f.failed.contains src
  | _ => false

/-- Take flits of a package in order, with fuel (R327). -/
def takeFlits : Nat → Nat → Fabric → Fabric
  | 0, _, f => f
  | k + 1, src, f =>
    let n := nextSeq f src
    match f.held.find? fun x => x.src = src && x.seq.toNat = n % 2 ^ 32 with
    | none => f
    | some x =>
      let f1 : Fabric := { f with
        held := f.held.filter (fun y => !(y.src = src && y.seq = x.seq)),
        lastSeq := (src, (n + 1) % 2 ^ 32) :: f.lastSeq.filter (fun y => y.1 ≠ src),
        inbox := match x.msg with
          | some m => if staleNotice f src m then f.inbox else f.inbox ++ [{ msg := m, again := 0, begun := none }]
          | none => f.inbox }
      takeFlits k src f1

/-- FLIT_RECEIVE (R327): a flit whose CRC fails is left to the sender's retry, a duplicate is dropped, one out of order is
held until those before it have come. -/
def execFlitReceive (x : Flit) (s : State) : Host.Outcome State Fault Refusal :=
  let f : Fabric := { s.fabric with heard := (x.src, s.gcyc) :: s.fabric.heard.filter fun y => y.1 ≠ x.src }
  let ahead := (x.seq.toNat + 2 ^ 32 - nextSeq f x.src) % 2 ^ 32
  if !x.crcOk || 2 ^ 31 ≤ ahead || f.held.any (fun y => y.src = x.src && y.seq = x.seq) then
    .next { s with fabric := if x.crcOk then f else s.fabric }
  else .next { s with fabric := takeFlits (f.held.length + 1) x.src { f with held := f.held ++ [x] } }

/-- KEEPALIVE (R346): an idle port sends a keepalive flit. -/
def execKeepalive (_port : Nat) (s : State) : Host.Outcome State Fault Refusal :=
  .next { s with fabric := { s.fabric with keepalives := s.fabric.keepalives + 1 } }

/-- A package has delivered no flit for 2^24 GCYC (R346). -/
def silent (s : State) (pkg : Nat) : Bool := ((s.fabric.heard.find? fun x => x.1 = pkg).elim 0 fun x => x.2) + 2 ^ 24 ≤ s.gcyc

/-- PACKAGE_FAILURE (R346): a package that has been silent for 2^24 GCYC is declared failed. -/
def execPackageFailure (pkg : Nat) (s : State) : Host.Outcome State Fault Refusal :=
  if s.fabric.failed.contains pkg || !silent s pkg then .next s
  else .next { s with fabric := { s.fabric with failed := pkg :: s.fabric.failed } }

end Sys2Proof.Machine
end

