-- ==== Sys2Proof/Machine/Node.lean ====
section
/-! DEFINITION. Parameter nodes (R340 to R346): shard descriptors, the update rules, contributions and blocks, the mirror,
weight return, subscriptions, phase deadlines, and what follows a package's failure. -/

namespace Sys2Proof.Machine

/-! ### Descriptors -/

/-- A shard descriptor (R340). -/
structure ShardDesc where
  e    : Nat
  b    : Nat
  rule : Nat
  s    : Nat
  last : Nat
  wb   : Nat
  mb   : Nat
  vb   : Nat
  hyp  : Nat
  srcl : List Nat
  pri  : Nat
  mir  : Nat
  deriving DecidableEq, Repr

/-- Read a served shard's descriptor; `none` where it cannot be read. -/
def readDesc (s : State) (c : Ctx) (n : Shard) : Option ShardDesc :=
  match ctxRead s c n.desc.toNat 128 with
  | .error _ => none
  | .ok bs =>
    let f := byteField bs
    match ctxRead s c (f 56 8) (4 * f 14 2) with
    | .error _ => none
    | .ok ss => some { e := f 4 4, b := f 8 4, rule := f 12 2, s := f 14 2, last := f 16 8, wb := f 24 8, mb := f 32 8, vb := f 40 8,
                       hyp := f 48 8, srcl := (groupsOf 4 (f 14 2) ss).map leNat, pri := f 64 4, mir := f 68 4 }

/-- The blocks of a shard. -/
def ShardDesc.blocks (d : ShardDesc) : Nat := d.e / d.b

/-- The shard that a node of a context serves. -/
def State.served? (s : State) (cid sid : Nat) : Option Shard := s.fabric.shards.find? fun n => n.ctx = cid && n.sid = sid

/-- Change a served shard. -/
def State.mapShard (s : State) (cid sid : Nat) (f : Shard → Shard) : State :=
  { s with fabric := { s.fabric with shards := s.fabric.shards.map fun n => if n.ctx = cid && n.sid = sid then f n else n } }

/-- Write a field of a descriptor. -/
def writeDesc (s : State) (c : Ctx) (n : Shard) (off size v : Nat) : State :=
  match ctxWrite s c (n.desc.toNat + off) (natLe size v) with
  | some s1 => s1
  | none => s

/-! ### Update rules (R341) -/

/-- What a rule writes for one element. -/
structure Updated where
  w : Lane
  m : Lane
  v : Lane
  deriving DecidableEq, Repr

/-- fp_add, fp_mul and fp_fma under RNE; the Tannery's flags are not kept (R341). -/
def addN (a b : Lane) : Lane := (fpAdd .rne a b).1
/-- See `addN`. -/
def mulN (a b : Lane) : Lane := (fpMul .rne a b).1
/-- See `addN`. -/
def fmaN (a b c : Lane) : Lane := (fpFma .rne a b c).1
/-- See `addN`. -/
def rcpN (a : Lane) : Lane := (vrcp .rne a).1

/-- mb.upd.sgdm (R341). -/
def sgdm (h : Nat → Lane) (g w m v : Lane) : Updated :=
  let m' := fmaN (h 1) m (fmaN (h 2) w g)
  { w := fmaN (negate32 (h 0)) m' w, m := m', v := v }

/-- 1 − base^q by way of vexp2 and vlog2 (R341). -/
def biasOf (q base : Lane) : Lane :=
  addN 0x3F800000 (negate32 (vexp2 .rne (mulN q (vlog2 .rne base).1)).1)

/-- mb.upd.adamw (R341). -/
def adamw (h : Nat → Lane) (step : Nat) (g w m v : Lane) : Updated :=
  let m' := fmaN (h 1) m (mulN (h 2) g)
  let v' := fmaN (h 3) v (mulN (h 4) (mulN g g))
  let q := (cvt (BitVec.ofNat 32 (min step (2 ^ 24))) .int32 .fp32 .rne false).1
  let hat := mulN v' (rcpN (biasOf q (h 3)))
  let d := addN (rcpN (vrsq .rne hat).1) (h 5)
  let u := fmaN (mulN m' (rcpN (biasOf q (h 1)))) (rcpN d) (mulN (h 6) w)
  { w := fmaN (negate32 (h 0)) u w, m := m', v := v' }

/-- mb.upd.lion (R341). -/
def lion (h : Nat → Lane) (g w m v : Lane) : Updated :=
  let c := fmaN (h 1) m (mulN (h 2) g)
  let u : Lane := if isNan32 c || c.extractLsb' 0 31 = 0 then c else if c.getLsbD 31 then 0xBF800000 else 0x3F800000
  { w := fmaN (negate32 (h 0)) (fmaN (h 5) w u) w, m := fmaN (h 3) m (mulN (h 4) g), v := v }

/-- A Mboand rule by its routine ID (R341); `none` for a program's own. -/
def mboandRule (rule : Nat) (h : Nat → Lane) (step : Nat) : Option (Lane → Lane → Lane → Lane → Updated) :=
  match rule with
  | 0x0300 => some (adamw h step)
  | 0x0301 => some (sgdm h)
  | 0x0302 => some (lion h)
  | _ => none

/-- Apply a rule to a block. -/
def applyRule (f : Lane → Lane → Lane → Lane → Updated) : List Lane → List Lane → List Lane → List Lane → List Updated
  | g :: gs, w :: ws, m :: ms, v :: vs => f g w m v :: applyRule f gs ws ms vs
  | _, _, _, _ => []

/-! ### Weight return (R345) -/

/-- 32 values as E4M3 under a common scale (R345): the scale byte and the elements. -/
def e4Block (xs : List Lane) : Byte × List Byte :=
  if xs.any nonFinite then (0xFF, xs.map fun _ => 0x7F)
  else
    let e : Int := match maxLog2 xs with
      | none => 127
      | some l => if l - 7 + 127 < 0 then 0 else l - 7 + 127
    (BitVec.ofInt 8 e, xs.map fun x => BitVec.ofNat 8 (Dy.round .e4m3 .rne true (x.getLsbD 31) (scaled x (127 - e))).1)

/-- A block in the format of a subscription: elements, then scale bytes (R345). -/
def returnBytes (fmt : Nat) (ws : List Lane) : List Byte :=
  match fmt with
  | 0 => ws.flatMap fun x => natLe 2 (cvt x .fp32 .bf16 .rne false).1.toNat
  | 1 =>
    let gs := (groups32 ws).map e4Block
    (gs.flatMap fun g => g.2) ++ gs.map fun g => g.1
  | _ =>
    let gs := (groups32 ws).map d2Block
    (gs.flatMap fun g => g.2) ++ gs.map fun g => g.1

/-- Return block `blk` of a step, as the rule left its w', to every subscriber (R345, R349). -/
def returnWeights (s : State) (n : Shard) (step blk : Nat) : State :=
  match n.outs.find? fun x => x.1 = step && x.2.1 = blk with
  | none => s
  | some (_, _, ws) =>
    n.subs.foldl (fun (s : State) (x : Subscr) =>
      emit s n.ctx x.o.rank (.weights x.o.rank n.ctx x.node x.win x.doff x.stepOff x.tag step blk (returnBytes x.fmt ws))) s

/-! ### Blocks (R343) -/

/-- A block has been confirmed: OK to its sources, its weights go out, and LAST advances when the step is complete (R343). -/
def confirmBlock (s : State) (c : Ctx) (n0 : Shard) (step blk : Nat) : State :=
  match readDesc s c n0 with
  | none => s
  | some d =>
    if n0.confirmed.contains (step, blk) then s
    else
      let mine := n0.held.filter fun x => x.step = step && x.blk = blk
      let n : Shard := { n0 with held := n0.held.filter (fun x => !(x.step = step && x.blk = blk)),
                                 confirmed := (step, blk) :: n0.confirmed }
      let s1 := mine.foldl (fun (s : State) (x : Held) => tell s x.o 1) (s.mapShard n.ctx n.sid fun _ => n)
      let s2 := returnWeights s1 n step blk
      if step = d.last + 1 && (List.range d.blocks).all (fun b => n.confirmed.contains (step, b)) then
        let s3 := writeDesc s2 c n 16 8 step
        let ranks := (n.refused.map fun r => r.1).eraseDups
        let s4 := ranks.foldl (fun (s : State) (r : Nat) =>
          emit s n.ctx r (.stepNotice r n.ctx n.sid ((n.refused.filter fun x => x.1 = r).map fun x => x.2))) s3
        let keep : List (Nat × Nat) → List (Nat × Nat) := fun l => l.filter fun x => step ≤ x.1
        s4.mapShard n.ctx n.sid fun x =>
          { x with refused := [], started := keep x.started, done := keep x.done, confirmed := keep x.confirmed,
                   hyp := x.hyp.filter (fun h => step ≤ h.1), outs := x.outs.filter fun h => step ≤ h.1 }
      else s2

/-- Every block of a mirror's next step is applied: its LAST advances, and the receipts of older steps go (R342, R346). -/
def advanceMirror (s : State) (c : Ctx) (n : Shard) (step : Nat) : State :=
  match readDesc s c n with
  | none => s
  | some d =>
    if step = d.last + 1 && (List.range d.blocks).all (fun b => n.done.contains (step, b)) then
      (writeDesc s c n 16 8 step).mapShard n.ctx n.sid fun x =>
        { x with started := x.started.filter (fun y => step ≤ y.1), done := x.done.filter (fun y => step ≤ y.1),
                 hyp := x.hyp.filter (fun h => step ≤ h.1), outs := x.outs.filter fun h => step ≤ h.1 }
    else s

/-- A block's new values are written back (R341, R343); then the primary forwards it, or confirms it at once where there is
no mirror, and a mirror confirms it to the primary. -/
def completeBlock (s : State) (c : Ctx) (n0 : Shard) (step blk : Nat) (us : List Updated) (g : List Lane) : State :=
  match readDesc s c n0 with
  | none => s
  | some d =>
    let put : State → Nat → List Lane → State := fun s base ls =>
      match ctxStore s c [] (base + 4 * d.b * blk) (bytesOfLanes ls) with
      | some p => p.1
      | none => s
    let s1 := put (put (put s d.wb (us.map fun u => u.w)) d.mb (us.map fun u => u.m)) d.vb (us.map fun u => u.v)
    let n : Shard := { n0 with done := (step, blk) :: n0.done, outs := n0.outs ++ [(step, blk, us.map fun u => u.w)] }
    let s2 := s1.mapShard n.ctx n.sid fun _ => n
    if n.mirror then emit (advanceMirror s2 c n step) n.ctx d.pri (.confirm d.pri n.ctx n.sid step blk)
    else if d.mir = noMirror then confirmBlock s2 c n step blk
    else emit s2 n.ctx d.mir (.forward d.mir d.pri n.ctx n.sid step blk g
      ((n.hyp.find? fun h => h.1 = step).elim [] fun h => h.2))

/-- The first LOCAL address of an array of a Tannery call: g, w, m, v, w', m', v' and the hyperparameters lie one after
another at 64 KiB (R341, log 29). -/
def tanneryAt (i : Nat) : Nat := 65536 * i

/-- The unit with which the Tannery of a die runs a program's own rule (R341): `launch` holds the shard, `index` the block,
`lcore` the step. It stands in the callee of CALLR with O = 10. -/
def tanneryUnit (s : State) (n : Shard) (die : Nat) (entry : Word) (d : ShardDesc) (step blk : Nat) (arrays : List (List Byte)) :
    QUnit :=
  let lm := (arrays.zip (List.range arrays.length)).foldl (fun m a => writeBytes m (tanneryAt a.2) a.1) ([] : Sparse 8)
  let args : List Word := (List.range 7).map (fun i => BitVec.ofNat 64 (tanneryAt i))
    ++ [BitVec.ofNat 64 d.b, BitVec.ofNat 64 step, BitVec.ofNat 64 (tanneryAt 7)]
  let base := 0x100000
  let fr : Frames := { Frames.reset with glob := sset [] 2 (BitVec.ofNat 64 base), bsbase := base, bslim := 0x200000 }
  let t0 : Task := { Task.reset with fr := fr, lmem := lm, foot := { tile := 0x200000, queue := 0, wit := 0, spill := 0 } }
  let t1 := (args.zip (List.range 10)).foldl (fun t x => t.setSReg (.phys (10 + x.2)) x.1) (doCall t0 0 10)
  { QUnit.reset with uid := s.nextUid, ctx := n.ctx, launch := n.sid, index := blk, lcore := step, core := 1152 + 96 * die,
                     kind := .tannery, priv := .supervisor, task := { t1 with sq := { t1.sq with pc := entry } } }

/-- A routine of a context by its ID (R53). -/
def Ctx.routine? (c : Ctx) (id : Nat) : Option Routine :=
  (c.modules.filter fun m => m.live).findSome? fun m => m.routines.find? fun r => r.id.toNat = id

/-- Call RULE on a block (R343): a Mboand rule is applied at once, a program's own runs as a unit of the Tannery. -/
def startBlock (s : State) (c : Ctx) (n0 : Shard) (step blk : Nat) (g : List Lane) (hyp : List Byte) : State :=
  match readDesc s c n0 with
  | none => s
  | some d =>
    let arr : Nat → Except FaultCode (List Byte) := fun base => ctxRead s c (base + 4 * d.b * blk) (4 * d.b)
    match arr d.wb, arr d.mb, arr d.vb with
    | .ok w, .ok m, .ok v =>
      let n : Shard := { n0 with started := (step, blk) :: n0.started }
      let touch : State → Nat → State := fun s base => ctxTouch s c (base + 4 * d.b * blk) (4 * d.b)
      let s1 := (touch (touch (touch s d.wb) d.mb) d.vb).mapShard n.ctx n.sid fun _ => n
      let h : Nat → Lane := fun k => BitVec.ofNat 32 (byteField hyp (4 * k) 4)
      match mboandRule d.rule h step with
      | some f => completeBlock s1 c n step blk (applyRule f g (lanesOf w) (lanesOf m) (lanesOf v)) g
      | none => match c.routine? d.rule with
        | none => s
        | some r =>
          let die := match ctxRanges s c n.desc.toNat 1 .read with
            | .ok ((x, _) :: _) => dpaDie x
            | _ => 0
          { s1 with nextUid := s1.nextUid + 1,
                    parked := s1.parked ++ [tanneryUnit s1 n die r.entry d step blk [bytesOfLanes g, w, m, v, [], [], [], hyp]] }
    | _, _, _ => s

/-- A Tannery unit has returned from its rule: the block is written back (R341, R343). -/
def finishTannery (s : State) : State :=
  let u := s.cur
  let s1 := s.dropUnit u.uid
  match s1.ctx? u.ctx, s1.served? u.ctx u.launch with
  | some c, some n => match readDesc s1 c n with
    | none => s1
    | some d =>
      let arr : Nat → List Lane := fun i => lanesOf (readBytes u.task.lmem (tanneryAt i) (4 * d.b))
      let us := ((arr 4).zip ((arr 5).zip (arr 6))).map fun x => { w := x.1, m := x.2.1, v := x.2.2 : Updated }
      completeBlock s1 c n u.lcore u.index us (arr 0)
  | _, _ => s1

/-! ### Contributions (R342) -/

/-- The sum of a block's contributions in SRCL order (R343). -/
def sumContributions (d : ShardDesc) (hs : List Held) : List Lane :=
  let get : Nat → List Lane := fun r => (hs.find? fun x => x.src = r).elim [] fun x => x.g
  match d.srcl with
  | [] => []
  | r :: rs => rs.foldl (fun (acc : List Lane) (x : Nat) => (acc.zip (get x)).map fun p => addN p.1 p.2) (get r)

/-- The primary decides a contribution (R342), and applies its block when every source is held (R343). -/
def decideGrad (s : State) (c : Ctx) (n : Shard) (d : ShardDesc) (o : Origin) (step blk : Nat) (g : List Lane) : State :=
  let src := o.rank
  let known := n.held.any (fun x => x.src = src && x.step = step && x.blk = blk)
    || (n.done.contains (step, blk) && d.srcl.contains src)
  if known then tell s o 2
  else if !d.srcl.contains src then tell s o 4
  else if d.blocks ≤ blk then tell s o 5
  else if step ≤ d.last then tell s o 3
  else if d.last + 1 < step then
    s.mapShard n.ctx n.sid fun x => { x with refused := x.refused ++ [(src, step, blk)] }
  else
    let n1 : Shard := { n with held := n.held ++ [{ src := src, o := o, step := step, blk := blk, g := g }] }
    let mine := n1.held.filter fun x => x.step = step && x.blk = blk
    if !(d.srcl.all fun r => mine.any fun x => x.src = r) || n1.started.contains (step, blk) then
      s.mapShard n.ctx n.sid fun _ => n1
    else
      let snap := match n1.hyp.find? fun h => h.1 = step with
        | some h => h.2
        | none => match ctxRead s c d.hyp 64 with
          | .ok bs => bs
          | .error _ => []
      let n2 : Shard := { n1 with hyp := if n1.hyp.any (fun h => h.1 = step) then n1.hyp else (step, snap) :: n1.hyp }
      startBlock (s.mapShard n.ctx n.sid fun _ => n2) c n2 step blk (sumContributions d mine) snap

/-- BGRAD_RECEIVE (R342, R343). A mirror decides nothing before its promotion (R346). -/
def execBgradReceive (i : Nat) (s : State) : Host.Outcome State Fault Refusal :=
  match s.msg? i with
  | none => .next s
  | some m =>
    match m.msg with
    | .grad o _ sid step blk g =>
      let s1 := s.takeMsg i
      match s.ctx? o.ctx, s.served? o.ctx sid with
      | some c, some n => match readDesc s c n with
        | none => .next (tell s1 o 11)
        | some d => .next (if n.mirror then s else decideGrad s1 c n d o step blk g)
      | _, _ => .next (tell s1 o 11)
    | _ => .next s

/-- MIRROR_APPLY (R343): the mirror applies a forwarded block, or confirms one that it has applied already. -/
def execMirrorApply (i : Nat) (s : State) : Host.Outcome State Fault Refusal :=
  match s.msg? i with
  | none => .next s
  | some m =>
    match m.msg with
    | .forward _ src ctx sid step blk g hyp =>
      let s1 := s.takeMsg i
      match s.ctx? ctx, s.served? ctx sid with
      | some c, some n =>
        if n.done.contains (step, blk) then .next (emit s1 ctx src (.confirm src ctx sid step blk))
        else if n.started.contains (step, blk) then .next s1
        else
          let n1 : Shard := { n with hyp := if n.hyp.any (fun h => h.1 = step) then n.hyp else (step, hyp) :: n.hyp }
          .next (startBlock (s1.mapShard ctx sid fun _ => n1) c n1 step blk g hyp)
      | _, _ => .next s1
    | _ => .next s

/-- MIRROR_CONFIRM (R343, R345). -/
def execMirrorConfirm (i : Nat) (s : State) : Host.Outcome State Fault Refusal :=
  match s.msg? i with
  | none => .next s
  | some m =>
    match m.msg with
    | .confirm _ ctx sid step blk =>
      let s1 := s.takeMsg i
      match s.ctx? ctx, s.served? ctx sid with
      | some c, some n => .next (if n.done.contains (step, blk) then confirmBlock s1 c n step blk else s1)
      | _, _ => .next s1
    | _ => .next s

/-- A kept message is the contribution of a block. -/
def isGrad (sid : Nat) (blocks : List (Nat × Nat)) : Msg → Bool
  | .grad _ _ x step blk _ => x = sid && blocks.contains (step, blk)
  | _ => false

/-- STEP_NOTICE (R342): the engine resends the blocks that the node had refused. -/
def execStepNotice (i : Nat) (s : State) : Host.Outcome State Fault Refusal :=
  match s.msg? i with
  | none => .next s
  | some m =>
    match m.msg with
    | .stepNotice _ ctx sid blocks =>
      let s1 := s.takeMsg i
      match s.ctx? ctx with
      | none => .next s1
      | some c => .next ((c.resend.filter (isGrad sid blocks)).foldl (fun (s : State) (x : Msg) => emit s ctx (msgTarget x) x) s1)
    | _ => .next s

/-- BSUB_REGISTER (R345, R350): the node registers a subscription, once for each command; the primary forwards it to its
mirror, and the last node to hold it tells the sender OK. At a mirror that has not been promoted a source's BSUB waits (log 29). -/
def execBsubRegister (i : Nat) (s : State) : Host.Outcome State Fault Refusal :=
  match s.msg? i with
  | none => .next s
  | some m =>
    match m.msg with
    | .subscribe o _ node sid win doff stepOff fmt tag mirror =>
      let s1 := s.takeMsg i
      match s.ctx? o.ctx, s.served? o.ctx sid with
      | some c, some n => match readDesc s c n with
        | none => .next (tell s1 o 11)
        | some d =>
          let x : Subscr := { o := o, win := win, doff := doff, stepOff := stepOff, fmt := fmt, tag := tag, node := node }
          let s2 := if n.subs.contains x then s1 else s1.mapShard o.ctx sid fun y => { y with subs := y.subs ++ [x] }
          if n.mirror && !mirror then .next s
          else if mirror || d.mir = noMirror then .next (tell s2 o 1)
          else .next (emit s2 o.ctx d.mir (.subscribe o d.mir node sid win doff stepOff fmt tag true))
      | _, _ => .next (tell s1 o 11)
    | _ => .next s

/-! ### Deadlines and failures -/

/-- The (source rank, block) pairs of a step that a served shard still waits for (R344). -/
def missingPairs (s : State) (c : Ctx) (sid step : Nat) : List (Nat × Nat) :=
  match s.served? c.id sid with
  | none => []
  | some n => match readDesc s c n with
    | none => []
    | some d => (List.range d.blocks).flatMap fun b =>
      if n.done.contains (step, b) || step ≤ d.last then []
      else (d.srcl.filter fun r => !n.held.any fun x => x.src = r && x.step = step && x.blk = b).map fun r => (r, b)

/-- A phase's deadline has passed with a condition unmet (R344). D is in microseconds, 1,600 GCYC each (R13). -/
def phaseDue (s : State) (c : Ctx) (g : Group) : Bool :=
  g.cond ≠ 0 && !phaseFinished s c g && condMissing s c g ≠ [] && match ctxLe s c (g.cond.toNat + 4) 4 with
    | some d => d ≠ 0 && g.born + 1600 * d ≤ s.gcyc
    | none => false

/-- PHASE_DEADLINE (R344): the phase finishes INCOMPLETE and the report area receives the missing pairs. -/
def execPhaseDeadline (cid h : Nat) (s : State) : Host.Outcome State Fault Refusal :=
  match s.ctx? cid with
  | none => .next s
  | some c =>
    match group? c.phases h with
    | none => .next s
    | some g =>
      if !phaseDue s c g then .next s
      else
        let pairs := (condMissing s c g).flatMap fun e => if e.kind = 2 then missingPairs s c e.a g.number.toNat else []
        let bytes := pairs.flatMap fun p => natLe 4 p.1 ++ natLe 4 p.2
        let s1 := match ctxLe s c (g.cond.toNat + 8) 8 with
          | none => s
          | some r => match ctxWrite s c r bytes with
            | some x => x
            | none => s
        .next ((s1.mapCtx cid fun c =>
          { c with phases := mapGroup c.phases h fun g => { g with incomplete := true } }).settle cid)

/-- What a source does when a package has failed (R342, R346): unstatused commands to it go to the promoted mirror in their order, or are
UNREACH; a STEP notice of the failed primary that it has not met yet is dropped, since the blocks it names are resent here. -/
def failSource (s : State) (cid pkg : Nat) : State :=
  match s.ctx? cid with
  | none => s
  | some c =>
    let b := c.tab
    let on : Nat → Bool := fun r => !b.here r && b.pkg r = some pkg
    let hit := c.resend.filter fun m => (needs m).any on
    let c1 := s.knowing c
    let c2 : Ctx := { c1 with resend := c.resend.map (retarget c1) }
    let notice : Msg → Bool := fun m => match m with
      | .stepNotice _ x sid _ => x = cid && b.shards.any fun sh => sh.sid = sid && on sh.pri
      | _ => false
    let s0 : State := { s with fabric := { s.fabric with inbox := s.fabric.inbox.filter fun x => !notice x.msg } }
    let s1 := s0.mapCtx cid fun _ => c2
    hit.foldl (fun (s : State) (m : Msg) =>
      let m1 := retarget c2 m
      match msgOrigin m1 with
      | none => s
      | some o => if (needs m1).any (s.lost b) then tell s o 8 else emit s cid (msgTarget m1) m1) s1

/-- A primary whose mirror has failed continues without one (R346): what waited for the mirror's confirmation is confirmed, and
so is every subscription (R350); a status of a finished command is dropped at its sender. -/
def loseMirror (s : State) (c : Ctx) (n : Shard) (d : ShardDesc) : State :=
  let open_ := n.done.filter fun x => !n.confirmed.contains x
  let s1 := n.subs.foldl (fun (s : State) (x : Subscr) => tell s x.o 1)
    (if d.mir = noMirror then s else writeDesc s c n 68 4 noMirror)
  open_.foldl (fun (s : State) (x : Nat × Nat) => match s.served? n.ctx n.sid with
    | some y => confirmBlock s c y x.1 x.2
    | none => s) s1

/-- FAILURE_NOTICE (R346): this package hears of a failure. -/
def execFailureNotice (pkg : Nat) (s : State) : Host.Outcome State Fault Refusal :=
  let s0 : State := if s.fabric.failed.contains pkg then s
    else { s with fabric := { s.fabric with failed := pkg :: s.fabric.failed } }
  let s1 := s0.fabric.shards.foldl (fun (s : State) (n : Shard) =>
    match s.ctx? n.ctx with
    | none => s
    | some c => match readDesc s c n with
      | none => s
      | some d => if !n.mirror && d.mir ≠ noMirror && s.lost c.tab d.mir then loseMirror s c n d else s) s0
  .next (s1.ctxs.foldl (fun (s : State) (c : Ctx) => failSource s c.id pkg) s1)

/-- A mirror whose primary has failed. -/
def promotable (s : State) (n : Shard) : Bool :=
  n.mirror && match s.ctx? n.ctx with
    | none => false
    | some c => match readDesc s c n with
      | none => false
      | some d => s.lost c.tab d.pri

/-- MIRROR_PROMOTION (R346): the mirror becomes primary with no mirror of its own, and returns every block of steps LAST and
LAST + 1 that it has applied, the earlier step first (log 29). -/
def execMirrorPromotion (sid : Nat) (s : State) : Host.Outcome State Fault Refusal :=
  match s.fabric.shards.find? fun n => n.sid = sid && promotable s n with
  | none => .next s
  | some n =>
    match s.ctx? n.ctx with
    | none => .next s
    | some c => match readDesc s c n with
      | none => .next s
      | some d =>
        let n1 : Shard := { n with mirror := false, confirmed := n.done }
        let s1 := writeDesc (writeDesc (s.mapShard n.ctx sid fun _ => n1) c n 64 4 c.tab.rank) c n 68 4 noMirror
        let ret : Nat → State → State := fun step s => (List.range d.blocks).foldl (fun (s : State) (b : Nat) =>
          if n.done.contains (step, b) then returnWeights s n1 step b else s) s
        .next (ret (d.last + 1) (ret d.last s1))

end Sys2Proof.Machine
end

