-- ==== Sys2Proof/Machine/Energy.lean ====
section
/-! DEFINITION. The Spillway as tasks meet it: metering (R359) and the instructions ENRD and ENREQ (R363). -/

namespace Sys2Proof.Machine

/-- A context has used more than its grant in this interval (R362). -/
def Ctx.throttled (c : Ctx) : Bool := 1000 * c.energy.grant < c.energy.metered

/-- ENRD (R363). -/
def trigEnrd (c : Trig) (a : Acc) : Except Halt Acc :=
  let e := c.s0.curCtx.energy
  if !highZero c.val 2 then c.fault .illegal 0
  else realTime c a 67 (BitVec.ofNat 64 (match c.val.toNat with
    | 0 => c.s0.cur.energy
    | 1 => e.metered
    | 2 => 1000 * e.grant - e.metered
    | _ => e.grant))

/-- ENREQ (R363): one request of a context stands unanswered at a time. -/
def trigEnreq (c : Trig) (a : Acc) : Except Halt Acc :=
  let u := c.s0.cur
  if !highZero c.val 32 then c.fault .illegal 0
  else if c.s0.curCtx.energy.asked then .ok (a.result 1 67 0 Flags.none)
  else
    let a1 := a.mapSt fun s =>
      postEvent (s.mapCtx u.ctx fun x => { x with energy := { x.energy with asked := true } }) u.ctx
        (eventBytes 3 0 u.launch u.index 0 c.val)
    .ok (a1.result 1 67 (if c.t.dl0 then 1 else 0) Flags.none)

end Sys2Proof.Machine
end

