-- ==== Sys2Proof/Machine/Units.lean ====
section
/-! DEFINITION. The native units of the Mboand library that the Q9 performs whole (R203, R251, R316, R321 to R323):
mb.dot4.bf16, mb.softmax.row, the array routines mb.mx.* and the witness routines mb.wit.*. Each takes its arguments from the callee's
window, checks first, and reports a fault at the CALLR (R318). -/

namespace Sys2Proof.Machine

/-! ### Shared -/

/-- A fault of a routine: at the CALLR, with cause [15:8] = 0xFF (R311, R318). -/
def callFault {α : Type} (code : FaultCode) (tval : Word) : Except Halt α :=
  .error (.fault { code := code, tval := tval, bus := 0xFF })

/-- Raise the fault that a check reports, or go on. -/
def unitCheck {α : Type} (o : Option (FaultCode × Word)) (k : Except Halt α) : Except Halt α :=
  match o with
  | some f => callFault f.1 f.2
  | none => k

/-- Set register `i` of the window. -/
def Task.setWin (t : Task) (i : Nat) (v : Word) : Task := t.setSregAt t.fr.fb i v

/-- The value number `i` of those that the n-th free choice leaves open. -/
def openWord (n i : Nat) : Word := Config.afterUnit (2 ^ 32 * n + i)

/-! ### mb.dot4.bf16 and mb.softmax.row -/

/-- mb.dot4.bf16 (R323). -/
def unitDot4 (t : Task) : Except Halt Task :=
  let x : Nat → Lane := fun i => (cvt (((t.sreg 8).extractLsb' (16 * i) 16).setWidth 32) .bf16 .fp32 t.rm t.fmt.sat).1
  let y : Nat → Lane := fun i => (cvt (((t.sreg 9).extractLsb' (16 * i) 16).setWidth 32) .bf16 .fp32 t.rm t.fmt.sat).1
  let fma : Lane × Flags → Nat → Lane × Flags := fun acc i =>
    let r := fpFma t.rm (x i) (y i) acc.1
    (r.1, acc.2.or r.2)
  let r := ([1, 2, 3] : List Nat).foldl fma (fpMul t.rm (x 0) (y 0))
  .ok ((t.addFlags r.2).setWin 10 (r.1.setWidth 64))

/-- The checks of mb.softmax.row, in order (R321). -/
def softmaxFault (t : Task) (x y n : Word) : Option (FaultCode × Word) :=
  let el : (Word → Option (FaultCode × Word)) → Word → Option (FaultCode × Word) := fun f b =>
    (List.range n.toNat).findSome? fun i => f (b + BitVec.ofNat 64 (4 * i))
  if n = 0 || 4096 < n.toNat then some (.illegal, 0)
  else if x.toNat % 4 ≠ 0 then some (.alignLocal, x)
  else if y.toNat % 4 ≠ 0 then some (.alignLocal, y)
  else match el (fun a => localReadFault t a 4 4) x with
    | some f => some f
    | none => el (fun a => localWriteFault t a 4 4) y

/-- Reduce `xs` in blocks of 128 lanes by R76, and the blocks in order by `f` (R321). -/
def reduceBlocks (mx : Bool) (rm : Rm) (f : Lane → Lane → Lane × Flags) (xs : List Lane) : Lane × Flags :=
  let bl := (groupsOf 128 ((xs.length + 127) / 128) xs).map fun b =>
    reduceMasked mx false rm (b ++ List.replicate (128 - b.length) 0) ((List.range 128).map fun i => i < b.length)
  match bl with
  | [] => (0, Flags.none)
  | b :: bs => bs.foldl (fun acc x =>
      let r := f acc.1 x.1
      (r.1, (acc.2.or x.2).or r.2)) b

/-- mb.softmax.row (R321). -/
def unitSoftmax (t : Task) : Except Halt Task :=
  let x := t.sreg 8
  let y := t.sreg 9
  let n := t.sreg 10
  unitCheck (softmaxFault t x y n)
    (let xs := lanesOf (readBytes t.lmem x.toNat (4 * n.toNat))
     let m := reduceBlocks true t.rm (fun a b => (fpMax a b, Flags.none)) xs
     let ys := xs.map fun v =>
       let d := fpSub t.rm v m.1
       let e := vexp2 t.rm d.1
       (e.1, d.2.or e.2)
     let sm := reduceBlocks false t.rm (fpAdd t.rm) (ys.map Prod.fst)
     let fl := ys.foldl (fun f p => f.or p.2) (m.2.or sm.2)
     let t1 : Task := { t with lmem := writeBytes t.lmem y.toNat (bytesOfLanes (ys.map Prod.fst)) }
     .ok (((t1.addFlags fl).setWin 11 (sm.1.setWidth 64)).setWin 12 (m.1.setWidth 64)))

/-! ### The array routines (R203) -/

/-- The formats of a pair code, AF + 8 × WF; `none` outside R185. -/
def pairOf (v : Word) : Option (Format × Format) :=
  let af := formatOf (v.extractLsb' 0 3).toNat
  let wf := formatOf (v.extractLsb' 3 3).toNat
  if !highZero v 6 || (mxRate af wf).isNone then none else some (af, wf)

/-- An array at task start with a format pair: what a unit's steps stand on. The task's own arrays are untouched. -/
def pairArray (af wf : Format) : MxArray := { MxArray.reset with af := af, wf := wf }

/-- The tile of 16 KiB at C: 64 rows of 64 FP32 elements. -/
def tileAt (m : Sparse 8) (c : Nat) : Sparse 32 := sput [] 0 (lanesOf (readBytes m c 16384))

/-- Scratchpad with a tile stored at C. -/
def putTile (m : Sparse 8) (c : Nat) (x : Sparse 32) : Sparse 8 :=
  writeBytes m c (bytesOfLanes ((List.range 4096).map (sget x)))

/-- The checks on a tile that is written at C, and read there where `reads` (R150, R158, R177, R196). -/
def tileFault (t : Task) (c : Nat) (reads : Bool) : Option (FaultCode × Word) :=
  match mrdDest t c 256 256 64 with
  | some f => some f
  | none => if reads then rowsEarly t [(c, 16384)] else none

/-- The first address of the j-th weight block of mb.mx.mm, and of mb.mx.mmt where `tr` (R203): 64 rows of K further, or 64 columns.
Where the blocks of D2P8 with their scales lie after the first is not given, and free (log 16). -/
def weightBlock (tr : Bool) (wf : Format) (base str j : Nat) : Nat :=
  if j = 0 then base
  else if wf = .d2p8 then Config.blockPlace base str j
  else if tr then base + 64 * mxElem wf * j
  else base + 64 * str * j

/-- The step of the j-th K block of mb.mx.mm, as MSTR describes it. -/
def mmStep (acc : Bool) (rows a sa : Nat) (af : Format) (j : Nat) : StepReq :=
  { mop := false, tile := 0, acc := acc || j ≠ 0, rows := rows, a := a + 64 * mxElem af * j, sa := sa, g := 0, sg := 0 }

/-- The step of the j-th group of 64 batch rows of mb.mx.op, as MOP describes it. -/
def opStep (acc : Bool) (batch x sx g sg : Nat) (j : Nat) : StepReq :=
  { mop := true, tile := 0, acc := acc || j ≠ 0, rows := min 64 (batch - 64 * j), a := x + 64 * j * sx, sa := sx,
    g := g + 64 * j * sg, sg := sg }

/-- The checks that MLW makes of a weight block in LOCAL (R188). -/
def blockFault (s : State) (sa str : Nat) (wf : Format) : Option (FaultCode × Word) :=
  if sa % 64 ≠ 0 || str % 64 ≠ 0 then some (.alignCopy, BitVec.ofNat 64 sa)
  else mlwFault s .local (BitVec.ofNat 64 sa) (blockRanges sa str wf)

/-- The checks that MSTR and MOP make of a step's rows (R192, R195). -/
def stepFault (t : Task) (q : StepReq) (m : MxArray) : Option (FaultCode × Word) :=
  match stepAlign t q m with
  | some f => some f
  | none => rowsEarly t (q.spans m)

/-- The rows that a step streams, from scratchpad (R193, R195). -/
def StepReq.values (q : StepReq) (m : MxArray) (lm : Sparse 8) : List (List XVal) × List (List XVal) :=
  let row : Nat → Nat → Format → List (List XVal) := fun base str f =>
    (List.range q.rows).map fun i => rowVals f (readBytes lm (base + i * str) (64 * mxElem f))
  (row q.a q.sa m.af, if q.mop then row q.g q.sg m.wf else [])

/-- The flags that a unit of mb.mx.mm, mmt or op leaves in FMT: a tile in LOCAL has no flags of its own, and whether FMT takes those
of R74 then is not said (log 16). -/
def tileFlags (n : Nat) (f : TileFlags) : Flags :=
  if Config.unitFlags n then { Flags.none with nv := f.nv, ovf := f.ovf } else Flags.none

/-- mb.mx.mm, and mb.mx.mmt where `tr` (R203). With K = 0 and ACC = 0 the rows named hold a free value: the rule gives no sum of
nothing (log 16). -/
def unitMm (tr : Bool) (s : State) : Except Halt State :=
  let t := s.task
  let arg : Nat → Nat := fun i => (t.sreg (8 + i)).toNat
  let c := arg 0
  let k := arg 5
  let rows := arg 6
  let acc := arg 8 = 1
  match pairOf (t.sreg 15) with
  | none => callFault .illegal 0
  | some (af, wf) =>
    if k % 64 ≠ 0 || 1 < arg 8 || rows = 0 || 64 < rows || !highZero (t.sreg 8) 21 || !highZero (t.sreg 9) 21
        || !highZero (t.sreg 10) 21 then callFault .illegal 0
    else if !highZero (t.sreg 12) 32 then callFault .alignCopy 0
    else
      let m := pairArray af wf
      let n := k / 64
      let wb := weightBlock tr wf (arg 3) (arg 4)
      let step := mmStep acc rows (arg 1) (arg 2) af
      unitCheck ((List.range n).findSome? fun j => match blockFault s (wb j) (arg 4) wf with
        | some f => some f
        | none => stepFault t (step j) m)
        (unitCheck (tileFault t c acc)
          (let old := tileAt t.lmem c
           let r := (List.range n).foldl (fun (p : Sparse 32 × TileFlags) j =>
             let ws := planeVals (blockPlane wf tr (readRanges t.lmem (blockRanges (wb j) (arg 4) wf)))
             stepTile false (step j).acc rows ((step j).values m t.lmem).1 ws p.1 p.2) (old, ⟨false, false⟩)
           let x := if n = 0 && !acc then
               (List.range (64 * rows)).foldl (fun y i => sset y i ((openWord s.tick i).setWidth 32)) old
             else r.1
           let t1 : Task := { t with lmem := putTile t.lmem c x }
           .ok (s.setTask ((t1.addFlags (tileFlags s.tick r.2)).setWin 17 (BitVec.ofNat 64 k)))))

/-- mb.mx.op (R203): the outer products of the batch rows, 64 at a step. -/
def unitOp (s : State) : Except Halt State :=
  let t := s.task
  let arg : Nat → Nat := fun i => (t.sreg (8 + i)).toNat
  let c := arg 0
  let batch := arg 5
  let acc := arg 7 = 1
  match pairOf (t.sreg 14) with
  | none => callFault .illegal 0
  | some (af, wf) =>
    if wf = .d2p8 || 1 < arg 7 || batch = 0 || (List.range 5).any (fun i => !highZero (t.sreg (8 + i)) 21) then callFault .illegal 0
    else
      let m := pairArray af wf
      let n := (batch + 63) / 64
      let step := opStep acc batch (arg 1) (arg 2) (arg 3) (arg 4)
      unitCheck ((List.range n).findSome? fun j => stepFault t (step j) m)
        (unitCheck (tileFault t c acc)
          (let r := (List.range n).foldl (fun (p : Sparse 32 × TileFlags) j =>
             let v := (step j).values m t.lmem
             stepTile true (step j).acc (step j).rows v.1 v.2 p.1 p.2) (tileAt t.lmem c, ⟨false, false⟩)
           let t1 : Task := { t with lmem := putTile t.lmem c r.1 }
           .ok (s.setTask ((t1.addFlags (tileFlags s.tick r.2)).setWin 16 (BitVec.ofNat 64 batch)))))

/-- mb.mx.rd (R203): MRD's scratchpad form on a tile in LOCAL. -/
def unitRd (s : State) : Except Halt State :=
  let t := s.task
  let arg : Nat → Nat := fun i => (t.sreg (8 + i)).toNat
  let w : MrdCtl := { satb := (t.sreg 13).getLsbD 3, ofmt := formatOf (arg 5 % 8), dm := false, vr := 0, row0 := arg 3, nr := arg 4,
                      tile := 0 }
  let n := fsize w.ofmt
  if !highZero (t.sreg 14) 32 || !highZero (t.sreg 13) 4 || arg 5 % 8 = 7 || w.nr = 0 || 64 < w.row0 + w.nr
      || (List.range 3).any (fun i => !highZero (t.sreg (8 + i)) 21) then callFault .illegal 0
  else
    unitCheck (mrdDest t (arg 1) (arg 2) (64 * n) w.nr)
      (unitCheck (if arg 0 % 64 ≠ 0 then some (.alignLocal, t.sreg 8) else localReadFault t (t.sreg 8) 16384 1)
        (let es := mrdRows { MxArray.reset with oscale := lo32 (t.sreg 14), tile0 := tileAt t.lmem (arg 0) } w
         let rows := groupsOf 64 w.nr (es.map Prod.fst)
         let writes := (rows.zip (List.range w.nr)).flatMap fun r =>
           atAddr (arg 1 + r.2 * arg 2) (r.1.flatMap fun x => natLe n x.toNat)
         .ok (s.setTask ({ t with lmem := ssetMany t.lmem writes }.addFlags (es.foldl (fun (f : Flags) (e : Lane × Flags) => f.or e.2) Flags.none)))))

/-- mb.mx.clr (R203): every element of the tile becomes +0. -/
def unitClr (s : State) : Except Halt State :=
  let t := s.task
  if !highZero (t.sreg 8) 21 then callFault .illegal 0
  else unitCheck (tileFault t (t.sreg 8).toNat false) (.ok (s.setTask { t with lmem := putTile t.lmem (t.sreg 8).toNat [] }))

/-! ### The witness routines (R251) -/

/-- The trigger of a witness unit: bank A operands from the window, on no bus of an LIW. -/
def witTrig (s : State) (a b c val : Word) : Trig :=
  { s0 := s, pc := 0, next := 0, bus := 0xFF, nt := 0, val := val, lanes := [],
    ports := ((s.task.ports.setA 640 a).setA 641 b).setA 642 c, perf := [] }

/-- The operation that a witness trigger has enqueued is performed whole; a refused one has set its flags alone (R245 to R249). -/
def witPerform (s : State) (r : Except Halt Acc) : Except Halt State :=
  match r with
  | .error h => .error h
  | .ok a =>
    let t := s.task
    let fl := (a.st.task.pipe.drop t.pipe.length).foldl (fun f p => f.or p.flags) Flags.none
    .ok (match (a.st.task.cmds.drop t.cmds.length).getLast? with
      | some c => ((s.mapTask fun t => performFormed (t.addFlags fl) c).forget c.formedKeys).chargeCmd c
      | none => s.mapTask fun t => t.addFlags fl)

/-- Two LOCAL bases of 21 bits as the witness unit's .a holds them; a base beyond them leaves a reserved bit set (R244, R248). -/
def witBases (x y : Word) : Word := if highZero x 21 && highZero y 21 then x ||| y <<< 21 else BitVec.allOnes 64

/-- The trigger value of a descriptor and a bit above it (R244, R248). -/
def witValue (d b : Word) : Word := if highZero d 21 && highZero b 1 then d ||| b <<< 21 else BitVec.allOnes 64

/-- mb.wit.max, min, med, clmp and ssum, by kind 1 to 5 (R251). -/
def unitReduce (kind : Nat) (s : State) : Except Halt State :=
  let r : Nat → Word := fun i => s.task.sreg (8 + i)
  let tie : Word := if kind ≤ 3 then r 4 else 0
  let bounds : Word := if kind ≤ 3 then 0 else (r 4 &&& 0xFFFFFFFF) ||| r 5 <<< 32
  witPerform s (trigReduce kind (witTrig s (witBases (r 0) (r 1)) bounds (r 3) (witValue (r 2) tie)) (Acc.init s))

/-- mb.wit.adjb (R251). -/
def unitAdjb (s : State) : Except Halt State :=
  let r : Nat → Word := fun i => s.task.sreg (8 + i)
  witPerform s (trigAdjb (witTrig s (witBases (r 0) (r 1)) 0 0 (witValue (r 2) (r 3))) (Acc.init s))

/-! ### Which unit an entry names -/

/-- A unit that keeps to the task's registers and scratchpad. -/
def onTask (f : Task → Except Halt Task) (s : State) : Except Halt State := (f s.task).map s.setTask

/-- The Mboand routines with a unit that the model performs whole (R322): the routine's ID and the unit's effect. mb.dot4.bf16's unit
number is given (R323), that of the others is not and is free (log 16). -/
def mboandUnits : List (Nat × (State → Except Halt State)) :=
  [(0x0100, onTask unitSoftmax), (0x0200, unitMm false), (0x0201, unitMm true), (0x0202, unitOp), (0x0203, unitRd), (0x0204, unitClr),
   (0x0210, unitReduce 1), (0x0211, unitReduce 2), (0x0212, unitReduce 3), (0x0213, unitReduce 4), (0x0214, unitReduce 5),
   (0x0215, unitAdjb)]

/-- The effect of the native unit of a number; `none` where the part's unit is known by its routine's body alone (R316). -/
def unitEffect (u : Nat) : Option (State → Except Halt State) :=
  if u = 0x0041 then some (onTask unitDot4)
  else (mboandUnits.find? fun x => Config.unitOf x.1 = u).map fun x => x.2

end Sys2Proof.Machine
end

