-- ==== Sys2Proof/Machine/Routine.lean ====
section
/-! DEFINITION. Calling a routine by its ID (18_routines_substitution.md): CALLR (R107, R320), SUBQ (R320), the service
routines (R269, R310, R311), the native units of mb.dot4.bf16 (R323) and mb.softmax.row (R321), NEAR units (R319), and the
state that no call promises to keep (R317). -/

namespace Sys2Proof.Machine

/-! ### Bindings -/

/-- The routine of an ID in the module that holds an address (R107). -/
def State.routineAt (s : State) (pc : Word) (id : Nat) : Option Routine :=
  if s.cur.isFirmware then none
  else match s.curCtx.moduleAt pc with
    | none => none
    | some m => m.routines.find? fun r => r.id.toNat = id

/-- The entry whose unit a CALLR performs at a level (R313, R320); `none` for the body. -/
def Routine.choice (r : Routine) (lv : Level) : Option SubstEntry :=
  match lv, r.nearU with
  | .dl0, some e => some e
  | _, _ => r.eq

/-- An entry of a routine, whichever unit a call chooses: it tells the routine's numbers of arguments and results (R314). -/
def Routine.known (r : Routine) : Option SubstEntry := r.eq.or r.nearU

/-- The ranges of a call by its entry: base, bytes, and whether the routine writes them (R314), in the callee's window. -/
def callRanges (t : Task) (e : SubstEntry) : List (Nat × Nat × Bool) :=
  (e.ranges.filter fun d => d.extractLsb' 0 8 ≠ 0xFF).map fun d =>
    ((t.sreg (8 + (d.extractLsb' 0 8).toNat)).toNat,
     (t.sreg (8 + (d.extractLsb' 8 8).toNat)).toNat * 2 ^ (d.extractLsb' 16 4).toNat,
     d.getLsbD 20 || d.getLsbD 21)

/-- Two ranges of a call do not overlap, unless both are inputs (R320). -/
def rangesApart (x y : Nat × Nat × Bool) : Bool := !((x.2.2 || y.2.2) && overlap x.1 x.2.1 y.1 y.2.1)

/-- The argument values of a call let its unit stand for the body (R320). -/
def unitAllowed (t : Task) (e : SubstEntry) : Bool := allPairs rangesApart (callRanges t e)

/-! ### State that a call leaves open (R317) -/

/-- Fill a run of keys with values, keeping the canonical form. -/
def sfill {w : Nat} (m : Sparse w) (lo n : Nat) (f : Nat → BitVec w) : Sparse w :=
  sbelow m lo
    ++ ((List.range n).filterMap fun i => if f (lo + i) = 0 then none else some (lo + i, f (lo + i)))
    ++ m.filter fun x => lo + n ≤ x.1

/-- A map with an open value at each of some rising keys. -/
def openMap {w : Nat} (f : Nat → BitVec w) (ks : List Nat) : Sparse w :=
  ks.filterMap fun k => if f k = 0 then none else some (k, f k)

/-- The operand ports and result latches of bank A, and those of the clusters by lane (R42, R43). mem.y, port 451, is never written and
reads 0 (R220). -/
def portKeysA : List Nat :=
  ((List.range 12).flatMap fun b => (List.range 4).map fun o => 64 * (b + 1) + o).filter fun p => p ≠ 451
/-- See `portKeysA`. -/
def unitKeysB : List Nat :=
  (List.range 8).flatMap fun c => ([72, 94, 101, 109] : List Nat).flatMap fun o => (List.range 4).map fun i => 128 * c + o + i

/-- The operand ports and result latches of every unit are left open. -/
def openPorts (n : Nat) (t : Task) : Task :=
  { t with ports :=
    { a := openMap (fun k => openWord n k) portKeysA,
      b := openMap (fun k => (openWord n (4096 + k)).setWidth 32) (unitKeysB.flatMap fun p => (List.range 16).map fun l => 16 * p + l),
      unw := openMap (fun k => (openWord n (65536 + k)).setWidth 16) (unitKeysB.filter fun p => readableB (p % 128)) } }

/-- The window entries from logical position `lo` on, below `hi`. -/
def openWindow (n lo hi : Nat) (t : Task) : Task :=
  let at' : Nat → Nat := fun e => t.fr.rb + (e + 256 - t.fr.rb % 256) % 256
  let dead := (List.range 256).filter fun e => lo ≤ at' e && at' e < hi
  { t with fr := { t.fr with win := dead.foldl (fun m e => sset m e (openWord n (70000 + e))) t.fr.win } }

/-- What R317 leaves open after every routine: v0 to v15, k1 to k3, p1 to p3 and p8 to p15, the backing store from s2, ports and
latches. -/
def afterCall (n : Nat) (t : Task) : Task :=
  let p := (openWord n 71000).setWidth 16
  { openPorts n t with
    preds := (t.preds &&& 0x00F1) ||| (p &&& 0xFF0E),
    masks := sfill t.masks 1 3 fun k => openWord n (71010 + k) ++ openWord n (71020 + k),
    vregs := sfill t.vregs 0 2048 fun k => (openWord n (72000 + k)).setWidth 32,
    lmem := sfill t.lmem t.s2.toNat (t.fr.bslim - t.s2.toNat) fun k => (openWord n (80000 + k)).setWidth 8 }

/-- What R317 leaves open after a routine whose arguments and results are known: also the window entries from logical position `lo` to
below `hi`. -/
def afterRoutine (n lo hi : Nat) (t : Task) : Task := afterCall n (openWindow n lo hi t)

/-! ### SUBQ -/

/-- What SUBQ reports at DL0 (R320). -/
def subqWord (s : State) (pc : Word) (id : Nat) (service : Bool) : Word :=
  if service then 0xFFFF0001
  else if 0xF000 ≤ id then 3
  else match s.routineAt pc id with
    | none => 3
    | some r => match r.choice s.task.tstat.dl with
      | none => if r.nearU.isSome then 4 else 0
      | some e => e.cver.setWidth 64 <<< (32 : Nat) ||| e.unit.setWidth 64 <<< (16 : Nat)
          ||| (if r.nearU.isSome then 4 else 0) ||| (if e.near then 2 else 1)

/-- A service routine: its trigger port, the ports its arguments fill in order (`none` for the trigger value), and the
latch whose value it returns, 0 for none (R269, R311). -/
structure Service where
  port  : Nat
  args  : List (Option Nat)
  latch : Nat
  deriving DecidableEq, Repr

/-- The service routines by ID (R310, R311). -/
def service? (id : Nat) : Option Service :=
  match id with
  | 0xF000 => some ⟨87, [none], 67⟩
  | 0xF001 => some ⟨88, [some 64, none], 67⟩
  | 0xF002 => some ⟨89, [none], 67⟩
  | 0xF003 => some ⟨90, [some 64, none], 67⟩
  | 0xF004 => some ⟨91, [none], 67⟩
  | 0xF005 => some ⟨92, [], 0⟩
  | 0xF006 => some ⟨98, [none], 67⟩
  | 0xF010 => some ⟨772, [some 768, some 769, none], 0⟩
  | 0xF011 => some ⟨773, [some 768, none], 0⟩
  | 0xF012 => some ⟨774, [some 768, none], 0⟩
  | 0xF013 => some ⟨775, [some 768, none], 0⟩
  | 0xF014 => some ⟨776, [none], 771⟩
  | 0xF015 => some ⟨0, [], 0⟩
  | 0xF016 => some ⟨708, [none], 0⟩
  | 0xF017 => some ⟨709, [some 704, some 705, some 706, none], 707⟩
  | 0xF018 => some ⟨710, [some 704, some 705, some 706, none], 707⟩
  | 0xF019 => some ⟨711, [some 704, none], 0⟩
  | 0xF01A => some ⟨85, [], 67⟩
  | 0xF01B => some ⟨86, [], 67⟩
  | 0xF020 => some ⟨650, [], 643⟩
  | 0xF021 => some ⟨651, [none], 643⟩
  | 0xF030 => some ⟨99, [none], 0⟩
  | 0xF031 => some ⟨100, [none], 0⟩
  | 0xF032 => some ⟨101, [none], 0⟩
  | 0xF033 => some ⟨102, [none, some 64], 67⟩
  | 0xF034 => some ⟨103, [none, some 64], 67⟩
  | 0xF035 => some ⟨104, [none], 0⟩
  | 0xF036 => some ⟨105, [none], 0⟩
  | 0xF050 => some ⟨712, [some 704, some 705, some 706, none], 707⟩
  | 0xF051 => some ⟨713, [none], 707⟩
  | 0xF058 => some ⟨106, [none], 67⟩
  | 0xF059 => some ⟨107, [none], 67⟩
  | _ => none

/-- SUBQ (R320). -/
def trigSubq (c : Trig) (a : Acc) : Except Halt Acc :=
  if !highZero c.val 16 then c.fault .illegal 0
  else realTime c a 67 (subqWord c.s0 c.pc c.val.toNat (service? c.val.toNat).isSome)

/-! ### CALLR -/

/-- The ID names a defined service routine or a routine of the calling object (R107). -/
def knownRoutine (s : State) (pc : Word) (id : Nat) : Bool :=
  if 0xF000 ≤ id then (service? id).isSome else (s.routineAt pc id).isSome

/-- CALLR (R103, R107): the call action, after which the routine is performed. -/
def doCallr (c : Trig) (a : Acc) (o id : Nat) : Except Halt Acc :=
  if !knownRoutine c.s0 c.pc id then c.fault .illegal 0
  else
    let entry : Word × Bool := match c.s0.routineAt c.pc id with
      | some r => if id < 0xF000 then (r.entry, r.restart) else (c.next, true)
      | none => (c.next, true)
    match finishCall c a o entry.1 entry.2 with
    | .error h => .error h
    | .ok a1 => .ok { a1 with after := .routine id }

/-- CALLR natively. -/
def trigCallr (c : Trig) (a : Acc) : Except Halt Acc :=
  let o := c.opA 64
  if !slideOk o || !highZero c.val 16 then c.fault .illegal 0 else doCallr c a o.toNat c.val.toNat

/-- CALLR of Peman. -/
def slotCallr (g : Gd) (o : BitVec 5) (i : BitVec 16) : Slot :=
  { gd := g, regs := [2], run := fun c a => doCallr c a o.toNat i.toNat }

/-! ### Triggers by port -/

/-- A trigger of ctl by its port (R42). -/
def trigCtl (port : Nat) (c : Trig) (a : Acc) : Except Halt Acc :=
  match port with
  | 68 => trigBr c a
  | 69 => trigJmp c a
  | 70 => trigCall c a
  | 71 => trigCalli c a
  | 72 => doReturn c a
  | 73 => trigCallr c a
  | 74 => trigLoop c a
  | 75 => trigEndl c a
  | 76 => trigTrap c a
  | 77 => trigEndt c a
  | 79 => trigFmtset c a
  | 80 => trigLset c a
  | 81 => trigSpred c a
  | 82 => trigBuck c a
  | 83 => trigIclk c a
  | 84 => trigIcul c a
  | 85 => trigTnow c a
  | 86 => trigGcyrd c a
  | 87 => trigLaunch c a
  | 88 => trigJoin c a
  | 89 => trigCancel c a
  | 90 => trigCntrd c a
  | 91 => trigCorid c a
  | 92 => trigYield c a
  | 93 => trigSyscall c a
  | 94 => trigRft c a
  | 95 => trigCsrr c a
  | 96 => trigCsrw c a
  | 97 => trigTlbi c a
  | 98 => trigSubq c a
  | 99 => trigBlock 0 c a
  | 100 => trigBlock 1 c a
  | 101 => trigBlock 2 c a
  | 102 => trigBexp c a
  | 103 => trigBwait c a
  | 104 => trigBlock 3 c a
  | 105 => trigBlock 4 c a
  | 106 => trigEnrd c a
  | 107 => trigEnreq c a
  | _ => .ok a

/-- A trigger of a matrix array by its offset (R42). -/
def trigMx (arr off : Nat) (c : Trig) (a : Acc) : Except Halt Acc :=
  match off with
  | 4 => trigMcfg arr c a
  | 5 => trigMlw arr c a
  | 6 => trigMswp arr c a
  | 7 => trigStep arr false c a
  | 8 => trigStep arr true c a
  | 9 => trigMrd arr c a
  | _ => trigMclr arr c a

/-- A trigger of the witness unit by its offset (R42). -/
def trigWit (off : Nat) (c : Trig) (a : Acc) : Except Halt Acc :=
  if off ≤ 8 then trigReduce (off - 3) c a
  else match off with
    | 9 => trigAdjb c a
    | 10 => trigWtag c a
    | _ => trigWrel c a

/-- A trigger of the block-transfer engine by its offset (R42). -/
def trigBte (off : Nat) (c : Trig) (a : Acc) : Except Halt Acc :=
  match off with
  | 4 => trigShape c a
  | 5 => trigCpy c a
  | 6 => trigCpys c a
  | 7 => trigEchk c a
  | 8 => trigWsload c a
  | _ => trigWsref c a

/-- A trigger of qu by its offset (R42). -/
def trigQu (off : Nat) (c : Trig) (a : Acc) : Except Halt Acc :=
  match off with
  | 4 => trigQcfg c a
  | 5 => trigQpush c a
  | 6 => trigQadv c a
  | 7 => trigQwait c a
  | _ => trigQstat c a

/-- A bank A trigger by its port (R42). -/
def trigA (port : Nat) (c : Trig) (a : Acc) : Except Halt Acc :=
  match port / 64 with
  | 1 => trigCtl port c a
  | 2 => trigSa 128 (port % 64) c a
  | 3 => trigSa 192 (port % 64) c a
  | 4 => trigSf (port % 64) c a
  | 5 => trigLs 320 (port % 64) c a
  | 6 => trigLs 384 (port % 64) c a
  | 7 => trigMem (port % 64) c a
  | 8 => trigMx 0 (port % 64) c a
  | 9 => trigMx 1 (port % 64) c a
  | 10 => trigWit (port % 64) c a
  | 11 => trigBte (port % 64) c a
  | 12 => trigQu (port % 64) c a
  | _ => .ok a

/-! ### Post actions -/

/-- What the sequencer and ctl do at the end of an LIW (R91). -/
def seqPost (t : Task) (p : Post) : Task :=
  match p with
  | .pushLevel l =>
    { t with sq := { t.sq with loops := l :: t.sq.loops },
             preds := if l.r then (t.preds &&& 0x00FF) ||| 0x0100 else t.preds }
  | .setCfg c => { t with sq := { t.sq with cfg := c } }
  | .endLevel => endLevel t
  | .stagePreds m v => { t with preds := stagePreds t.preds m v }
  | .predWrite n b => t.setPred n b
  | .maskWrite k v => t.setMask k (BitVec.allOnes 128) v
  | _ => t

/-- What qu and SHAPE do at the end of an LIW (R160, R169). -/
def queuePost (t : Task) (p : Post) : Task :=
  match p with
  | .slot bs => { t with lmem := ssetMany t.lmem bs }
  | .bind b fresh => bindQueue t b fresh
  | .unbind j => unbindQueue t j
  | _ => t

/-- The call and the return of an LIW at `pc`, followed by `next` (R103, R109, R318). -/
def framePost (pc next : Word) (t : Task) (p : Post) : Task :=
  match p with
  | .call o restart =>
    let t1 := doCall t next o
    if restart && t.restart.isNone then
      { t1 with restart := some { depth := t1.fr.depth, pc := pc, s2 := t.s2, rb := t.fr.rb, loops := t.sq.loops.length } }
    else t1
  | .ret => doRet t
  | _ => t

/-! ### Performing a service routine -/

/-- How a routine goes on from its call: its body runs; a service has been performed, with the callee's window entries from `keep` to
below `top` left open (R317), or waits for a command (R311); or its unit is performed next, behind a pre-emption point (R97, R320). -/
inductive Performed where
  | body (s : State)
  | back (s : State) (keep top : Nat) (after : After)
  | held (s : State) (cmd : Nat)
  | unit (s : State) (n keep top : Nat)
  deriving DecidableEq, Repr

/-- The arguments of a service in its callee's window, with the port each one fills. -/
def serviceArgs (t : Task) (v : Service) : List (Option Nat × Word) :=
  (v.args.zip (List.range v.args.length)).map fun x => (x.1, t.sreg (8 + x.2))

/-- The trigger of a service: the operand ports it uses hold its arguments; an "at" operand is a delay (R311). -/
def serviceTrig (s : State) (pc next : Word) (v : Service) : Trig :=
  let put : Ports → Option Nat × Word → Ports := fun p x => match x.1 with
    | some 706 => p.setA 706 (BitVec.ofNat 64 s.task.sq.tau + x.2)
    | some k => p.setA k x.2
    | none => p
  let args := serviceArgs s.task v
  let val := match args.find? fun x => x.1.isNone with
    | some x => x.2
    | none => 0
  { s0 := s, pc := pc, next := next, bus := 0xFF, nt := 0, val := val, lanes := [], ports := args.foldl put s.task.ports,
    perf := [] }

/-- The value that a trigger has left for a latch, and the flags it has left: its entries behind the first `n` results in
flight. -/
def leftFor (t : Task) (n latch : Nat) : Word × Flags :=
  let mine := t.pipe.drop n
  ((mine.foldl (fun v p => if p.dest = .latchA latch then p.val else v) 0), mine.foldl (fun f p => f.or p.flags) Flags.none)

/-- The effects of a service's trigger take place at once (R311): queue writes and accounting, its result in s8. -/
def endService (t : Task) (a : Acc) (v : Service) : Except Halt State :=
  if !acctOk t a.acct then callFault .queue 0
  else
    let r := leftFor a.st.task t.pipe.length v.latch
    .ok (a.st.mapTask fun x =>
      let t1 := applyAcct (a.post.foldl queuePost { x with pipe := t.pipe }) a.acct
      (t1.addFlags r.2).setWin 8 r.1)

/-- sv.qpop (R311). -/
def serviceQpop (s : State) : Except Halt State :=
  let t := s.task
  let j := t.sreg 8
  match t.queue? j.toNat with
  | none => callFault .queue 0
  | some b =>
    if earlyHead t b then callFault .earlyRead (BitVec.ofNat 64 (b.slot b.head))
    else if t.sreg 9 = 0 then .ok (s.setTask (t.setWin 8 (t.latch j.toNat)))
    else if b.fill = 0 then callFault .queue 0
    else .ok (s.setTask ((applyAcct t [(j.toNat, 1, 0)]).setWin 8 (t.latch j.toNat)))

/-- GT of the control word of sv.cpy, sv.cpys or sv.wsload (R170, R171, R180). -/
def serviceGt (id : Nat) (w : Word) : Bool := w.getLsbD (if id = 0xF017 then 40 else if id = 0xF018 then 46 else 28)

/-- Perform a service routine in the callee's frame (R310, R311). -/
def runService (pc next : Word) (id : Nat) (v : Service) (s : State) : Except Halt Performed :=
  let c := serviceTrig s pc next v
  if id = 0xF015 then (serviceQpop s).map fun s => .back s 1 512 .go
  else if id = 0xF01A && s.task.tstat.dl = .dl2 then
    .ok (.back (s.mapTask fun t => t.setTaint.setWin 8 0) 1 512 .go)
  else match trigA v.port c (Acc.init s) with
    | .error h => .error h
    | .ok a => match a.wait with
      | some w => .error (.wait w)
      | none => match endService s.task a v with
        | .error h => .error h
        | .ok s1 =>
          if v.port = 709 || v.port = 710 || v.port = 712 then
            match s1.task.cmds.getLast? with
            | none => .ok (.back s1 1 512 .go)
            | some k =>
              let due := if serviceGt id c.val then BitVec.allOnes 64 else BitVec.ofNat 64 (k.due - s.task.sq.tau)
              .ok (.held (s1.mapTask fun t => t.setWin 8 due) k.id)
          else .ok (.back s1 1 512 a.after)

/-! ### Native units -/

/-- The callee's window entry from which a unit leaves the window as it was: for mb.softmax.row, whose worked final state
keeps the caller's s20 to s22 under a slide of 4, its s16 (R317, R321; log 13). -/
def unitTop (e : SubstEntry) : Nat := if e.unit ≠ 0x0041 && e.unit.toNat = Config.unitOf 0x0100 then 8 else 512

/-- A FP32 output of a NEAR unit: the body's, moved by at most EB units in the last place, within its kind and sign. -/
def nearLane (eb i : Nat) (x : Lane) : Lane :=
  let m := x.toNat % 2 ^ 31
  let d := min (Config.nearUlp i).1 eb
  if m = 0 || 0x7F800000 ≤ m then x
  else
    let m' := if (Config.nearUlp i).2 then min (m + d) 0x7F7FFFFF else max (m - d) 1
    BitVec.ofNat 32 (x.toNat / 2 ^ 31 * 2 ^ 31 + m')

/-- A range of a call that its routine writes as FP32 elements (R314, R319): base and bytes. -/
def fp32Outputs (t : Task) (e : SubstEntry) : List (Nat × Nat) :=
  ((e.ranges.filter fun d => d.extractLsb' 0 8 ≠ 0xFF).zip (callRanges t e)).filterMap fun x =>
    if x.2.2.2 && x.1.extractLsb' 16 4 = 2 then some (x.2.1, x.2.2.1) else none

/-- The outputs and flags of a NEAR unit at the return from the frame that its body runs in (R319): FP32 elements of the output ranges and
result registers that hold an FP32 pattern zero-extended move by at most EB; what is no FP32 output is the body's. Flags may differ,
beyond the caller's own (R62). -/
def nearOutputs (n : Nat) (e : SubstEntry) (own : Flags) (t : Task) : Task :=
  let eb := e.eb.toNat
  let lm := (fp32Outputs t e).foldl (fun (m : Sparse 8) r =>
    writeBytes m r.1 (bytesOfLanes (((lanesOf (readBytes m r.1 r.2)).zip (List.range (r.2 / 4))).map fun x =>
      nearLane eb (2 ^ 32 * n + r.1 + x.2) x.1))) t.lmem
  let t1 := (List.range e.nr).foldl (fun (t : Task) i =>
    let v := t.sreg (8 + e.na + i)
    if highZero v 32 then t.setWin (8 + e.na + i) ((nearLane eb (2 ^ 32 * n + 2 ^ 24 + i) (v.setWidth 32)).setWidth 64) else t)
    { t with lmem := lm }
  let f := Config.nearFlags n
  { t1 with fmt := { t1.fmt with flags := own.or { nv := f.1, dz := f.2.1, ovf := f.2.2.1, nf := f.2.2.2 } } }

/-! ### Frames of routines -/

/-- The results that the Eddy holds, and the FMTSET values, each with its τ (R282). -/
def Task.eddyFlags (t : Task) : List (Nat × Flags) := t.eddy.filterMap fun x => match x.val with
  | .result p => some (x.ready, p.flags)
  | .fmt _ => none
/-- See `Task.eddyFlags`. -/
def Task.eddyFmts (t : Task) : List (Nat × BitVec 16) := t.eddy.filterMap fun x => match x.val with
  | .result _ => none
  | .fmt v => some (x.ready, v)

/-- The frame of a routine that has just been called (R317 to R320): see `CallFrame`. A write that a command will make counts with the
flags it has formed. -/
def callFrame (t : Task) (e known : Option SubstEntry) : CallFrame :=
  { depth := t.fr.depth, entry := e, known := known, flags := t.fmt.flags,
    owed := t.pipe.map (fun p => (p.ready, p.flags)) ++ t.cmds.map (fun c => (c.due + 1, c.flags)) ++ t.eddyFlags,
    clears := ((t.fmtPend ++ t.eddyFmts).filter fun x => x.2.getLsbD 15).map fun x => x.1,
    loads := t.loads.map fun r => r.id,
    bytes := e.elim [] fun e => ((callRanges t e).filter fun r => r.2.2).map fun r => (r.1, readBytes t.lmem r.1 r.2.1),
    regs := e.elim [] fun e => (List.range e.nr).map fun i => (sregAt t.fr.fb (8 + e.na + i), t.sreg (8 + e.na + i)) }

/-- The frame of a routine that the task returns from now. -/
def Task.leaving (t : Task) : Option CallFrame := t.calls.find? fun x => x.depth = t.fr.depth

/-- A return from the frame of a routine, before R109: a NEAR unit's outputs stand in the place of its body's (R319). -/
def State.nearReturn (s : State) : State :=
  match s.task.leaving with
  | some f => match f.entry with
    | some e => if e.near then { s.mapTask fun t => nearOutputs s.tick e (f.own t.sq.tau) t with tick := s.tick + 1 } else s
    | none => s
  | none => s

/-- A return from the frame of a routine, after R109: what R317 leaves open. `t0` is the task at the RET. -/
def State.openReturn (s : State) (t0 : Task) : State :=
  match t0.leaving with
  | none => s
  | some f =>
    let s1 := s.mapTask fun t => match f.known with
      | none => afterCall s.tick t
      | some e => afterRoutine s.tick (t0.fr.fb + e.na + e.nr) (t0.fr.fb + unitTop e) t
    { s1 with tick := s1.tick + 1 }

/-! ### Performing a routine -/

/-- A load is outstanding to an entry of the window (R221). -/
def windowPending (t : Task) : Bool := (List.range 24).any fun i => t.pending (sregAt t.fr.fb (8 + i))

/-- The task in the callee's frame goes on in the routine's body: of its own, or in a unit's place. What a unit's body calls is part of
the unit. -/
def enterBody (e known : Option SubstEntry) (t : Task) : Task :=
  if t.inUnit then t else { t with calls := callFrame t e known :: t.calls }

/-- The level at which a routine that is called now chooses its binding (R320): inside a unit, and on a Tannery (R341), NEAR units do not
count. -/
def State.bindLevel (s : State) : Level := if s.task.inUnit || s.cur.kind = .tannery then .dl1 else s.task.tstat.dl

/-- `n` open bytes of a pending command. -/
def openBytes (n id k : Nat) : List Byte := (List.range k).map fun i => (openWord n (2 ^ 40 * (id + 1) + i)).setWidth 8

/-- The values that a pending engine write of a caller brings are left open (R317): what it has read or formed, and what it has still to
read of LOCAL. -/
def openCmd (n : Nat) (c : Cmd) : Cmd :=
  let data := match c.kind with
    | .copy .local _ _ _ sl _ _ => openBytes n c.id (layoutSize sl)
    | .mlw _ .local sa str _ wf => openBytes n c.id ((blockRanges sa.toNat str wf).map Prod.snd).sum
    | .step _ mop _ _ rows _ _ _ _ af wf _ => openBytes n c.id (rows * (64 * mxElem af + if mop then 64 * mxElem wf else 0))
    | .braid _ => c.data
    | .bfetch _ _ _ => c.data
    | _ => openBytes n c.id c.data.length
  { c with data := data,
           cells := if c.cells.isEmpty then [] else sfill [] 0 4096 fun k => (openWord n (2 ^ 40 * (c.id + 1) + 2 ^ 36 + k)).setWidth 32,
           writes := (c.writes.zip (openBytes n (c.id + 2 ^ 20) c.writes.length)).map fun x => (x.1.1, x.2),
           lanes := (c.lanes.zip (List.range c.lanes.length)).map fun x =>
             (x.1.1, (openWord n (2 ^ 40 * (c.id + 1) + 2 ^ 37 + x.2)).setWidth 32) }

/-- The value that a result in flight brings is left open (R317); its flags stand. -/
def openPipe (n i : Nat) (p : Pipe) : Pipe :=
  let w : Nat → Word := fun k => openWord n (2 ^ 70 + 2 ^ 8 * i + k)
  { p with val := w 0, lanes := (List.range p.lanes.length).map fun k => (w (k + 1)).setWidth 32 }

/-- The caller's pending engine writes and in-flight results once it has called a routine (R317; log 13). -/
def State.openPending (s : State) : State :=
  if s.task.pipe.isEmpty && s.task.cmds.isEmpty then s
  else
    let s1 := s.mapTask fun t => { t with
      pipe := ((List.range t.pipe.length).zip t.pipe).map (fun x => openPipe s.tick x.1 x.2), cmds := t.cmds.map (openCmd s.tick) }
    { s1 with tick := s1.tick + 1 }

/-- Perform a routine in the callee's frame, after the CALLR of an LIW at `pc` (R311, R320). Its unit or its body is chosen once the loads
outstanding to its window have arrived (R221). A unit whose effect the model does not know by its number stands in its body's place (R316,
R319). -/
def performRoutine (pc next : Word) (id : Nat) (s : State) : Except Halt Performed :=
  match service? id, s.routineAt pc id with
  | some v, _ => if windowPending s.task then .error (.wait .load) else runService pc next id v s
  | none, none => .ok (.body s)
  | none, some r =>
    match r.choice s.bindLevel with
    | none => .ok (.body (s.mapTask (enterBody none r.known)))
    | some e =>
      if windowPending s.task then .error (.wait .load)
      else if !unitAllowed s.task e then .ok (.body (s.mapTask (enterBody none r.known)))
      else if !e.near && (unitEffect e.unit.toNat).isSome then .ok (.unit s e.unit.toNat (e.na + e.nr) (unitTop e))
      else .ok (.body (s.mapTask (enterBody (some e) r.known)))

/-- The return from a routine that has been performed (R109, R320), with what R317 leaves open. -/
def leaveRoutine (keep top : Nat) (next : Word) (s : State) : State :=
  let lo := s.task.fr.fb + keep
  let hi := s.task.fr.fb + top
  let s1 := s.mapTask fun t =>
    let t1 := afterRoutine s.tick lo hi (doRet t)
    { t1 with sq := { t1.sq with pc := next } }
  { s1 with tick := s1.tick + 1 }

end Sys2Proof.Machine
end

