-- ==== Sys2Proof/Machine/Slots.lean ====
section
/-! DEFINITION. The operation of each Peman slot word (R32, R34): what the slot of an instruction does in its bundle, and the
slot in which it stands when it is alone. -/

namespace Sys2Proof.Machine

/-- The all-zero slot word (R31). -/
def slotNop : Slot := { gd := Gd.always, regs := [], run := fun _ a => .ok a }

/-- A vector function by its fn code; a code without one does nothing here, since decoding refuses it (R34). -/
def laneFn2 (o : Option Fn2) : Fn2 := o.getD fun _ a _ => (a, Flags.none)

/-- See `laneFn2`. -/
def laneFn1 (o : Option Fn1) : Fn1 := o.getD fun _ a => (a, Flags.none)

/-- A one-operand scalar slot. -/
def slotR (g : Gd) (d a : BitVec 5) (f : Word → Word) : Slot := slotWrite g [a.toNat] d fun t => f (t.sreg a.toNat)

/-- A slot that combines two predicates (R83). -/
def slotCombine (op : Nat) (g : Gd) (d a b : BitVec 4) (y x : Bool) : Slot :=
  slotPred g [] d fun t => combine op (t.pred a.toNat) (t.pred b.toNat) x y

/-- The operation of a Peman instruction; `none` for a native row or a step. -/
def slotOf (i : Instr) : Option Slot :=
  match i with
  | .nop => some slotNop
  | .add g d a b => some (slotRR g d a b fun x y => x + y)
  | .addI g d a i => some (slotRI g d a i fun x y => x + y)
  | .sub g d a b => some (slotRR g d a b fun x y => x - y)
  | .mul g d a b => some (slotRR g d a b fun x y => x * y)
  | .mulh g d a b u => some (slotRR g d a b (mulHigh u))
  | .div g d a b u => some (slotRR g d a b (divide u))
  | .rem g d a b u => some (slotRR g d a b (remainder u))
  | .and g d a b => some (slotRR g d a b fun x y => x &&& y)
  | .andI g d a i => some (slotRI g d a i fun x y => x &&& y)
  | .or g d a b => some (slotRR g d a b fun x y => x ||| y)
  | .orI g d a i => some (slotRI g d a i fun x y => x ||| y)
  | .xor g d a b => some (slotRR g d a b fun x y => x ^^^ y)
  | .xorI g d a i => some (slotRI g d a i fun x y => x ^^^ y)
  | .andn g d a b => some (slotRR g d a b fun x y => x &&& ~~~ y)
  | .shl g d a b => some (slotRR g d a b shiftL)
  | .shlI g d a i => some (slotRS g d a i shiftL)
  | .shr g d a b => some (slotRR g d a b shiftR)
  | .shrI g d a i => some (slotRS g d a i shiftR)
  | .sar g d a b => some (slotRR g d a b shiftA)
  | .sarI g d a i => some (slotRS g d a i shiftA)
  | .rol g d a b => some (slotRR g d a b rotL)
  | .rolI g d a i => some (slotRS g d a i rotL)
  | .min g d a b u => some (slotRR g d a b (minOf u))
  | .max g d a b u => some (slotRR g d a b (maxOf u))
  | .clz g d a => some (slotR g d a clzOf)
  | .popc g d a => some (slotR g d a popcOf)
  | .bfx g d a b x => some (slotRR g d a b (extractField x))
  | .bfi g d a b =>
    some (slotWrite g [a.toNat, b.toNat] d fun t => insertField (t.sreg a.toNat) (t.sreg b.toNat) (t.sreg d.toNat))
  | .sel g d a b p =>
    some (slotWrite g [a.toNat, b.toNat] d fun t => if t.pred p.toNat then t.sreg a.toNat else t.sreg b.toNat)
  | .mov g d a => some (slotR g d a fun x => x)
  | .movi g d i => some (slotWrite g [] d fun _ => i.signExtend 64)
  | .movk g d i => some (slotWrite g [] d fun t => movk (t.sreg d.toNat) i)
  | .cmp g p a b c => some (slotPred g [a.toNat, b.toNat] p fun t => cmpOf c.toNat (t.sreg a.toNat) (t.sreg b.toNat))
  | .pand g d a b y x => some (slotCombine 0 g d a b y x)
  | .por g d a b y x => some (slotCombine 1 g d a b y x)
  | .pxor g d a b y x => some (slotCombine 2 g d a b y x)
  | .pmov g d a x => some (slotPred g [] d fun t => t.pred a.toNat ^^ x)
  | .fadd g d a b => some (slotFRR g d a b fpAdd)
  | .fsub g d a b => some (slotFRR g d a b fpSub)
  | .fmul g d a b => some (slotFRR g d a b fpMul)
  | .ffma g d a b =>
    some (slotFloat g [a.toNat, b.toNat] d fun t =>
      f64 (fpFma t.rm (lo32 (t.sreg a.toNat)) (lo32 (t.sreg b.toNat)) (lo32 (t.sreg d.toNat))))
  | .fmin g d a b => some (slotFRR g d a b fun _ x y => (fpMin x y, Flags.none))
  | .fmax g d a b => some (slotFRR g d a b fun _ x y => (fpMax x y, Flags.none))
  | .fcvt g d a dst src =>
    some (slotFloat g [a.toNat] d fun t => fcvt t.rm t.fmt.sat (formatOf dst.toNat) (formatOf src.toNat) (t.sreg a.toNat))
  | .fcmp g p a b c => some (slotPred g [a.toNat, b.toNat] p fun t => fpCmp c.toNat (lo32 (t.sreg a.toNat)) (lo32 (t.sreg b.toNat)))
  | .ldB g d b i => some (slotLd g d b i 1 false)
  | .ldH g d b i => some (slotLd g d b i 2 false)
  | .ldW g d b i => some (slotLd g d b i 4 false)
  | .ldD g d b i => some (slotLd g d b i 8 false)
  | .ldSb g d b i => some (slotLd g d b i 1 true)
  | .ldSh g d b i => some (slotLd g d b i 2 true)
  | .ldSw g d b i => some (slotLd g d b i 4 true)
  | .stB g d b i => some (slotSt g d b i 1)
  | .stH g d b i => some (slotSt g d b i 2)
  | .stW g d b i => some (slotSt g d b i 4)
  | .stD g d b i => some (slotSt g d b i 8)
  | .vld g v b i => some (slotVld g v b i)
  | .vst g v b i => some (slotVst g v b i)
  | .ldg g d b r i => some (slotLdg g d b r i)
  | .stg g d b i => some (slotStg g d b i)
  | .pref g b r i => some (slotPref g b r i)
  | .atomAdd g d a b => some (slotAtom .add g d a b)
  | .atomMin g d a b => some (slotAtom .min g d a b)
  | .atomMax g d a b => some (slotAtom .max g d a b)
  | .atomOr g d a b => some (slotAtom .or g d a b)
  | .atomExch g d a b => some (slotAtom .exch g d a b)
  | .atomCas g d a b => some (slotAtom .cas g d a b)
  | .atomFadd g d a b => some (slotAtom .fadd g d a b)
  | .fence g s => some (slotFence g (scopeOf s.toNat))
  | .br g o => some (slotBr g o)
  | .jmp g a => some (slotJmp g a)
  | .call g o f => some (slotCall g o f)
  | .calli g o a b => some (slotCalli g o a b)
  | .callr g o i => some (slotCallr g o i)
  | .ret g => some (slotRet g)
  | .loop g c o => some (slotLoop g c o)
  | .endl => some slotEndl
  | .trap g c => some (slotTrap g c)
  | .endt g => some (slotEndt g)
  | .fmtset g i => some (slotFmtset g i)
  | .vadd g v a b k f => some (slotV2 g v a b k (laneFn2 (vaddFn f.toNat)))
  | .vsub g v a b k f => some (slotV2 g v a b k (laneFn2 (vsubFn f.toNat)))
  | .vmul g v a b k f => some (slotV2 g v a b k (laneFn2 (vmulFn f.toNat)))
  | .vfma g v a b k => some (slotVfma g v a b k)
  | .vmin g v a b k f => some (slotV2 g v a b k (laneFn2 (vminFn f.toNat)))
  | .vmax g v a b k f => some (slotV2 g v a b k (laneFn2 (vmaxFn f.toNat)))
  | .vabs g v a k f => some (slotV1 g v a k (laneFn1 (vabsFn f.toNat)))
  | .vneg g v a k f => some (slotV1 g v a k (laneFn1 (vnegFn f.toNat)))
  | .vand g v a b k => some (slotV2 g v a b k (pure2 fun x y => x &&& y))
  | .vor g v a b k => some (slotV2 g v a b k (pure2 fun x y => x ||| y))
  | .vxor g v a b k => some (slotV2 g v a b k (pure2 fun x y => x ^^^ y))
  | .vshl g v a b k => some (slotV2 g v a b k (laneFn2 (vshlFn 0)))
  | .vshr g v a b k f => some (slotV2 g v a b k (laneFn2 (vshrFn f.toNat)))
  | .vcmpF g m a b k c => some (slotVcmp g m a b k (fpCmp c.toNat))
  | .vcmpI g m a b k c => some (slotVcmp g m a b k (intCmp c.toNat))
  | .vsel g v a b k => some (slotVsel g v a b k)
  | .vcvt g v a s k t => some (slotVcvt g v a s k t)
  | .vexp2 g v a k => some (slotV1 g v a k vexp2)
  | .vlog2 g v a k => some (slotV1 g v a k vlog2)
  | .vrcp g v a k => some (slotV1 g v a k vrcp)
  | .vrsq g v a k => some (slotV1 g v a k vrsq)
  | .vbcast g v s k => some (slotVbcast g v s k)
  | .vperm g v a b k => some (slotVperm g v a b k)
  | .vredadd g v a k f => some (slotVred false g v a k f)
  | .vredmax g v a k f => some (slotVred true g v a k f)
  | .viota g v k => some (slotViota g v k)
  | .vrng g v a b k => some (slotVrng g v a b k)
  | .vnfin g a k => some (slotVnfin g a k)
  | _ => none

/-- An instruction of class V (R34). -/
def isVector (i : Instr) : Bool :=
  match i with
  | .vadd .. | .vsub .. | .vmul .. | .vfma .. | .vmin .. | .vmax .. | .vabs .. | .vneg .. | .vand .. | .vor .. | .vxor ..
  | .vshl .. | .vshr .. | .vcmpF .. | .vcmpI .. | .vsel .. | .vcvt .. | .vexp2 .. | .vlog2 .. | .vrcp .. | .vrsq ..
  | .vbcast .. | .vperm .. | .vredadd .. | .vredmax .. | .viota .. | .vrng .. | .vnfin .. => true
  | _ => false

/-- An instruction that only class S1 has (R32, R35). -/
def isMemorySlot (i : Instr) : Bool :=
  match i with
  | .ldB .. | .ldH .. | .ldW .. | .ldD .. | .ldSb .. | .ldSh .. | .ldSw .. | .stB .. | .stH .. | .stW .. | .stD ..
  | .vld .. | .vst .. | .ldg .. | .stg .. | .pref .. | .atomAdd .. | .atomMin .. | .atomMax .. | .atomOr .. | .atomExch ..
  | .atomCas .. | .atomFadd .. | .fence .. => true
  | _ => false

/-- The lowest slot whose class holds an instruction (R26, R48). -/
def slotNumber (i : Instr) : Nat := if isVector i then 2 else if isMemorySlot i then 1 else 0

end Sys2Proof.Machine
end

