-- ==== Sys2Proof/Machine/Issue.lean ====
section
/-! DEFINITION. Issue (R79, R30, R44): an LIW's or a bundle's checks in their order (R287), its triggers or slots, the writes
at its end in their order (R91, R155), and what follows it; waiting, and the release of a waiting LIW. -/

namespace Sys2Proof.Machine

/-! ### Checks of a whole LIW -/

/-- The number of bytes of an LIW (R36). -/
def liwBytes (l : Liw) : Nat := 4 * (liwWords l).length

/-- The LIW holds an ENDL (R90). -/
def hasEndl (l : Liw) : Bool := (liwBusMoves l).any fun x => x.1 < 32 && x.2.dst.toNat = 75

/-- An ENDL's G, N, T and LF are all 0 (R90). -/
def endlPlain (l : Liw) : Bool :=
  (liwBusMoves l).all fun x => !(x.1 < 32 && x.2.dst.toNat = 75)
    || (x.2.mv.g = 0 && !x.2.mv.n && x.2.mv.tag = 0 && x.2.mv.lf = 0)

/-- A bank A port of a system core (R303): registers, predicates, ctl, sa0, sa1, ls0, ls1. -/
def fwPort (p : Nat) : Bool := p < 48 || (64 ≤ p && p < 256) || (320 ≤ p && p < 448)

/-- The ctl triggers of a system core (R303). -/
def fwCtl (p : Nat) : Bool :=
  ([68, 69, 70, 72, 74, 75, 77, 80, 81, 85, 94, 95, 96] : List Nat).contains p

/-- The LIW names only what a system core has (R303). -/
def fwLegal (l : Liw) : Bool :=
  (liwBusMoves l).all fun x => x.1 < 32 && fwPort x.2.dst.toNat
    && (x.2.mv.imm || isLong x.2.mv || fwPort x.2.mv.src.toNat)
    && (!(isTrigA x.2.dst.toNat && x.2.dst.toNat / 64 = 1) || fwCtl x.2.dst.toNat)

/-- The target of the path that an LIW's tests take (R40); `none` on fall-through. -/
def pathTarget (t : Task) (l : Liw) : Option Word :=
  let p := livePath t l
  if p = 5 then none else (l.targets[p - 1]?).map fun x => t.sq.pc + x.signExtend 64

/-- A fault of an LIW-level check (R289). -/
def levelFault {α : Type} (code : FaultCode) : Except Halt α := .error (.fault { code := code, tval := 0, bus := 0xFF })

/-- The encoding checks of R46, R90 and R303 on an LIW at the task's pc. -/
def liwAllowed (s : State) (l : Liw) : Bool :=
  liwLegal l && endlPlain l && (!s.cur.isFirmware || fwLegal l)
    && (!endsAt s.task s.task.sq.pc || hasEndl l)
    && (match pathTarget s.task l with
        | none => true
        | some a => s.isStart a)

/-- The first performed trigger above the task's level (R279). -/
def privMove (s : State) (perf : List (Nat × Move × BitVec 32)) : Option Nat :=
  (perf.find? fun x => x.1 < 32 && isTrigA x.2.1.dst.toNat && privFault s x.2.1.dst.toNat (sourceA s.task x.2.1.mv x.2.2)).map
    fun x => x.1

/-- One performed move: the check of its queue-head read, then its trigger if it has one (R287). -/
def performMove (c : Trig) (a : Acc) (x : Nat × Move × BitVec 32) : Except Halt Acc :=
  let d := x.2.1.dst.toNat
  let c1 : Trig := { c with bus := x.1, val := if x.1 < 32 then sourceA c.t x.2.1.mv x.2.2 else 0,
                            lanes := if x.1 < 32 then [] else (sourceB c.t x.2.1.mv x.2.2).1 }
  match latchEarly c.t x.1 x.2.1.mv with
  | some ad => c1.fault .earlyRead ad
  | none =>
    if x.1 < 32 then (if isTrigA d then trigA d c1 a else .ok a)
    else if (trigUnitB (d % 128)).isSome then trigB d c1 a else .ok a

/-! ### The end of an LIW or bundle -/

/-- The results that become readable at `upto` or before arrive in their latches, in order of their τ (R117, R155). -/
def retireLatches (upto : Nat) (t : Task) : Task :=
  let due := t.pipe.filter fun p => p.ready ≤ upto
  (List.range (upto - t.sq.tau)).foldl (fun (t : Task) (i : Nat) =>
    (due.filter fun p => if i = 0 then p.ready ≤ t.sq.tau + 1 else p.ready = t.sq.tau + 1 + i).foldl Task.retireLatch t) t

/-- The vector loads that become readable at `upto` or before arrive in their registers, after every move (R155). -/
def retireVregs (upto : Nat) (t : Task) : Task :=
  let due := t.pipe.filter fun p => p.ready ≤ upto
  let t1 := (List.range (upto - t.sq.tau)).foldl (fun (t : Task) (i : Nat) =>
    (due.filter fun p => if i = 0 then p.ready ≤ t.sq.tau + 1 else p.ready = t.sq.tau + 1 + i).foldl Task.retireVreg t) t
  { t1 with pipe := t1.pipe.filter fun p => upto < p.ready }

/-- The LOCAL writes of slots, before a queue's accounting. -/
def isSlotPost : Post → Bool
  | .slot _ => true
  | _ => false

/-- Whether an LIW calls or returns. -/
def movesFrame : Post → Bool
  | .call _ _ => true
  | .ret => true
  | _ => false

/-- The writes at the end of an LIW or bundle in their order (R91, R155, R161): stores, what engines read at the start,
latches, the sequencer with what BUCK and ICLK write (log 45), moves and slots, vector loads, queues. `fb` is the frame base of its start, `upto` the next τ. -/
def endWrites (lm0 : Sparse 8) (fb upto : Nat) (a : Acc) (t : Task) : Task :=
  let t1 := captureAll lm0 upto { t with lmem := ssetMany (ssetMany t.lmem a.store0) a.store1 }
  let t2 := a.post.foldl seqPost (retireLatches upto t1)
  let t3 := retireVregs upto (a.regs.foldl (applyWrite fb) t2)
  let t4 := applyAcct ((a.post.filter isSlotPost).foldl queuePost t3) a.acct
  (a.post.filter fun p => !isSlotPost p).foldl queuePost t4

/-- The next pc of an LIW or bundle that neither calls nor returns (R84 to R90). -/
def advancePc (next : Word) (a : Acc) (t : Task) : Task :=
  match a.target with
  | some x => { t with sq := { t.sq with pc := x, loops := transferLevels t.fr.depth x t.sq.loops } }
  | none => if a.post.contains .endLevel then t else { t with sq := { t.sq with pc := next } }

/-- The frame effects and the next pc (R86, R103, R109). -/
def endFrames (pc next : Word) (a : Acc) (s : State) : State :=
  if a.post.any movesFrame then
    let s1 := if a.post.contains .ret then s.nearReturn else s
    let s2 := s1.mapTask fun t =>
      let t1 := a.post.foldl (framePost pc next) t
      { t1 with sq := { t1.sq with pc := a.target.getD next } }
    if a.post.contains .ret then s2.openReturn s.task else s2
  else s.mapTask (advancePc next a)

/-- Perform the routine that a CALLR has called (R107, R320). A service that has been performed whole takes τ that the spec leaves open
(R317): they pass after its CALLR's. A unit is performed behind the pre-emption point that follows the call (`unitStep`). -/
def endRoutine (pc next : Word) (a : Acc) (s : State) : Except Halt (State × After × Nat) :=
  match a.after with
  | .routine id =>
    match performRoutine pc next id s.openPending with
    | .error h => .error h
    | .ok (.body s1) => .ok (s1, .go, 0)
    | .ok (.back s1 keep top after) => .ok (leaveRoutine keep top next s1, after, Config.bundleTau s1.tick)
    | .ok (.held s1 k) => .ok ({ s1 with cur := { s1.cur with status := .waiting (.call k) } }, .go, 0)
    | .ok (.unit s1 n keep top) => .ok ({ s1 with cur := { s1.cur with status := .waiting (.unit n keep top) } }, .go, 0)
  | x => .ok (s, x, 0)

/-- The GCYC that one τ of the unit in focus takes: one, or four while its context is throttled (R18, R362). -/
def State.pace (s : State) : Nat := if s.curCtx.throttled && !s.cur.isFirmware then 4 else 1

/-- The longest straight-line run of LIWs (R97). -/
def maxRun : Nat := 4096

/-- The further τ of a bundle that the unit in focus issues at a τ: its translation has one LIW or more, and no more than a straight run
may have (R97, R312; log 3). A Tannery executes Peman directly (R16). -/
def State.bundleLag (s : State) (tau : Nat) : Nat :=
  if s.cur.kind = .tannery then 0 else Config.bundleTau (2 ^ 64 * s.cur.uid + tau) % maxRun

/-- The end of the τ in which an LIW or bundle has issued (R79, R97, R359, R362): τ, energy, the GCYC of the next issue, and `lag` further
τ that pass before it. A pre-emption point follows a transfer; in translated code also a bundle whose successor would make the straight
run longer than 4,096 LIWs (R97); there is none `inside` a unit (R320). -/
def passTau (lag trigs : Nat) (peman taken inside : Bool) (s : State) : State :=
  let s1 := (s.mapTask fun t => { t with sq := { t.sq with tau := t.sq.tau + 1 } }).charge 0
    [(0, 1 + lag), (1, trigs), (2, Config.bankAccesses s.tick)]
  let run := s1.cur.run + 1 + lag
  let point := !inside && (taken || (peman && maxRun < run + 1 + s1.bundleLag (s1.task.sq.tau + lag)))
  { s1 with tick := s1.tick + 1,
            cur := { s1.cur with nextG := max s.gcyc s1.cur.nextG + s1.pace, lag := lag, run := if point then 0 else run,
                                 atPoint := point, since := none } }

/-! ### What follows -/

/-- A rival of a yielding unit: its keys, and its unit where it is resident (R274). -/
structure Rival where
  key : Key
  uid : Option Nat
  deriving DecidableEq, Repr

/-- The keys of a unit (R274). -/
def unitKey (s : State) (u : QUnit) : Option Key :=
  match s.ctx? u.ctx, s.launchOf u with
  | some c, some l => some (keyOf c l u.index)
  | _, _ => none

/-- The first-ranked of some rivals (R274). -/
def bestRival : List Rival → Option Rival
  | [] => none
  | r :: rs => match bestRival rs with
    | none => some r
    | some x => if r.key.le x.key then some r else some x

/-- The rivals of the unit in focus: resident units of its core that could issue, by `able`, and the first-ranked placeable
unit (R274). -/
def rivals (s : State) (able : QUnit → Bool) : List Rival :=
  let mine := s.units.filter fun x => x.core = s.cur.core && x.uid ≠ s.cur.uid && able x
  (mine.filterMap fun x => (unitKey s x).map fun k => { key := k, uid := some x.uid })
    ++ (match firstRanked (candidates (compete s) s.cur.core) with
        | some x => [{ key := x.key, uid := none }]
        | none => [])

/-- Another unit takes the core from the one in focus (R274). -/
def switchTo (s : State) (r : Rival) : State :=
  let core := s.cur.core
  let s1 := switchOutTo s (.out none)
  match r.uid with
  | some v => (s1.mapUnit v fun x => { x with status := x.resumed }).focus v
  | none => match firstRanked (candidates (compete s1) core) with
    | some x => compete (placeCand (compete s1) x)
    | none => s1

/-- The rival to which the unit in focus yields now (R274). -/
def yieldsTo (s : State) (able : QUnit → Bool) : Option Rival :=
  match unitKey s s.cur, bestRival (rivals s able) with
  | some k, some r => if r.key.le k then some r else none
  | _, _ => none

/-- YIELD (R274). -/
def doYield (s : State) (able : QUnit → Bool) : State :=
  match yieldsTo s able with
  | some r => switchTo s r
  | none => s

/-- The unit in focus has issued its ENDT (R273), or an error entry its RFT (R303). -/
def endFocus (s : State) : State :=
  match s.cur.kind with
  | .errorEntry =>
    let s1 := endUnit s
    let s2 : State := { s1 with board := { s1.board with errBusy := false } }
    match s.cur.serves with
    | some p => s2.mapUnit p fun x => { x with status := .ready, task := { x.task with lmem := s.task.lmem } }
    | none => s2
  | .tannery => raiseAlert (s.dropUnit s.cur.uid) "fault on a Tannery"
  | _ => endUnit s

/-- The unit in focus leaves its core, or offers to (R273, R274, R291, R292). -/
def doLeave (able : QUnit → Bool) (l : Leaving) (s : State) : State :=
  match l with
  | .trap pc code => takeTrap s pc code
  | .ended => endFocus s
  | .rft resume => handlerReturn s resume
  | .yield => doYield s able

/-- A unit cannot leave yet: a write is due at the end of the τ that has passed (R174, R175), or an access of its own LIW is
outstanding (R235); ENDT and RFT also wait for what their own LIW has enqueued (R165, R273, R332), and until their writes are applied
at SYS scope (R273, R292). -/
def leaveWaits (s : State) (able : QUnit → Bool) : Leaving → Bool
  | .trap _ _ => endsDue s.task || s.loading
  | .yield => endsDue s.task || (s.loading && (yieldsTo s able).isSome)
  | .ended => !quiet? s.task || !writesApplied s.mem s.cur .sys
  | .rft _ => !quiet? s.task || !writesApplied s.mem s.cur .sys

/-- The unit in focus leaves its core as soon as it can. -/
def leave (able : QUnit → Bool) (l : Leaving) (s : State) : State :=
  if leaveWaits s able l then { s with cur := { s.cur with status := .waiting (.leave l) } } else doLeave able l s

/-- What follows an LIW or bundle at `pc` once it has issued (R273, R274, R291 to R293, R341). -/
def follow (pc : Word) (able : QUnit → Bool) (after : After) (s : State) : State :=
  match after with
  | .trap code => leave able (.trap pc code) s
  | .ended => leave able .ended s
  | .rft resume => leave able (.rft resume) s
  | .syscall _ n => { s with cur := { s.cur with status := .waiting (.syscall n) } }
  | .yield => leave able .yield s
  | _ => if s.cur.kind = .tannery && s.task.fr.depth = 0 then finishTannery s else s

/-- An LIW or bundle that traps waits while an access is outstanding (R235). -/
def leavesCore : After → Bool
  | .trap _ => true
  | _ => false

/-- The unit in focus, which had a status as its LIW or bundle came up, is ready for the next, unless what it has performed has brought
an error entry onto its core (R303, R304). -/
def State.stillReady (s : State) (was : UnitStatus) : State :=
  { s with cur := { s.cur with status := if s.cur.status = was then .ready else s.cur.status } }

/-- Finish an LIW or bundle whose checks have passed: `s0` is the state at its start, `lag` the τ that it takes beyond one, `trigs` the triggers that it
holds. -/
def finish (s0 : State) (pc next : Word) (lag trigs : Nat) (peman : Bool) (able : QUnit → Bool) (a : Acc) : Except Halt State :=
  match a.wait with
  | some w => .error (.wait w)
  | none =>
    if !acctOk s0.task a.acct then levelFault .queue
    else if leavesCore a.after && s0.loading then .error (.wait .load)
    else
      let t0 := s0.task
      let s1 := a.st.stillReady s0.cur.status |>.mapTask (endWrites t0.lmem t0.fr.fb (t0.sq.tau + 1) a)
      let s2 := endFrames pc next a s1
      match endRoutine pc next a s2 with
      | .error h => .error h
      | .ok (s3, after, more) =>
        let s4 := if peman && !s3.inPeman then { s3.mapTask (openPorts s3.tick) with tick := s3.tick + 1 } else s3
        let taken := a.target.isSome || a.post.contains .endLevel
        .ok (follow pc able after (passTau (lag + more) trigs peman taken (t0.inUnit && s4.task.inUnit) s4))

/-! ### One LIW, one bundle -/

/-- An LIW comes up for issue: pending FMTSETs due by now stand, and the GCYC of its first coming up is kept (R113, R337). -/
def comeUp (s : State) : State :=
  let g := max s.gcyc s.cur.nextG
  let s1 := s.mapTask Task.settleFmt
  { s1 with gcyc := g, cur := { s1.cur with since := some (s1.cur.since.getD g) } }

/-- The fetch of `n` bytes at the pc is translated (R81, R212). -/
def fetchFault (s : State) (n : Nat) : Option FaultInfo :=
  if s.cur.isFirmware then none
  else
    let pc := s.task.sq.pc
    let last := pc + BitVec.ofNat 64 (n - 1)
    match coreAccess s pc 1 .fetch, coreAccess s last 1 .fetch with
    | .error f, _ => some { code := f, tval := pc, bus := 0xFF }
    | .ok _, .error f => some { code := f, tval := last, bus := 0xFF }
    | .ok _, .ok _ => none

/-- How many triggers some performed moves are (R359). -/
def trigCount (perf : List (Nat × Move × BitVec 32)) : Nat :=
  (perf.filter fun x => if x.1 < 32 then isTrigA x.2.1.dst.toNat else (trigUnitB (x.2.1.dst.toNat % 128)).isSome).length

/-- The triggers and checks of an LIW on the state at its start; `able` tells which resident units could issue. -/
def runLiw (s0 : State) (l : Liw) (able : QUnit → Bool) : Except Halt State :=
  let t := s0.task
  let pc := t.sq.pc
  let next := pc + BitVec.ofNat 64 (liwBytes l)
  let perf := (withLongs (liwBusMoves l) l.longs).filter fun x => moveLive t (livePath t l) x.2.1.mv
  if !liwAllowed s0 l then levelFault .illegal
  else match privMove s0 perf, lateFault t with
    | some b, _ => .error (.fault { code := .priv, tval := 0, bus := BitVec.ofNat 8 b })
    | none, some f => .error (.fault f)
    | none, none =>
      if perf.any fun x => (moveTouches t x.1 x.2.1).any fun r => t.pending r then .error (.wait .load)
      else
      let ports := perf.foldl (deliver t) t.ports
      let c : Trig := { s0 := s0, pc := pc, next := next, bus := 0, nt := l.nt.toNat, val := 0, lanes := [], ports := ports, perf := perf }
      let a0 : Acc := { Acc.init (s0.mapTask fun t => { t with ports := ports }) with
        regs := perf.filterMap (moveWrite t), acct := popHeads l.pop, target := pathTarget t l }
      match foldHalt (performMove c) perf a0 with
      | .error h => .error h
      | .ok a => finish s0 pc next 0 (trigCount perf) false able a

/-- One slot of a bundle (R30): nothing where its guard is false. -/
def performSlot (c : Trig) (a : Acc) (x : Nat × Slot) : Except Halt Acc :=
  if c.t.guard x.2.gd.p.toNat x.2.gd.n then x.2.run { c with bus := x.1 } a else .ok a

/-- The slots of a bundle that have an operation, with their numbers. -/
def bundleSlots (ops : List (Nat × Instr)) : List (Nat × Slot) := ops.filterMap fun x => (slotOf x.2).map fun y => (x.1, y)

/-- The checks and slots of a bundle on the state at its start (R30, R31). -/
def runBundle (s0 : State) (ops : List (Nat × Instr)) (able : QUnit → Bool) : Except Halt State :=
  let t := s0.task
  let pc := t.sq.pc
  let slots := bundleSlots ops
  let live := slots.filter fun x => t.guard x.2.gd.p.toNat x.2.gd.n
  if endsAt t pc && !ops.any (fun x => x.2 = .endl) then levelFault .illegal
  else match lateFault t with
  | some f => .error (.fault f)
  | none =>
  if live.any fun x => x.2.regs.any fun r => t.pending (sregAt t.fr.fb r) then .error (.wait .load)
  else
    let c : Trig := { s0 := s0, pc := pc, next := pc + 16, bus := 0, nt := 0, val := 0, lanes := [], ports := t.ports, perf := [] }
    match foldHalt (performSlot c) slots (Acc.init { s0 with tick := s0.tick + 1 }) with
    | .error h => .error h
    | .ok a => finish s0 pc (pc + 16) (s0.bundleLag t.sq.tau) (Config.bundleTriggers s0.tick) true able a

/-! ### Fetch -/

/-- What stands at the pc: an LIW, or a bundle's operations by slot. -/
inductive Fetched where
  | liw (l : Liw)
  | bundle (ops : List (Nat × Instr))
  deriving DecidableEq, Repr

/-- Fetch and decode at the pc (R31, R36, R81, R212). -/
def fetch (s : State) : Except FaultInfo Fetched :=
  let pc := s.task.sq.pc
  let bad : FaultInfo := { code := .illegal, tval := 0, bus := 0xFF }
  if s.inPeman then
    match fetchFault s 16 with
    | some f => .error f
    | none => match decodeBundle (s.textBytes pc 16) with
      | some ops => .ok (.bundle ((List.range ops.length).zip ops))
      | none => .error bad
  else
    match fetchFault s 1 with
    | some f => .error f
    | none => match decodeLiw (s.textBytes pc maxLiwBytes) with
      | some (l, _) => match fetchFault s (liwBytes l) with
        | some f => .error f
        | none => .ok (.liw l)
      | none => .error bad

/-- What the unit in focus would do now with what it has fetched; `able` as for `runLiw`. -/
def runFetched (s0 : State) (able : QUnit → Bool) : Fetched → Except Halt State
  | .liw l => runLiw s0 l able
  | .bundle ops => runBundle s0 ops able

/-- The unit in focus would wait at its pc now; it does not take a fault either while an access is outstanding (R235). -/
def wouldWait (s : State) : Bool :=
  match fetch s with
  | .error _ => s.loading
  | .ok f => match runFetched (comeUp s) (fun _ => false) f with
    | .error (.wait _) => true
    | .error (.fault _) => s.loading
    | .ok _ => false

/-- A resident unit that is switched out could issue on its core (R274). -/
def couldIssue (s : State) (u : QUnit) : Bool :=
  match u.status with
  | .out none => !u.cancel
  | .out (some (.unit _ _ _)) => !u.cancel
  | .out (some _) => !u.cancel && !wouldWait (s.focus u.uid)
  | _ => false

/-! ### Outcomes -/

/-- A fault ends the attempt: nothing of the LIW stands; a TIMING of the LIW as a whole settles, once it is taken, the step or the strict
commands that raised it (R79, R176, R194, R235). -/
def faulted (s0 : State) (f : FaultInfo) : State :=
  let s1 := if f.code = .timing && f.bus = 0xFF && !s0.loading then s0.mapTask settleLate else s0
  takeFault { s1 with cur := { s1.cur with since := none, status := .ready } } f

/-- The LIW waits: nothing of it stands, but a barrier's arrival is registered (R271). -/
def held (s0 : State) (w : Wait) : State :=
  let s1 : State := { s0 with cur := { s0.cur with status := .waiting w } }
  match w with
  | .barrier => registerArrival s1
  | _ => s1

/-- The state after an attempt to issue from `s0`. -/
def settleIssue (s0 : State) (r : Except Halt State) : State :=
  match r with
  | .ok s => s
  | .error (.fault f) => faulted s0 f
  | .error (.wait w) => held s0 w

/-- ISSUE OF ONE LIW (R79). -/
def issueLiw (l : Liw) (s : State) : State :=
  if !s.on then s
  else
    let s0 := comeUp s
    settleIssue s0 (runLiw s0 l (couldIssue s0))

/-- ISSUE OF ONE BUNDLE (R30). -/
def issueBundle (ops : List (Nat × Instr)) (s : State) : State :=
  if !s.on then s
  else
    let s0 := comeUp s
    settleIssue s0 (runBundle s0 ops (couldIssue s0))

/-- Issue what stands at the pc. -/
def issueHere (s : State) : State :=
  match fetch s with
  | .error f => faulted (comeUp s) f
  | .ok (.liw l) => issueLiw l s
  | .ok (.bundle ops) => issueBundle ops s

/-- A bundle of one operation. -/
def issueOp (i : Instr) (s : State) : State := issueBundle [(slotNumber i, i)] s

/-- The issue of a native row: of the LIW that holds it and nothing else. -/
def issueNative (i : Instr) (s : State) : State :=
  match liwOf i with
  | none => s
  | some l => issueLiw l s

/-! ### Waiting -/

/-- One τ passes without an LIW of the task's code: while ENDT, RFT or a service waits for commands (R165, R273), and for the further
τ of a bundle (R312). Pending FMTSETs due by now stand first (R113). -/
def idleTau (s : State) : State :=
  let s1 := s.mapTask fun t0 =>
    let t := t0.settleFmt
    let u := t.sq.tau + 1
    let t1 := retireVregs u (retireLatches u (captureAll t.lmem u t))
    { t1 with sq := { t1.sq with tau := u } }
  { s1 with cur := { s1.cur with nextG := max s1.gcyc s1.cur.nextG + s1.pace, lag := s1.cur.lag - 1 } }

/-- A waiting unit leaves its core now that nothing holds it back. -/
def leaveHeld (s : State) (l : Leaving) : State :=
  if leaveWaits s (couldIssue s) l then s else doLeave (couldIssue s) l { s with cur := { s.cur with status := .ready } }

/-- A waiting LIW of a kind issues now that nothing holds it. -/
def release (p : Wait → Bool) (s : State) : State :=
  match s.on, s.cur.status with
  | true, .waiting w => if p w && !wouldWait s then issueHere s else s
  | _, _ => s

/-- The command that a service held its caller for has been performed (R311): the service returns. A strict command whose data
is late faults at the CALLR (R176, R311). -/
def resumeCall (s : State) (k : Nat) : State :=
  match s.cmd? k with
  | none =>
    let s1 : State := { s with cur := { s.cur with status := .ready, atPoint := true, lag := s.cur.lag + Config.bundleTau s.tick } }
    leaveRoutine 1 512 (topLink s1.task.fr).ret s1
  | some _ => match lateFault s.task with
    | some f => faulted s f
    | none => s

/-- The native unit of the CALLR that has issued is performed whole, between two pre-emption points, and returns (R109, R320); how many τ
it takes (R317) and what it adds to the meters (R359) is open. It reports a fault at the CALLR (R318), once the task's outstanding accesses
have arrived (R235); `none` until then. -/
def unitStep (s : State) (n keep top : Nat) : Option State :=
  match unitEffect n with
  | none => none
  | some f => match f s with
    | .error (.fault x) => if s.loading then none else some (faulted s x)
    | .error (.wait _) => none
    | .ok s1 =>
      let s2 := leaveRoutine keep top (topLink s1.task.fr).ret s1
      let s3 := (List.range 5).foldl (fun (s : State) k => s.charge k [(if k = 0 then 2 else 3, Config.unitEvents s.tick)]) s2
      some { s3 with tick := s3.tick + 1,
                     cur := { s3.cur with status := .ready, atPoint := !s3.task.inUnit, lag := s3.cur.lag + Config.bundleTau s3.tick } }

end Sys2Proof.Machine
end

