-- ==== Sys2Proof/Machine/ExecControl.lean ====
section
/-! DEFINITION. The meanings of the control operations of Peman (R84 to R112): each issues the bundle of its slot word. -/

namespace Sys2Proof.Machine

/-- BR (R84). Relative branch by a bundle offset. -/
def execBr (g : Gd) (o : BitVec 21) (s : State) : Host.Outcome State Fault Refusal := .next (issueOp (.br g o) s)

/-- JMP (R85). Indirect jump to a Peman code address. -/
def execJmp (g : Gd) (a : BitVec 5) (s : State) : Host.Outcome State Fault Refusal := .next (issueOp (.jmp g a) s)

/-- CALL (R103). Relative call that slides the register window by O. -/
def execCall (g : Gd) (o : BitVec 5) (f : BitVec 16) (s : State) : Host.Outcome State Fault Refusal :=
  .next (issueOp (.call g o f) s)

/-- CALLI (R106). Indirect call through a function descriptor with a signature check. -/
def execCalli (g : Gd) (o : BitVec 5) (a : BitVec 5) (b : BitVec 5) (s : State) : Host.Outcome State Fault Refusal :=
  .next (issueOp (.calli g o a b) s)

/-- CALLR (R107). Calls a routine by ID, running its body or a substituted unit. -/
def execCallr (g : Gd) (o : BitVec 5) (i : BitVec 16) (s : State) : Host.Outcome State Fault Refusal :=
  .next (issueOp (.callr g o i) s)

/-- RET (R109). Returns from the current frame, filling the caller if spilled. -/
def execRet (g : Gd) (s : State) : Host.Outcome State Fault Refusal := .next (issueOp (.ret g) s)

/-- LOOP (R89). Pushes a loop level with the pending configuration. -/
def execLoop (g : Gd) (c : BitVec 5) (o : BitVec 16) (s : State) : Host.Outcome State Fault Refusal :=
  .next (issueOp (.loop g c o) s)

/-- ENDL (R90). Performs the loop back-edge, rotation and stride additions, or pops the level. -/
def execEndl (s : State) : Host.Outcome State Fault Refusal := .next (issueOp (.endl) s)

/-- TRAP (R291). Enters the handler on purpose with a trap code. -/
def execTrap (g : Gd) (c : BitVec 16) (s : State) : Host.Outcome State Fault Refusal := .next (issueOp (.trap g c) s)

/-- ENDT (R273). Ends the unit once pending commands and loads are done, and counts it completed. -/
def execEndt (g : Gd) (s : State) : Host.Outcome State Fault Refusal := .next (issueOp (.endt g) s)

/-- FMTSET (R113). Writes FMT[15:0], optionally clearing the sticky flags. -/
def execFmtset (g : Gd) (i : BitVec 16) (s : State) : Host.Outcome State Fault Refusal := .next (issueOp (.fmtset g i) s)

end Sys2Proof.Machine
end

