-- ==== Sys2Proof/Machine/ExecMemory.lean ====
section
/-! DEFINITION. The meanings of the memory operations of Peman (R151, R222 to R226): each issues the bundle of its slot word. -/

namespace Sys2Proof.Machine

/-- LD_B (R151). Loads one byte from LOCAL, zero-extended. -/
def execLdB (g : Gd) (d : BitVec 5) (b : BitVec 5) (i : BitVec 11) (s : State) : Host.Outcome State Fault Refusal :=
  .next (issueOp (.ldB g d b i) s)

/-- LD_H (R151). Loads two bytes from LOCAL, zero-extended. -/
def execLdH (g : Gd) (d : BitVec 5) (b : BitVec 5) (i : BitVec 11) (s : State) : Host.Outcome State Fault Refusal :=
  .next (issueOp (.ldH g d b i) s)

/-- LD_W (R151). Loads four bytes from LOCAL, zero-extended. -/
def execLdW (g : Gd) (d : BitVec 5) (b : BitVec 5) (i : BitVec 11) (s : State) : Host.Outcome State Fault Refusal :=
  .next (issueOp (.ldW g d b i) s)

/-- LD_D (R151). Loads eight bytes from LOCAL. -/
def execLdD (g : Gd) (d : BitVec 5) (b : BitVec 5) (i : BitVec 11) (s : State) : Host.Outcome State Fault Refusal :=
  .next (issueOp (.ldD g d b i) s)

/-- LD_SB (R151). Loads one byte from LOCAL, sign-extended. -/
def execLdSb (g : Gd) (d : BitVec 5) (b : BitVec 5) (i : BitVec 11) (s : State) : Host.Outcome State Fault Refusal :=
  .next (issueOp (.ldSb g d b i) s)

/-- LD_SH (R151). Loads two bytes from LOCAL, sign-extended. -/
def execLdSh (g : Gd) (d : BitVec 5) (b : BitVec 5) (i : BitVec 11) (s : State) : Host.Outcome State Fault Refusal :=
  .next (issueOp (.ldSh g d b i) s)

/-- LD_SW (R151). Loads four bytes from LOCAL, sign-extended. -/
def execLdSw (g : Gd) (d : BitVec 5) (b : BitVec 5) (i : BitVec 11) (s : State) : Host.Outcome State Fault Refusal :=
  .next (issueOp (.ldSw g d b i) s)

/-- ST_B (R151). Stores the low byte of d to LOCAL. -/
def execStB (g : Gd) (d : BitVec 5) (b : BitVec 5) (i : BitVec 11) (s : State) : Host.Outcome State Fault Refusal :=
  .next (issueOp (.stB g d b i) s)

/-- ST_H (R151). Stores the low two bytes of d to LOCAL. -/
def execStH (g : Gd) (d : BitVec 5) (b : BitVec 5) (i : BitVec 11) (s : State) : Host.Outcome State Fault Refusal :=
  .next (issueOp (.stH g d b i) s)

/-- ST_W (R151). Stores the low four bytes of d to LOCAL. -/
def execStW (g : Gd) (d : BitVec 5) (b : BitVec 5) (i : BitVec 11) (s : State) : Host.Outcome State Fault Refusal :=
  .next (issueOp (.stW g d b i) s)

/-- ST_D (R151). Stores eight bytes of d to LOCAL. -/
def execStD (g : Gd) (d : BitVec 5) (b : BitVec 5) (i : BitVec 11) (s : State) : Host.Outcome State Fault Refusal :=
  .next (issueOp (.stD g d b i) s)

/-- VLD (R151). Loads 512 bytes of LOCAL into a vector register. -/
def execVld (g : Gd) (v : BitVec 5) (b : BitVec 5) (i : BitVec 11) (s : State) : Host.Outcome State Fault Refusal :=
  .next (issueOp (.vld g v b i) s)

/-- VST (R151). Stores a vector register to 512 bytes of LOCAL. -/
def execVst (g : Gd) (v : BitVec 5) (b : BitVec 5) (i : BitVec 11) (s : State) : Host.Outcome State Fault Refusal :=
  .next (issueOp (.vst g v b i) s)

/-- LDG (R222). Loads eight bytes from DEVICE memory with a reuse hint. -/
def execLdg (g : Gd) (d : BitVec 5) (b : BitVec 5) (r : BitVec 2) (i : BitVec 9) (s : State) : Host.Outcome State Fault Refusal :=
  .next (issueOp (.ldg g d b r i) s)

/-- STG (R223). Stores eight bytes to DEVICE memory. -/
def execStg (g : Gd) (d : BitVec 5) (b : BitVec 5) (i : BitVec 9) (s : State) : Host.Outcome State Fault Refusal :=
  .next (issueOp (.stg g d b i) s)

/-- PREF (R224). Brings a DEVICE line towards the core with a hint and never faults. -/
def execPref (g : Gd) (b : BitVec 5) (r : BitVec 2) (i : BitVec 9) (s : State) : Host.Outcome State Fault Refusal :=
  .next (issueOp (.pref g b r i) s)

/-- ATOM_ADD (R225). Atomic add at the home L2, returning the old value. -/
def execAtomAdd (g : Gd) (d : BitVec 5) (a : BitVec 5) (b : BitVec 5) (s : State) : Host.Outcome State Fault Refusal :=
  .next (issueOp (.atomAdd g d a b) s)

/-- ATOM_MIN (R225). Atomic signed minimum at the home L2. -/
def execAtomMin (g : Gd) (d : BitVec 5) (a : BitVec 5) (b : BitVec 5) (s : State) : Host.Outcome State Fault Refusal :=
  .next (issueOp (.atomMin g d a b) s)

/-- ATOM_MAX (R225). Atomic signed maximum at the home L2. -/
def execAtomMax (g : Gd) (d : BitVec 5) (a : BitVec 5) (b : BitVec 5) (s : State) : Host.Outcome State Fault Refusal :=
  .next (issueOp (.atomMax g d a b) s)

/-- ATOM_OR (R225). Atomic OR at the home L2. -/
def execAtomOr (g : Gd) (d : BitVec 5) (a : BitVec 5) (b : BitVec 5) (s : State) : Host.Outcome State Fault Refusal :=
  .next (issueOp (.atomOr g d a b) s)

/-- ATOM_EXCH (R225). Atomic exchange at the home L2. -/
def execAtomExch (g : Gd) (d : BitVec 5) (a : BitVec 5) (b : BitVec 5) (s : State) : Host.Outcome State Fault Refusal :=
  .next (issueOp (.atomExch g d a b) s)

/-- ATOM_CAS (R225). Atomic compare-and-swap at the home L2. -/
def execAtomCas (g : Gd) (d : BitVec 5) (a : BitVec 5) (b : BitVec 5) (s : State) : Host.Outcome State Fault Refusal :=
  .next (issueOp (.atomCas g d a b) s)

/-- ATOM_FADD (R225). Atomic FP32 add at the home L2 under RNE. -/
def execAtomFadd (g : Gd) (d : BitVec 5) (a : BitVec 5) (b : BitVec 5) (s : State) : Host.Outcome State Fault Refusal :=
  .next (issueOp (.atomFadd g d a b) s)

/-- FENCE (R226). Holds issue until earlier accesses of the task are complete at the given scope. -/
def execFence (g : Gd) (sc : BitVec 2) (s : State) : Host.Outcome State Fault Refusal := .next (issueOp (.fence g sc) s)

end Sys2Proof.Machine
end

