-- ==== Sys2Proof/Machine/ExecNative.lean ====
section
/-! DEFINITION. The meanings of the native trigger rows (R42, R43): each issues the LIW that holds its move and nothing else. -/

namespace Sys2Proof.Machine

/-- LDG_NATIVE (R222). Native trigger of a DEVICE load on the mem unit. -/
def execLdgNative (r : BitVec 2) (m : Mv) (s : State) : Host.Outcome State Fault Refusal := .next (issueNative (.ldgNative r m) s)

/-- STG_NATIVE (R223). Native trigger of a DEVICE store on the mem unit. -/
def execStgNative (m : Mv) (s : State) : Host.Outcome State Fault Refusal := .next (issueNative (.stgNative m) s)

/-- FENCE_NATIVE (R226). Native trigger of a fence of the given scope. -/
def execFenceNative (r : BitVec 2) (m : Mv) (s : State) : Host.Outcome State Fault Refusal :=
  .next (issueNative (.fenceNative r m) s)

/-- BR_NATIVE (R84). Native relative branch by a byte offset. -/
def execBrNative (m : Mv) (s : State) : Host.Outcome State Fault Refusal := .next (issueNative (.brNative m) s)

/-- JMP_NATIVE (R85). Native indirect jump to an LIW address. -/
def execJmpNative (m : Mv) (s : State) : Host.Outcome State Fault Refusal := .next (issueNative (.jmpNative m) s)

/-- CALL_NATIVE (R103). Native relative call with O in ctl.a. -/
def execCallNative (m : Mv) (s : State) : Host.Outcome State Fault Refusal := .next (issueNative (.callNative m) s)

/-- CALLI_NATIVE (R106). Native indirect call through a descriptor address. -/
def execCalliNative (m : Mv) (s : State) : Host.Outcome State Fault Refusal := .next (issueNative (.calliNative m) s)

/-- CALLR_NATIVE (R107). Native call of a routine by ID. -/
def execCallrNative (m : Mv) (s : State) : Host.Outcome State Fault Refusal := .next (issueNative (.callrNative m) s)

/-- RET_NATIVE (R109). Native return from the current frame. -/
def execRetNative (m : Mv) (s : State) : Host.Outcome State Fault Refusal := .next (issueNative (.retNative m) s)

/-- LOOP_NATIVE (R89). Native loop push with the end offset in ctl.a. -/
def execLoopNative (m : Mv) (s : State) : Host.Outcome State Fault Refusal := .next (issueNative (.loopNative m) s)

/-- ENDL_NATIVE (R90). Native loop end move in the end LIW. -/
def execEndlNative (sc : BitVec 10) (i : Bool) (s : State) : Host.Outcome State Fault Refusal :=
  .next (issueNative (.endlNative sc i) s)

/-- TRAP_NATIVE (R291). Native trap trigger with a code. -/
def execTrapNative (m : Mv) (s : State) : Host.Outcome State Fault Refusal := .next (issueNative (.trapNative m) s)

/-- ENDT_NATIVE (R273). Native end of the unit. -/
def execEndtNative (m : Mv) (s : State) : Host.Outcome State Fault Refusal := .next (issueNative (.endtNative m) s)

/-- FMTSET_NATIVE (R113). Native FMT write taking effect four τ later. -/
def execFmtsetNative (m : Mv) (s : State) : Host.Outcome State Fault Refusal := .next (issueNative (.fmtsetNative m) s)

/-- NOP_NATIVE (R42). A move to ctl.nop that discards its value. -/
def execNopNative (m : Mv) (s : State) : Host.Outcome State Fault Refusal := .next (issueNative (.nopNative m) s)

/-- CXC (R142). Partial gather between participating clusters. -/
def execCxc (c : BitVec 3) (m : Mv) (s : State) : Host.Outcome State Fault Refusal := .next (issueNative (.cxc c m) s)

/-- CBCAST (R144). Copies one cluster's lanes into each participating cluster. -/
def execCbcast (c : BitVec 3) (m : Mv) (s : State) : Host.Outcome State Fault Refusal := .next (issueNative (.cbcast c m) s)

/-- LDT (R156). Transposing load of 16 rows by 4 elements into four cluster registers via ls0. -/
def execLdt (m : Mv) (s : State) : Host.Outcome State Fault Refusal := .next (issueNative (.ldt m) s)

/-- LDT_LS1 (R156). Transposing load via ls1. -/
def execLdtLs1 (m : Mv) (s : State) : Host.Outcome State Fault Refusal := .next (issueNative (.ldtLs1 m) s)

/-- LSET (R88). Loads the pending loop configuration of strides, epilogue and rotation. -/
def execLset (m : Mv) (s : State) : Host.Outcome State Fault Refusal := .next (issueNative (.lset m) s)

/-- SPRED (R94). Writes stage predicates p8 through p15 under a mask. -/
def execSpred (m : Mv) (s : State) : Host.Outcome State Fault Refusal := .next (issueNative (.spred m) s)

/-- BUCK (R96). Selects a precompiled schedule from a bucket table and may write a mask. -/
def execBuck (m : Mv) (s : State) : Host.Outcome State Fault Refusal := .next (issueNative (.buck m) s)

/-- ICLK (R99). Locks instruction-cache lines of a range into the task's partition. -/
def execIclk (m : Mv) (s : State) : Host.Outcome State Fault Refusal := .next (issueNative (.iclk m) s)

/-- ICUL (R100). Releases locked instruction-cache lines. -/
def execIcul (m : Mv) (s : State) : Host.Outcome State Fault Refusal := .next (issueNative (.icul m) s)

/-- TNOW (R166). Reads task time τ. -/
def execTnow (m : Mv) (s : State) : Host.Outcome State Fault Refusal := .next (issueNative (.tnow m) s)

/-- GCYRD (R167). Reads GCYC at DL0, or returns 0 and taints at DL1 and DL2. -/
def execGcyrd (m : Mv) (s : State) : Host.Outcome State Fault Refusal := .next (issueNative (.gcyrd m) s)

/-- LAUNCH (R270). Reads and checks a launch record, creates the launch and requests admission. -/
def execLaunch (m : Mv) (s : State) : Host.Outcome State Fault Refusal := .next (issueNative (.launch m) s)

/-- JOIN (R271). Waits for completion of an object or for a launch barrier round. -/
def execJoin (m : Mv) (s : State) : Host.Outcome State Fault Refusal := .next (issueNative (.join m) s)

/-- CANCEL (R272). Requests cancellation of an object by handle. -/
def execCancel (m : Mv) (s : State) : Host.Outcome State Fault Refusal := .next (issueNative (.cancel m) s)

/-- CNTRD (R270). Reads a counter of an object by handle. -/
def execCntrd (m : Mv) (s : State) : Host.Outcome State Fault Refusal := .next (issueNative (.cntrd m) s)

/-- CORID (R270). Reads unit index, count, logical core or die, handle or physical id. -/
def execCorid (m : Mv) (s : State) : Host.Outcome State Fault Refusal := .next (issueNative (.corid m) s)

/-- YIELD (R274). Offers the core to a higher-ranked unit at a pre-emption point. -/
def execYield (m : Mv) (s : State) : Host.Outcome State Fault Refusal := .next (issueNative (.yield m) s)

/-- SYSCALL (R293). Asks SYSTEM for a service and stalls until it answers. -/
def execSyscall (m : Mv) (s : State) : Host.Outcome State Fault Refusal := .next (issueNative (.syscall m) s)

/-- RFT (R292). Ends a handler unit, resuming or terminating the faulted unit. -/
def execRft (m : Mv) (s : State) : Host.Outcome State Fault Refusal := .next (issueNative (.rft m) s)

/-- CSRR (R295). Reads a control register by number. -/
def execCsrr (m : Mv) (s : State) : Host.Outcome State Fault Refusal := .next (issueNative (.csrr m) s)

/-- CSRW (R295). Writes a control register by number; the generic row for registers without behaviour of their own. -/
def execCsrw (m : Mv) (s : State) : Host.Outcome State Fault Refusal := .next (issueNative (.csrw m) s)

/-- TLBI (R296). Invalidates cached translations of the context for a page or all. -/
def execTlbi (m : Mv) (s : State) : Host.Outcome State Fault Refusal := .next (issueNative (.tlbi m) s)

/-- SUBQ (R320). Reports the substitution binding of a routine ID. -/
def execSubq (m : Mv) (s : State) : Host.Outcome State Fault Refusal := .next (issueNative (.subq m) s)

/-- BSEND (R338). Enqueues a put of bytes into a remote window. -/
def execBsend (m : Mv) (s : State) : Host.Outcome State Fault Refusal := .next (issueNative (.bsend m) s)

/-- BFETCH (R338). Enqueues a fetch of bytes from a remote window. -/
def execBfetch (m : Mv) (s : State) : Host.Outcome State Fault Refusal := .next (issueNative (.bfetch m) s)

/-- BRED (R339). Contributes to a group reduction round. -/
def execBred (m : Mv) (s : State) : Host.Outcome State Fault Refusal := .next (issueNative (.bred m) s)

/-- BEXP (R336). Allocates, adds to or frees an arrival entry. -/
def execBexp (m : Mv) (s : State) : Host.Outcome State Fault Refusal := .next (issueNative (.bexp m) s)

/-- BWAIT (R337). Waits until named arrival entries are satisfied or a deadline passes. -/
def execBwait (m : Mv) (s : State) : Host.Outcome State Fault Refusal := .next (issueNative (.bwait m) s)

/-- BGRAD (R342). Sends a gradient block for a step to a shard's primary. -/
def execBgrad (m : Mv) (s : State) : Host.Outcome State Fault Refusal := .next (issueNative (.bgrad m) s)

/-- BSUB (R345). Subscribes a window to a shard's weight returns. -/
def execBsub (m : Mv) (s : State) : Host.Outcome State Fault Refusal := .next (issueNative (.bsub m) s)

/-- ENRD (R363). Reads energy meters or grant at DL0. -/
def execEnrd (m : Mv) (s : State) : Host.Outcome State Fault Refusal := .next (issueNative (.enrd m) s)

/-- ENREQ (R363). Posts an energy grant request record. -/
def execEnreq (m : Mv) (s : State) : Host.Outcome State Fault Refusal := .next (issueNative (.enreq m) s)

/-- QCFG (R160). Binds, initialises or unbinds a queue-head latch. -/
def execQcfg (m : Mv) (s : State) : Host.Outcome State Fault Refusal := .next (issueNative (.qcfg m) s)

/-- QPUSH (R160). Pushes or commits one slot at a queue's tail. -/
def execQpush (m : Mv) (s : State) : Host.Outcome State Fault Refusal := .next (issueNative (.qpush m) s)

/-- QADV (R160). Advances a queue's head or tail by n. -/
def execQadv (m : Mv) (s : State) : Host.Outcome State Fault Refusal := .next (issueNative (.qadv m) s)

/-- QWAIT (R160). Holds its LIW until a queue has n filled or free slots. -/
def execQwait (m : Mv) (s : State) : Host.Outcome State Fault Refusal := .next (issueNative (.qwait m) s)

/-- QSTAT (R160). Reads a queue's FILL, HEAD and TAIL. -/
def execQstat (m : Mv) (s : State) : Host.Outcome State Fault Refusal := .next (issueNative (.qstat m) s)

/-- SHAPE (R169). Validates a shape record and marks it VALID. -/
def execShape (m : Mv) (s : State) : Host.Outcome State Fault Refusal := .next (issueNative (.shape m) s)

/-- CPY (R170). Enqueues a contiguous copy with an at time. -/
def execCpy (m : Mv) (s : State) : Host.Outcome State Fault Refusal := .next (issueNative (.cpy m) s)

/-- CPYS (R171). Enqueues a copy between two shapes. -/
def execCpys (m : Mv) (s : State) : Host.Outcome State Fault Refusal := .next (issueNative (.cpys m) s)

/-- ECHK (R177). Arms or disarms an early-read checked range. -/
def execEchk (m : Mv) (s : State) : Host.Outcome State Fault Refusal := .next (issueNative (.echk m) s)

/-- WSLOAD (R180). Enqueues a write of the weight store from DEVICE memory. -/
def execWsload (m : Mv) (s : State) : Host.Outcome State Fault Refusal := .next (issueNative (.wsload m) s)

/-- WSREF (R182). Reports a weight-store bank's refresh window. -/
def execWsref (m : Mv) (s : State) : Host.Outcome State Fault Refusal := .next (issueNative (.wsref m) s)

/-- MCFG (R186). Sets an array's format pair and output scale when drained. -/
def execMcfg (x : Bool) (m : Mv) (s : State) : Host.Outcome State Fault Refusal := .next (issueNative (.mcfg x m) s)

/-- MLW (R187). Enqueues a weight block load into the shadow plane. -/
def execMlw (x : Bool) (m : Mv) (s : State) : Host.Outcome State Fault Refusal := .next (issueNative (.mlw x m) s)

/-- MSWP (R190). Enqueues a plane swap at a τ. -/
def execMswp (x : Bool) (m : Mv) (s : State) : Host.Outcome State Fault Refusal := .next (issueNative (.mswp x m) s)

/-- MSTR (R192). Enqueues one activation streaming step against the active plane. -/
def execMstr (x : Bool) (m : Mv) (s : State) : Host.Outcome State Fault Refusal := .next (issueNative (.mstr x m) s)

/-- MOP (R195). Enqueues one outer-product step into an accumulator tile. -/
def execMop (x : Bool) (m : Mv) (s : State) : Host.Outcome State Fault Refusal := .next (issueNative (.mop x m) s)

/-- MRD (R196). Drains accumulator rows, scaled and converted, to scratchpad or a register. -/
def execMrd (x : Bool) (m : Mv) (s : State) : Host.Outcome State Fault Refusal := .next (issueNative (.mrd x m) s)

/-- MCLR (R198). Clears one or both accumulator tiles and their flags. -/
def execMclr (x : Bool) (m : Mv) (s : State) : Host.Outcome State Fault Refusal := .next (issueNative (.mclr x m) s)

/-- WMAX (R246). Windowed maximum with a witness tile. -/
def execWmax (m : Mv) (s : State) : Host.Outcome State Fault Refusal := .next (issueNative (.wmax m) s)

/-- WMIN (R246). Windowed minimum with a witness tile. -/
def execWmin (m : Mv) (s : State) : Host.Outcome State Fault Refusal := .next (issueNative (.wmin m) s)

/-- WMED (R246). Windowed median with a witness tile. -/
def execWmed (m : Mv) (s : State) : Host.Outcome State Fault Refusal := .next (issueNative (.wmed m) s)

/-- WCLMP (R246). Clamp with a witness tile. -/
def execWclmp (m : Mv) (s : State) : Host.Outcome State Fault Refusal := .next (issueNative (.wclmp m) s)

/-- WSSUM (R246). Saturating windowed sum with a witness tile. -/
def execWssum (m : Mv) (s : State) : Host.Outcome State Fault Refusal := .next (issueNative (.wssum m) s)

/-- ADJB (R249). Routes upstream gradients through a witness tile. -/
def execAdjb (m : Mv) (s : State) : Host.Outcome State Fault Refusal := .next (issueNative (.adjb m) s)

/-- WTAG (R241). Allocates a witness generation tag. -/
def execWtag (m : Mv) (s : State) : Host.Outcome State Fault Refusal := .next (issueNative (.wtag m) s)

/-- WREL (R242). Releases a live witness tag. -/
def execWrel (m : Mv) (s : State) : Host.Outcome State Fault Refusal := .next (issueNative (.wrel m) s)

end Sys2Proof.Machine
end

