-- ==== Sys2Proof/Machine/ExecScalar.lean ====
section
/-! DEFINITION. The meanings of the scalar operations of Peman (R123 to R130, R83): each issues the bundle of its slot word. -/

namespace Sys2Proof.Machine

/-- NOP (R31). The all-zero Peman slot word does nothing. -/
def execNop (s : State) : Host.Outcome State Fault Refusal := .next (issueOp (.nop) s)

/-- ADD (R123). Adds two registers modulo 2^64. -/
def execAdd (g : Gd) (d : BitVec 5) (a : BitVec 5) (b : BitVec 5) (s : State) : Host.Outcome State Fault Refusal :=
  .next (issueOp (.add g d a b) s)

/-- ADD_I (R123). Adds a register and a signed immediate modulo 2^64. -/
def execAddI (g : Gd) (d : BitVec 5) (a : BitVec 5) (i : BitVec 11) (s : State) : Host.Outcome State Fault Refusal :=
  .next (issueOp (.addI g d a i) s)

/-- SUB (R123). Subtracts two registers modulo 2^64. -/
def execSub (g : Gd) (d : BitVec 5) (a : BitVec 5) (b : BitVec 5) (s : State) : Host.Outcome State Fault Refusal :=
  .next (issueOp (.sub g d a b) s)

/-- MUL (R123). Writes the low 64 bits of a product. -/
def execMul (g : Gd) (d : BitVec 5) (a : BitVec 5) (b : BitVec 5) (s : State) : Host.Outcome State Fault Refusal :=
  .next (issueOp (.mul g d a b) s)

/-- MULH (R123). Writes the high 64 bits of a signed or unsigned product. -/
def execMulh (g : Gd) (d : BitVec 5) (a : BitVec 5) (b : BitVec 5) (u : Bool) (s : State) : Host.Outcome State Fault Refusal :=
  .next (issueOp (.mulh g d a b u) s)

/-- DIV (R124). Signed or unsigned division truncating towards zero without trapping. -/
def execDiv (g : Gd) (d : BitVec 5) (a : BitVec 5) (b : BitVec 5) (u : Bool) (s : State) : Host.Outcome State Fault Refusal :=
  .next (issueOp (.div g d a b u) s)

/-- REM (R124). Signed or unsigned remainder taking the sign of the dividend. -/
def execRem (g : Gd) (d : BitVec 5) (a : BitVec 5) (b : BitVec 5) (u : Bool) (s : State) : Host.Outcome State Fault Refusal :=
  .next (issueOp (.rem g d a b u) s)

/-- AND (R123). Bitwise AND of two registers. -/
def execAnd (g : Gd) (d : BitVec 5) (a : BitVec 5) (b : BitVec 5) (s : State) : Host.Outcome State Fault Refusal :=
  .next (issueOp (.and g d a b) s)

/-- AND_I (R123). Bitwise AND with a sign-extended immediate. -/
def execAndI (g : Gd) (d : BitVec 5) (a : BitVec 5) (i : BitVec 11) (s : State) : Host.Outcome State Fault Refusal :=
  .next (issueOp (.andI g d a i) s)

/-- OR (R123). Bitwise OR of two registers. -/
def execOr (g : Gd) (d : BitVec 5) (a : BitVec 5) (b : BitVec 5) (s : State) : Host.Outcome State Fault Refusal :=
  .next (issueOp (.or g d a b) s)

/-- OR_I (R123). Bitwise OR with a sign-extended immediate. -/
def execOrI (g : Gd) (d : BitVec 5) (a : BitVec 5) (i : BitVec 11) (s : State) : Host.Outcome State Fault Refusal :=
  .next (issueOp (.orI g d a i) s)

/-- XOR (R123). Bitwise XOR of two registers. -/
def execXor (g : Gd) (d : BitVec 5) (a : BitVec 5) (b : BitVec 5) (s : State) : Host.Outcome State Fault Refusal :=
  .next (issueOp (.xor g d a b) s)

/-- XOR_I (R123). Bitwise XOR with a sign-extended immediate. -/
def execXorI (g : Gd) (d : BitVec 5) (a : BitVec 5) (i : BitVec 11) (s : State) : Host.Outcome State Fault Refusal :=
  .next (issueOp (.xorI g d a i) s)

/-- ANDN (R123). Writes a AND NOT b. -/
def execAndn (g : Gd) (d : BitVec 5) (a : BitVec 5) (b : BitVec 5) (s : State) : Host.Outcome State Fault Refusal :=
  .next (issueOp (.andn g d a b) s)

/-- SHL (R123). Shifts left by a register amount. -/
def execShl (g : Gd) (d : BitVec 5) (a : BitVec 5) (b : BitVec 5) (s : State) : Host.Outcome State Fault Refusal :=
  .next (issueOp (.shl g d a b) s)

/-- SHL_I (R123). Shifts left by an immediate 0 through 63. -/
def execShlI (g : Gd) (d : BitVec 5) (a : BitVec 5) (i : BitVec 6) (s : State) : Host.Outcome State Fault Refusal :=
  .next (issueOp (.shlI g d a i) s)

/-- SHR (R123). Logical shift right by a register amount. -/
def execShr (g : Gd) (d : BitVec 5) (a : BitVec 5) (b : BitVec 5) (s : State) : Host.Outcome State Fault Refusal :=
  .next (issueOp (.shr g d a b) s)

/-- SHR_I (R123). Logical shift right by an immediate. -/
def execShrI (g : Gd) (d : BitVec 5) (a : BitVec 5) (i : BitVec 6) (s : State) : Host.Outcome State Fault Refusal :=
  .next (issueOp (.shrI g d a i) s)

/-- SAR (R123). Arithmetic shift right by a register amount. -/
def execSar (g : Gd) (d : BitVec 5) (a : BitVec 5) (b : BitVec 5) (s : State) : Host.Outcome State Fault Refusal :=
  .next (issueOp (.sar g d a b) s)

/-- SAR_I (R123). Arithmetic shift right by an immediate. -/
def execSarI (g : Gd) (d : BitVec 5) (a : BitVec 5) (i : BitVec 6) (s : State) : Host.Outcome State Fault Refusal :=
  .next (issueOp (.sarI g d a i) s)

/-- ROL (R123). Rotates left by a register amount. -/
def execRol (g : Gd) (d : BitVec 5) (a : BitVec 5) (b : BitVec 5) (s : State) : Host.Outcome State Fault Refusal :=
  .next (issueOp (.rol g d a b) s)

/-- ROL_I (R123). Rotates left by an immediate. -/
def execRolI (g : Gd) (d : BitVec 5) (a : BitVec 5) (i : BitVec 6) (s : State) : Host.Outcome State Fault Refusal :=
  .next (issueOp (.rolI g d a i) s)

/-- MIN (R123). Signed or unsigned minimum. -/
def execMin (g : Gd) (d : BitVec 5) (a : BitVec 5) (b : BitVec 5) (u : Bool) (s : State) : Host.Outcome State Fault Refusal :=
  .next (issueOp (.min g d a b u) s)

/-- MAX (R123). Signed or unsigned maximum. -/
def execMax (g : Gd) (d : BitVec 5) (a : BitVec 5) (b : BitVec 5) (u : Bool) (s : State) : Host.Outcome State Fault Refusal :=
  .next (issueOp (.max g d a b u) s)

/-- CLZ (R123). Counts leading zero bits. -/
def execClz (g : Gd) (d : BitVec 5) (a : BitVec 5) (s : State) : Host.Outcome State Fault Refusal :=
  .next (issueOp (.clz g d a) s)

/-- POPC (R123). Counts one bits. -/
def execPopc (g : Gd) (d : BitVec 5) (a : BitVec 5) (s : State) : Host.Outcome State Fault Refusal :=
  .next (issueOp (.popc g d a) s)

/-- BFX (R125). Extracts a bit field, zero- or sign-extended. -/
def execBfx (g : Gd) (d : BitVec 5) (a : BitVec 5) (b : BitVec 5) (x : Bool) (s : State) : Host.Outcome State Fault Refusal :=
  .next (issueOp (.bfx g d a b x) s)

/-- BFI (R125). Inserts a bit field into d. -/
def execBfi (g : Gd) (d : BitVec 5) (a : BitVec 5) (b : BitVec 5) (s : State) : Host.Outcome State Fault Refusal :=
  .next (issueOp (.bfi g d a b) s)

/-- SEL (R126). Selects a or b by a predicate. -/
def execSel (g : Gd) (d : BitVec 5) (a : BitVec 5) (b : BitVec 5) (p : BitVec 4) (s : State) : Host.Outcome State Fault Refusal :=
  .next (issueOp (.sel g d a b p) s)

/-- MOV (R123). Copies a register. -/
def execMov (g : Gd) (d : BitVec 5) (a : BitVec 5) (s : State) : Host.Outcome State Fault Refusal :=
  .next (issueOp (.mov g d a) s)

/-- MOVI (R123). Loads a sign-extended 16-bit immediate. -/
def execMovi (g : Gd) (d : BitVec 5) (i : BitVec 16) (s : State) : Host.Outcome State Fault Refusal :=
  .next (issueOp (.movi g d i) s)

/-- MOVK (R126). Shifts d left by 16 and inserts a 16-bit immediate. -/
def execMovk (g : Gd) (d : BitVec 5) (i : BitVec 16) (s : State) : Host.Outcome State Fault Refusal :=
  .next (issueOp (.movk g d i) s)

/-- CMP (R127). Compares two registers and writes a predicate. -/
def execCmp (g : Gd) (p : BitVec 4) (a : BitVec 5) (b : BitVec 5) (c : BitVec 4) (s : State) : Host.Outcome State Fault Refusal :=
  .next (issueOp (.cmp g p a b c) s)

/-- PAND (R83). ANDs two optionally inverted predicates. -/
def execPand (g : Gd) (d : BitVec 4) (a : BitVec 4) (b : BitVec 4) (y : Bool) (x : Bool) (s : State) : Host.Outcome State Fault Refusal :=
  .next (issueOp (.pand g d a b y x) s)

/-- POR (R83). ORs two optionally inverted predicates. -/
def execPor (g : Gd) (d : BitVec 4) (a : BitVec 4) (b : BitVec 4) (y : Bool) (x : Bool) (s : State) : Host.Outcome State Fault Refusal :=
  .next (issueOp (.por g d a b y x) s)

/-- PXOR (R83). XORs two optionally inverted predicates. -/
def execPxor (g : Gd) (d : BitVec 4) (a : BitVec 4) (b : BitVec 4) (y : Bool) (x : Bool) (s : State) : Host.Outcome State Fault Refusal :=
  .next (issueOp (.pxor g d a b y x) s)

/-- PMOV (R83). Copies an optionally inverted predicate. -/
def execPmov (g : Gd) (d : BitVec 4) (a : BitVec 4) (x : Bool) (s : State) : Host.Outcome State Fault Refusal :=
  .next (issueOp (.pmov g d a x) s)

/-- FADD (R128). FP32 addition under FMT. -/
def execFadd (g : Gd) (d : BitVec 5) (a : BitVec 5) (b : BitVec 5) (s : State) : Host.Outcome State Fault Refusal :=
  .next (issueOp (.fadd g d a b) s)

/-- FSUB (R128). FP32 subtraction under FMT. -/
def execFsub (g : Gd) (d : BitVec 5) (a : BitVec 5) (b : BitVec 5) (s : State) : Host.Outcome State Fault Refusal :=
  .next (issueOp (.fsub g d a b) s)

/-- FMUL (R128). FP32 multiplication under FMT. -/
def execFmul (g : Gd) (d : BitVec 5) (a : BitVec 5) (b : BitVec 5) (s : State) : Host.Outcome State Fault Refusal :=
  .next (issueOp (.fmul g d a b) s)

/-- FFMA (R128). FP32 fused multiply-add into d with one rounding. -/
def execFfma (g : Gd) (d : BitVec 5) (a : BitVec 5) (b : BitVec 5) (s : State) : Host.Outcome State Fault Refusal :=
  .next (issueOp (.ffma g d a b) s)

/-- FMIN (R128). FP32 minimum with -0 below +0. -/
def execFmin (g : Gd) (d : BitVec 5) (a : BitVec 5) (b : BitVec 5) (s : State) : Host.Outcome State Fault Refusal :=
  .next (issueOp (.fmin g d a b) s)

/-- FMAX (R128). FP32 maximum with -0 below +0. -/
def execFmax (g : Gd) (d : BitVec 5) (a : BitVec 5) (b : BitVec 5) (s : State) : Host.Outcome State Fault Refusal :=
  .next (issueOp (.fmax g d a b) s)

/-- FCVT (R129). Converts a scalar between formats under FMT. -/
def execFcvt (g : Gd) (d : BitVec 5) (a : BitVec 5) (t : BitVec 3) (sc : BitVec 3) (s : State) : Host.Outcome State Fault Refusal :=
  .next (issueOp (.fcvt g d a t sc) s)

/-- FCMP (R130). Compares two FP32 values and writes a predicate. -/
def execFcmp (g : Gd) (p : BitVec 4) (a : BitVec 5) (b : BitVec 5) (c : BitVec 3) (s : State) : Host.Outcome State Fault Refusal :=
  .next (issueOp (.fcmp g p a b c) s)

end Sys2Proof.Machine
end

