-- ==== Sys2Proof/Machine/ExecVector.lean ====
section
/-! DEFINITION. The meanings of the vector operations of Peman (R120 to R145): each issues the bundle of its slot word. -/

namespace Sys2Proof.Machine

/-- VADD (R131). Lane-wise f32 or i32 addition, optionally saturating. -/
def execVadd (g : Gd) (v : BitVec 5) (a : BitVec 5) (b : BitVec 5) (k : BitVec 3) (f : BitVec 3) (s : State) : Host.Outcome State Fault Refusal :=
  .next (issueOp (.vadd g v a b k f) s)

/-- VSUB (R131). Lane-wise subtraction. -/
def execVsub (g : Gd) (v : BitVec 5) (a : BitVec 5) (b : BitVec 5) (k : BitVec 3) (f : BitVec 3) (s : State) : Host.Outcome State Fault Refusal :=
  .next (issueOp (.vsub g v a b k f) s)

/-- VMUL (R131). Lane-wise multiplication. -/
def execVmul (g : Gd) (v : BitVec 5) (a : BitVec 5) (b : BitVec 5) (k : BitVec 3) (f : BitVec 3) (s : State) : Host.Outcome State Fault Refusal :=
  .next (issueOp (.vmul g v a b k f) s)

/-- VFMA (R131). Lane-wise fused multiply-add into vd. -/
def execVfma (g : Gd) (v : BitVec 5) (a : BitVec 5) (b : BitVec 5) (k : BitVec 3) (s : State) : Host.Outcome State Fault Refusal :=
  .next (issueOp (.vfma g v a b k) s)

/-- VMIN (R131). Lane-wise minimum. -/
def execVmin (g : Gd) (v : BitVec 5) (a : BitVec 5) (b : BitVec 5) (k : BitVec 3) (f : BitVec 3) (s : State) : Host.Outcome State Fault Refusal :=
  .next (issueOp (.vmin g v a b k f) s)

/-- VMAX (R131). Lane-wise maximum. -/
def execVmax (g : Gd) (v : BitVec 5) (a : BitVec 5) (b : BitVec 5) (k : BitVec 3) (f : BitVec 3) (s : State) : Host.Outcome State Fault Refusal :=
  .next (issueOp (.vmax g v a b k f) s)

/-- VABS (R131). Lane-wise absolute value. -/
def execVabs (g : Gd) (v : BitVec 5) (a : BitVec 5) (k : BitVec 3) (f : BitVec 3) (s : State) : Host.Outcome State Fault Refusal :=
  .next (issueOp (.vabs g v a k f) s)

/-- VNEG (R131). Lane-wise negation. -/
def execVneg (g : Gd) (v : BitVec 5) (a : BitVec 5) (k : BitVec 3) (f : BitVec 3) (s : State) : Host.Outcome State Fault Refusal :=
  .next (issueOp (.vneg g v a k f) s)

/-- VAND (R131). Lane-wise bitwise AND. -/
def execVand (g : Gd) (v : BitVec 5) (a : BitVec 5) (b : BitVec 5) (k : BitVec 3) (s : State) : Host.Outcome State Fault Refusal :=
  .next (issueOp (.vand g v a b k) s)

/-- VOR (R131). Lane-wise bitwise OR. -/
def execVor (g : Gd) (v : BitVec 5) (a : BitVec 5) (b : BitVec 5) (k : BitVec 3) (s : State) : Host.Outcome State Fault Refusal :=
  .next (issueOp (.vor g v a b k) s)

/-- VXOR (R131). Lane-wise bitwise XOR. -/
def execVxor (g : Gd) (v : BitVec 5) (a : BitVec 5) (b : BitVec 5) (k : BitVec 3) (s : State) : Host.Outcome State Fault Refusal :=
  .next (issueOp (.vxor g v a b k) s)

/-- VSHL (R131). Lane-wise shift left. -/
def execVshl (g : Gd) (v : BitVec 5) (a : BitVec 5) (b : BitVec 5) (k : BitVec 3) (s : State) : Host.Outcome State Fault Refusal :=
  .next (issueOp (.vshl g v a b k) s)

/-- VSHR (R131). Lane-wise logical or arithmetic shift right. -/
def execVshr (g : Gd) (v : BitVec 5) (a : BitVec 5) (b : BitVec 5) (k : BitVec 3) (f : BitVec 3) (s : State) : Host.Outcome State Fault Refusal :=
  .next (issueOp (.vshr g v a b k f) s)

/-- VCMP_F (R132). Lane-wise float compare into a mask. -/
def execVcmpF (g : Gd) (m : BitVec 3) (a : BitVec 5) (b : BitVec 5) (k : BitVec 3) (c : BitVec 3) (s : State) : Host.Outcome State Fault Refusal :=
  .next (issueOp (.vcmpF g m a b k c) s)

/-- VCMP_I (R132). Lane-wise integer compare into a mask. -/
def execVcmpI (g : Gd) (m : BitVec 3) (a : BitVec 5) (b : BitVec 5) (k : BitVec 3) (c : BitVec 3) (s : State) : Host.Outcome State Fault Refusal :=
  .next (issueOp (.vcmpI g m a b k c) s)

/-- VSEL (R133). Selects va or vb per lane by a mask. -/
def execVsel (g : Gd) (v : BitVec 5) (a : BitVec 5) (b : BitVec 5) (k : BitVec 3) (s : State) : Host.Outcome State Fault Refusal :=
  .next (issueOp (.vsel g v a b k) s)

/-- VCVT (R134). Lane-wise format conversion, including D2P8 block encoding. -/
def execVcvt (g : Gd) (v : BitVec 5) (a : BitVec 5) (sc : BitVec 3) (k : BitVec 3) (t : BitVec 3) (s : State) : Host.Outcome State Fault Refusal :=
  .next (issueOp (.vcvt g v a sc k t) s)

/-- VEXP2 (R135). Lane-wise correctly rounded 2^x. -/
def execVexp2 (g : Gd) (v : BitVec 5) (a : BitVec 5) (k : BitVec 3) (s : State) : Host.Outcome State Fault Refusal :=
  .next (issueOp (.vexp2 g v a k) s)

/-- VLOG2 (R135). Lane-wise correctly rounded log2. -/
def execVlog2 (g : Gd) (v : BitVec 5) (a : BitVec 5) (k : BitVec 3) (s : State) : Host.Outcome State Fault Refusal :=
  .next (issueOp (.vlog2 g v a k) s)

/-- VRCP (R135). Lane-wise correctly rounded reciprocal. -/
def execVrcp (g : Gd) (v : BitVec 5) (a : BitVec 5) (k : BitVec 3) (s : State) : Host.Outcome State Fault Refusal :=
  .next (issueOp (.vrcp g v a k) s)

/-- VRSQ (R135). Lane-wise correctly rounded reciprocal square root. -/
def execVrsq (g : Gd) (v : BitVec 5) (a : BitVec 5) (k : BitVec 3) (s : State) : Host.Outcome State Fault Refusal :=
  .next (issueOp (.vrsq g v a k) s)

/-- VBCAST (R136). Broadcasts a scalar register into active lanes. -/
def execVbcast (g : Gd) (v : BitVec 5) (sc : BitVec 5) (k : BitVec 3) (s : State) : Host.Outcome State Fault Refusal :=
  .next (issueOp (.vbcast g v sc k) s)

/-- VPERM (R143). Full gather across all 128 lanes. -/
def execVperm (g : Gd) (v : BitVec 5) (a : BitVec 5) (b : BitVec 5) (k : BitVec 3) (s : State) : Host.Outcome State Fault Refusal :=
  .next (issueOp (.vperm g v a b k) s)

/-- VREDADD (R145). Fixed-tree sum of active lanes written to every lane. -/
def execVredadd (g : Gd) (v : BitVec 5) (a : BitVec 5) (k : BitVec 3) (f : BitVec 3) (s : State) : Host.Outcome State Fault Refusal :=
  .next (issueOp (.vredadd g v a k f) s)

/-- VREDMAX (R145). Fixed-tree maximum of active lanes written to every lane. -/
def execVredmax (g : Gd) (v : BitVec 5) (a : BitVec 5) (k : BitVec 3) (f : BitVec 3) (s : State) : Host.Outcome State Fault Refusal :=
  .next (issueOp (.vredmax g v a k f) s)

/-- VIOTA (R137). Writes each active lane's index. -/
def execViota (g : Gd) (v : BitVec 5) (k : BitVec 3) (s : State) : Host.Outcome State Fault Refusal :=
  .next (issueOp (.viota g v k) s)

/-- VRNG (R138). Fills active lanes with counter-based random bits. -/
def execVrng (g : Gd) (v : BitVec 5) (a : BitVec 5) (b : BitVec 5) (k : BitVec 3) (s : State) : Host.Outcome State Fault Refusal :=
  .next (issueOp (.vrng g v a b k) s)

/-- VNFIN (R140). Sets NF when an active lane holds a non-finite FP32 value. -/
def execVnfin (g : Gd) (a : BitVec 5) (k : BitVec 3) (s : State) : Host.Outcome State Fault Refusal :=
  .next (issueOp (.vnfin g a k) s)

end Sys2Proof.Machine
end

