-- ==== Sys2Proof/Machine/ExecWait.lean ====
section
/-! DEFINITION. The issue of a whole LIW (R79) and the release of a waiting one (R160, R226, R271, R273, R292, R296, R337). -/

namespace Sys2Proof.Machine

/-- LIW_ISSUE (R79). -/
def execLiwIssue (l : Liw) (s : State) : Host.Outcome State Fault Refusal := .next (issueLiw l s)

/-- The wait of a FENCE. -/
def Wait.isFence : Wait → Bool
  | .fence _ => true
  | _ => false

/-- FENCE_RELEASE (R226). -/
def execFenceRelease (s : State) : Host.Outcome State Fault Refusal := .next (release Wait.isFence s)

/-- TLBI_RELEASE (R296). -/
def execTlbiRelease (s : State) : Host.Outcome State Fault Refusal := .next (release (fun w => w = .tlbi) s)

/-- QWAIT_RELEASE (R160). -/
def execQwaitRelease (s : State) : Host.Outcome State Fault Refusal := .next (release (fun w => w = .qwait) s)

/-- JOIN_RELEASE (R271). -/
def execJoinRelease (s : State) : Host.Outcome State Fault Refusal := .next (release (fun w => w = .join) s)

/-- BARRIER_RELEASE (R271). -/
def execBarrierRelease (s : State) : Host.Outcome State Fault Refusal := .next (release (fun w => w = .barrier) s)

/-- ENDT_RELEASE (R273). -/
def execEndtRelease (s : State) : Host.Outcome State Fault Refusal := .next (release (fun w => w = .endt) s)

/-- RFT_RELEASE (R292). -/
def execRftRelease (s : State) : Host.Outcome State Fault Refusal := .next (release (fun w => w = .rft) s)

/-- A waiting BWAIT would still wait were its deadline not counted (R337). -/
def arrivalsShort (s : State) : Bool := wouldWait { s with cur := { s.cur with since := some (max s.gcyc s.cur.nextG) } }

/-- BWAIT_RELEASE (R337): every named entry is satisfied. -/
def execBwaitRelease (s : State) : Host.Outcome State Fault Refusal :=
  .next (if arrivalsShort s then s else release (fun w => w = .bwait) s)

/-- BWAIT_DEADLINE (R337): the deadline has passed while entries are short. -/
def execBwaitDeadline (s : State) : Host.Outcome State Fault Refusal :=
  .next (if arrivalsShort s then release (fun w => w = .bwait) s else s)

end Sys2Proof.Machine
end

