-- ==== Sys2Proof/Machine/Sha.lean ====
section
/-! DEFINITION. SHA-256, by which a routine body is recognised (R308, R309). The spec names the function only; it is taken
as FIPS 180-4 defines it (PRESUMED, log 16). -/

namespace Sys2Proof.Machine

/-- The 64 round constants. -/
def shaK : List Lane :=
  [0x428a2f98, 0x71374491, 0xb5c0fbcf, 0xe9b5dba5, 0x3956c25b, 0x59f111f1, 0x923f82a4, 0xab1c5ed5] ++ [0xd807aa98, 0x12835b01, 0x243185be, 0x550c7dc3, 0x72be5d74, 0x80deb1fe, 0x9bdc06a7, 0xc19bf174]
    ++ [0xe49b69c1, 0xefbe4786, 0x0fc19dc6, 0x240ca1cc, 0x2de92c6f, 0x4a7484aa, 0x5cb0a9dc, 0x76f988da] ++ [0x983e5152, 0xa831c66d, 0xb00327c8, 0xbf597fc7, 0xc6e00bf3, 0xd5a79147, 0x06ca6351, 0x14292967]
    ++ [0x27b70a85, 0x2e1b2138, 0x4d2c6dfc, 0x53380d13, 0x650a7354, 0x766a0abb, 0x81c2c92e, 0x92722c85] ++ [0xa2bfe8a1, 0xa81a664b, 0xc24b8b70, 0xc76c51a3, 0xd192e819, 0xd6990624, 0xf40e3585, 0x106aa070]
    ++ [0x19a4c116, 0x1e376c08, 0x2748774c, 0x34b0bcb5, 0x391c0cb3, 0x4ed8aa4a, 0x5b9cca4f, 0x682e6ff3] ++ [0x748f82ee, 0x78a5636f, 0x84c87814, 0x8cc70208, 0x90befffa, 0xa4506ceb, 0xbef9a3f7, 0xc67178f2]

/-- The initial hash value. -/
def shaInit : List Lane :=
  [0x6a09e667, 0xbb67ae85, 0x3c6ef372, 0xa54ff53a, 0x510e527f, 0x9b05688c, 0x1f83d9ab, 0x5be0cd19]

/-- The big-endian bytes of a number, `n` of them. -/
def natBe (n x : Nat) : List Byte := (natLe n x).reverse

/-- A message padded to whole blocks of 64 bytes. -/
def shaPad (m : List Byte) : List Byte :=
  m ++ [0x80] ++ List.replicate ((119 - m.length % 64) % 64) 0 ++ natBe 8 (8 * m.length)

/-- The big-endian 32-bit words of a byte list. -/
def beWords : List Byte → List Lane
  | b0 :: b1 :: b2 :: b3 :: bs => (b0 ++ b1 ++ b2 ++ b3) :: beWords bs
  | _ => []

/-- Rotate right. -/
def rotr (n : Nat) (x : Lane) : Lane := x.rotateRight n

/-- The message schedule, newest word first: `n` further words. -/
def shaSchedule : Nat → List Lane → List Lane
  | 0, w => w
  | n + 1, w =>
    let g : Nat → Lane := fun i => w.getD (i - 1) 0
    let s0 := rotr 7 (g 15) ^^^ rotr 18 (g 15) ^^^ (g 15 >>> (3 : Nat))
    let s1 := rotr 17 (g 2) ^^^ rotr 19 (g 2) ^^^ (g 2 >>> (10 : Nat))
    shaSchedule n ((g 16 + s0 + g 7 + s1) :: w)

/-- One round. -/
def shaRound (h : List Lane) (kw : Lane × Lane) : List Lane :=
  match h with
  | [a, b, c, d, e, f, g, x] =>
    let t1 := x + (rotr 6 e ^^^ rotr 11 e ^^^ rotr 25 e) + ((e &&& f) ^^^ (~~~ e &&& g)) + kw.1 + kw.2
    let t2 := (rotr 2 a ^^^ rotr 13 a ^^^ rotr 22 a) + ((a &&& b) ^^^ (a &&& c) ^^^ (b &&& c))
    [t1 + t2, a, b, c, d + t1, e, f, g]
  | _ => h

/-- One block. -/
def shaBlock (h : List Lane) (block : List Byte) : List Lane :=
  let w := (shaSchedule 48 (beWords block).reverse).reverse
  let r := (shaK.zip w).foldl shaRound h
  (h.zip r).map fun p => p.1 + p.2

/-- `n` blocks of a message. -/
def shaBlocks : Nat → List Lane → List Byte → List Lane
  | 0, h, _ => h
  | n + 1, h, m => shaBlocks n (shaBlock h (m.take 64)) (m.drop 64)

/-- The digest of a message, its 32 bytes in order. -/
def sha256Bytes (m : List Byte) : List Byte :=
  let p := shaPad m
  (shaBlocks (p.length / 64) shaInit p).flatMap fun x => natBe 4 x.toNat

/-- The digest as a number whose byte 0 is the first byte of the digest, as records hold it (R3, R53). -/
def sha256 (m : List Byte) : BitVec 256 := BitVec.ofNat 256 (leNat (sha256Bytes m))

end Sys2Proof.Machine
end

