-- ==== Sys2Proof/Machine/Stitcher.lean ====
section
/-! DEFINITION. The Stitcher: code objects and their checks (R47, R52 to R55, R110), routines and their digests (R307 to R309,
R318), linking and publication (R114), removal (R115), bindings and the substitution table (R313 to R315); and the packet and
steps that drive it. -/

namespace Sys2Proof.Machine

/-! ### Reading a code object -/

/-- A section of a code object (R52). -/
structure Section where
  kind : Nat
  tag  : Nat
  off  : Nat
  ver  : Nat
  data : List Byte
  deriving DecidableEq, Repr

/-- A code object as it stands in memory, from DEVICE address `va` (R52). -/
structure CodeObject where
  va   : Nat
  head : List Byte
  raw  : List Byte
  secs : List Section
  deriving DecidableEq, Repr

/-- The status of a LOAD whose object is rejected (R52, R114, R260). -/
def loadFormat : Nat := 0x40

/-- The status of a LOAD whose relocation does not fit (R55, R260). -/
def loadReloc : Nat := 0x41

/-- Bytes of a context's memory for the Stitcher, or the status of a LOAD that cannot read them (R260). -/
def loadRead (s : State) (c : Ctx) (va n : Nat) : Except Nat (List Byte) :=
  if 2 ^ 56 < va + n then .error FaultCode.xlate.num
  else match ctxRead s c va n with
    | .ok bs => .ok bs
    | .error .xlate => .error FaultCode.xlate.num
    | .error _ => .error FaultCode.prot.num

/-- Read the sections of an object from its section table (R52). -/
def readSections (s : State) (c : Ctx) (va : Nat) (table : List Byte) : Nat → Nat → Except Nat (List Section)
  | 0, _ => .ok []
  | n + 1, i =>
    let f : Nat → Nat → Nat := fun o k => byteField table (24 * i + o) k
    match loadRead s c (va + f 4 8) (f 12 8) with
    | .error e => .error e
    | .ok bs => match readSections s c va table n (i + 1) with
      | .error e => .error e
      | .ok r => .ok ({ kind := f 0 2, tag := f 2 2, off := f 4 8, ver := f 21 1, data := bs } :: r)

/-- The conditions of R52 on header and section table. -/
def formatOk (head table : List Byte) (n : Nat) : Bool :=
  head.take 4 = [0x42, 0x51, 0x43, 0x4F] && byteField head 4 2 = 1 && byteField head 8 8 < 4 && byteField head 20 12 = 0
    && (List.range n).all fun i =>
      let k := byteField table (24 * i) 2
      1 ≤ k && k ≤ 8 && byteField table (24 * i + 22) 2 = 0 && (k = 2 || byteField table (24 * i + 21) 1 = 0)

/-- Read a code object and check its format (R52). -/
def readObject (s : State) (c : Ctx) (va : Nat) : Except Nat CodeObject :=
  match loadRead s c va 32 with
  | .error e => .error e
  | .ok head =>
    let n := byteField head 6 2
    match loadRead s c (va + 32) (24 * n) with
    | .error e => .error e
    | .ok table =>
      if !formatOk head table n then .error loadFormat
      else (readSections s c va table n 0).map fun secs => { va := va, head := head, raw := table, secs := secs }

/-- The object's section of a kind; of native text, the one for the Q9. Where an object has several, the first counts (log 57). -/
def CodeObject.find (o : CodeObject) (kind : Nat) : Option Section :=
  o.secs.find? fun x => x.kind = kind && (kind ≠ 2 || x.tag = 0x0009)

/-- The address of a section. -/
def CodeObject.addr (o : CodeObject) (x : Section) : Nat := o.va + x.off

/-! ### Native text -/

/-- The LIWs of a native text with their byte offsets; `none` where one does not decode (R47). -/
def decodeAll : Nat → Nat → List Byte → Option (List (Nat × Liw))
  | 0, _, _ => some []
  | n + 1, off, bs =>
    if bs.isEmpty then some []
    else match decodeLiw bs with
      | none => none
      | some (l, r) => (decodeAll n (off + (bs.length - r.length)) r).map fun x => (off, l) :: x

/-- The LIWs of a native section. -/
def sectionLiws (x : Section) : Option (List (Nat × Liw)) := decodeAll (x.data.length / 8 + 1) 0 x.data

/-- An LIW after which a run may be pre-empted (R47). -/
def closing (l : Liw) : Bool :=
  l.nt ≠ 0 || (liwBusMoves l).any fun x => x.1 < 32
    && (x.2.dst.toNat = 75 || (isTransferPort x.2.dst.toNat && x.2.mv.g = 0 && !x.2.mv.n && x.2.mv.tag = 0 && x.2.mv.lf = 0))

/-- No run of more than 4,096 LIWs lacks a closing one (R47). -/
def runsBounded : Nat → List (Nat × Liw) → Bool
  | _, [] => true
  | n, (_, l) :: r => if closing l then runsBounded 0 r else n < 4096 && runsBounded (n + 1) r

/-- The checks of R47 on a native section. -/
def nativeOk (x : Section) : Bool :=
  match sectionLiws x with
  | none => false
  | some ls =>
    let starts := ls.map Prod.fst
    x.ver = 1 && runsBounded 0 ls && ls.all fun p => liwLegal p.2
      && p.2.targets.all fun w => starts.any fun a => ((a : Nat) : Int) = (p.1 : Int) + w.toInt

/-! ### Symbols and relocations (the layout of symbols is the model's, log 25) -/

/-- A symbol: name tag, section index (0xFFFF absolute, 0xFFFE import), whether it is global, value. -/
structure Symbol where
  name : Nat
  sec  : Nat
  glob : Bool
  val  : Nat
  deriving DecidableEq, Repr

/-- The symbols of an object. -/
def CodeObject.symbols (o : CodeObject) : List Symbol :=
  match o.find 6 with
  | none => []
  | some x => (List.range (x.data.length / 24)).map fun i =>
    let f : Nat → Nat → Nat := fun a n => byteField x.data (24 * i + a) n
    { name := f 0 8, sec := f 8 2, glob := (f 10 1).testBit 0, val := f 16 8 }

/-- The value of a symbol that the object defines. -/
def CodeObject.valueOf (o : CodeObject) (y : Symbol) : Option Nat :=
  if y.sec = 0xFFFF then some y.val else (o.secs[y.sec]?).map fun x => o.addr x + y.val

/-- Resolve a symbol: against the object itself, then against the modules linked in the context, then against
the Mboand library (R114). -/
def resolve (c : Ctx) (o : CodeObject) (i : Nat) : Option Nat :=
  match o.symbols[i]? with
  | none => none
  | some y =>
    if y.sec ≠ 0xFFFE then o.valueOf y
    else match o.symbols.find? fun z => z.name = y.name && z.sec ≠ 0xFFFE with
      | some z => o.valueOf z
      | none => ((c.modules.filter fun m => m.live).findSome? fun m =>
          (m.exports.find? fun e => e.1 = y.name).map fun e => e.2.toNat).or (Config.librarySymbol y.name)

/-- Replace `n` bytes of a section. -/
def patch (bs : List Byte) (off n v : Nat) : List Byte := bs.take off ++ natLe n v ++ bs.drop (off + n)

/-- A number fits a signed field. -/
def fits (lo hi : Int) (v : Int) : Bool := lo ≤ v && v ≤ hi

/-- The signed value of a field's bits. -/
def signedField (w n : Nat) : Int := (BitVec.ofNat n w).toInt

/-- A field of a relocated word: bits, and the value it takes there from S, P and the addend; `none` when it does not fit
(R54). -/
structure Field where
  bits : Nat
  val  : Option Int
  deriving DecidableEq, Repr

/-- The imm11 field of an operation (R54): RI, shift forms, M. The addend stands in the unit of the field it is read from: of an M
form in accesses of the form's size (log 54). -/
def imm11Field (i : Instr) (w : Nat) (s : Int) : Option Field :=
  let a := signedField (w % 2048) 11
  let v := s + a
  let plain : Option Field := some ⟨11, if fits (-1024) 1023 v then some v else none⟩
  let shift : Option Field := some ⟨11, if fits 0 63 (s + (w % 2048 : Nat)) then some (s + (w % 2048 : Nat)) else none⟩
  let mem : Int → Option Field := fun n =>
    let x := s + a * n
    some ⟨11, if x % n = 0 && fits (-1024) 1023 (x / n) then some (x / n) else none⟩
  match i with
  | .addI .. => plain
  | .andI .. => plain
  | .orI .. => plain
  | .xorI .. => plain
  | .shlI .. => shift
  | .shrI .. => shift
  | .sarI .. => shift
  | .rolI .. => shift
  | .ldB .. => mem 1
  | .ldSb .. => mem 1
  | .stB .. => mem 1
  | .ldH .. => mem 2
  | .ldSh .. => mem 2
  | .stH .. => mem 2
  | .ldW .. => mem 4
  | .ldSw .. => mem 4
  | .stW .. => mem 4
  | .ldD .. => mem 8
  | .stD .. => mem 8
  | .vld .. => mem 512
  | .vst .. => mem 512
  | _ => none

/-- The imm16 field of an operation (R54). -/
def imm16Field (i : Instr) (w : Nat) (s : Int) : Option Field :=
  let u := s + (w % 65536 : Nat)
  let unsigned : Option Field := some ⟨16, if fits 0 65535 u then some u else none⟩
  match i with
  | .movi .. =>
    let v := s + signedField (w % 65536) 16
    some ⟨16, if fits (-32768) 32767 v then some v else none⟩
  | .movk .. => unsigned
  | .trap .. => unsigned
  | .fmtset .. => unsigned
  | _ => none

/-- The bundle-offset field of an operation whose bundle stands at `p` (R54); the addend counts bundles (log 54). -/
def bundleField (i : Instr) (w : Nat) (s p : Int) : Option Field :=
  let d := s - p
  let put : Nat → Int → Int → Int → Option Field := fun n a lo hi =>
    some ⟨n, if d % 16 = 0 && fits lo hi (d / 16 + a) then some (d / 16 + a) else none⟩
  match i with
  | .br .. => put 21 (signedField (w % 2 ^ 21) 21) (-1048576) 1048575
  | .call .. => put 16 (signedField (w % 65536) 16) (-32768) 32767
  | .loop .. => put 16 (w % 65536 : Nat) 1 65535
  | _ => none

/-- Put a field's value into the low bits of a word. -/
def putField (w bits : Nat) (v : Int) : Nat := w / 2 ^ bits * 2 ^ bits + (BitVec.ofInt bits v).toNat

/-- A relocation entry (R54). -/
structure Reloc where
  off  : Nat
  sec  : Nat
  kind : Nat
  rsv  : Nat
  sym  : Nat
  deriving DecidableEq, Repr

/-- The relocation entries of an object. -/
def CodeObject.relocs (o : CodeObject) : List Reloc :=
  match o.find 5 with
  | none => []
  | some x => (List.range (x.data.length / 16)).map fun i =>
    let f : Nat → Nat → Nat := fun a n => byteField x.data (16 * i + a) n
    { off := f 0 8, sec := f 8 2, kind := f 10 1, rsv := f 11 1, sym := f 12 4 }

/-- The IDs whose bodies an object carries. -/
def CodeObject.ids (o : CodeObject) : List Nat :=
  match o.find 3 with
  | none => []
  | some x => (List.range (x.data.length / 56)).map fun i => byteField x.data (56 * i) 2

/-- A value that CALLR may name (R54). -/
def CodeObject.callable (o : CodeObject) (v : Int) : Bool :=
  0 ≤ v && (o.ids.contains v.toNat || (service? v.toNat).isSome)

/-- The operation of a slot word whose patched field holds an addend: the field itself is read as 0, or as 1 where 0 is no legal
value of it (R54). -/
def relocShape (slot kind w : Nat) : Option Instr :=
  let bits := if kind = 1 then 11 else 16
  let put : Nat → Option Instr := fun v => decodeSlot (slotClass slot) (BitVec.ofNat 32 (w / 2 ^ bits * 2 ^ bits + v))
  (put 0).or (put 1)

/-- A relocation in Peman text: the patched section, or `none` (R54). -/
def relocPeman (o : CodeObject) (x : Section) (r : Reloc) (s : Int) : Option (List Byte) :=
  let w := byteField x.data r.off 4
  let slot := r.off % 16 / 4
  match relocShape slot r.kind w with
  | none => none
  | some i =>
    let f : Option Field := match r.kind with
      | 1 => imm11Field i w s
      | 2 => imm16Field i w s
      | 3 => bundleField i w s (o.addr x + r.off / 16 * 16)
      | 5 => match i with
        | .callr .. =>
          let v := s + (w % 65536 : Nat)
          some ⟨16, if o.callable v then some v else none⟩
        | _ => none
      | _ => none
    match f with
    | some ⟨n, some v⟩ => if r.off % 4 = 0 && r.off + 4 ≤ x.data.length then some (patch x.data r.off 4 (putField w n v)) else none
    | _ => none

/-- What a word of an LIW is to a relocation (R36, R54): a branch-target word, the long immediate of a bank A move to a port, or
another long immediate. -/
inductive NativeField where
  | target
  | long (port : Nat)
  | lanes
  deriving DecidableEq, Repr

/-- The field that word `k` of an LIW is, if a relocation may patch it (R36, R54). -/
def nativeField (l : Liw) (k : Nat) : Option NativeField :=
  let first := 2 + (if l.hasB then 1 else 0) + l.moves.length
  if k < first then none
  else if k < first + l.targets.length then some .target
  else (((liwBusMoves l).filter fun x => isLong x.2.mv)[k - first - l.targets.length]?).map fun x =>
    if x.1 < 32 then .long x.2.dst.toNat else .lanes

/-- An address is an LIW start of the section at hand, or of a module that is linked already: of its native section, or the first LIW
of a bundle's translation (R54, R312). -/
def relocStart (c : Ctx) (base : Nat) (starts : List Nat) (v : Int) : Bool :=
  starts.any (fun a => ((base + a : Nat) : Int) = v) || (0 ≤ v && c.modules.any fun m => m.isStart (BitVec.ofInt 64 v) || m.isBundle (BitVec.ofInt 64 v))

/-- A relocation in native text (R54): a branch-target word or a long immediate. A target word, and a long immediate that goes to
BR, CALL or LOOP's operand, is relative to its LIW; one that goes to JMP is an address (log 54). A long immediate that goes elsewhere is
no transfer target to kind 4, whatever later becomes of it (log 57). -/
def relocNative (c : Ctx) (o : CodeObject) (x : Section) (r : Reloc) (s : Int) : Option (List Byte) :=
  match sectionLiws x with
  | none => none
  | some ls =>
    let at_ := ls.foldl (fun m a => if a.1 ≤ r.off then max m a.1 else m) 0
    let w := byteField x.data r.off 4
    let v := s + signedField w 32
    let rel := v - (o.addr x + at_ : Nat)
    let here := relocStart c (o.addr x) (ls.map Prod.fst) v
    let target : Int → Option Int := fun n => if fits (-(2 ^ 31)) (2 ^ 31 - 1) n && n % 4 = 0 && here then some n else none
    let fld := if r.off % 4 = 0 then (ls.find? fun a => a.1 = at_).bind fun a => nativeField a.2 ((r.off - at_) / 4) else none
    let val : Option Int := match r.kind, fld with
      | 4, some .target => target rel
      | 4, some (.long p) => if p = 69 then target v else if p = 68 || p = 70 || p = 64 then target rel else none
      | 5, some (.long p) => if p = 73 && o.callable v then some v else none
      | 6, some (.long _) => if fits (-(2 ^ 31)) (2 ^ 31 - 1) v then some v else none
      | 6, some .lanes => if fits (-(2 ^ 31)) (2 ^ 31 - 1) v then some v else none
      | _, _ => none
    match val with
    | some v => if r.off + 4 ≤ x.data.length then some (patch x.data r.off 4 (BitVec.ofInt 32 v).toNat) else none
    | none => none

/-- A relocation elsewhere (R54): a descriptor pointer in a .dword. -/
def relocData (x : Section) (r : Reloc) (s : Int) : Option (List Byte) :=
  let v := s + (byteField x.data r.off 8 : Nat)
  if r.kind = 6 && r.off + 8 ≤ x.data.length && 0 ≤ v && v < 2 ^ 56 then some (patch x.data r.off 8 v.toNat) else none

/-- Perform one relocation; `none` when it breaks R54 (R55), or names a symbol or section that does not resolve (log 57). A native section
that R47 will discard needs none. -/
def relocate (c : Ctx) (o : CodeObject) (r : Reloc) : Option CodeObject :=
  match o.secs[r.sec]?, resolve c o r.sym with
  | some x, some v =>
    let y : Option (List Byte) := match x.kind with
      | 1 => relocPeman o x r v
      | 2 => if x.tag ≠ 0x0009 || x.ver ≠ 1 || (sectionLiws x).isNone then some x.data else relocNative c o x r v
      | _ => relocData x r v
    y.map fun d => { o with secs := o.secs.set r.sec { x with data := d } }
  | _, _ => none

/-- Perform every relocation of an object (R55). -/
def relocateAll (c : Ctx) (o : CodeObject) : Option CodeObject :=
  o.relocs.foldl (fun (a : Option CodeObject) r => a.bind fun o => relocate c o r) (some o)

/-! ### Routines -/

/-- A routine record (R53). -/
structure Record where
  id     : Nat
  flags  : Nat
  cls    : Nat
  rsv    : Nat
  off    : Nat
  size   : Nat
  digest : BitVec 256
  deriving DecidableEq, Repr

/-- The routine records of an object. -/
def CodeObject.records (o : CodeObject) : List Record :=
  match o.find 3 with
  | none => []
  | some x => (List.range (x.data.length / 56)).map fun i =>
    let f : Nat → Nat → Nat := fun a n => byteField x.data (56 * i + a) n
    { id := f 0 2, flags := f 2 2, cls := f 4 2, rsv := f 6 2, off := f 8 8, size := f 16 8, digest := BitVec.ofNat 256 (f 24 32) }

/-- A routine is declared restart=entry (R53). -/
def Record.restart (r : Record) : Bool := r.flags.testBit 0

/-- The bundles of a body, 16 bytes each. -/
def bodyBundles (text : List Byte) (r : Record) : List (List Byte) :=
  groupsOf 16 (r.size / 16) ((text.drop r.off).take r.size)

/-- The operation in a slot of a bundle. -/
def slotAt (b : List Byte) (k : Nat) : Option Instr := decodeSlot (slotClass k) (BitVec.ofNat 32 (byteField b (4 * k) 4))

/-- The ID that a bundle's slot 0 calls with CALLR. -/
def calledId (b : List Byte) : Option Nat :=
  match slotAt b 0 with
  | some (.callr _ _ i) => some i.toNat
  | _ => none

/-- The routines of the object that a body calls, in order. -/
def callees (bs : List (List Byte)) : List Nat := (bs.filterMap calledId).filter fun i => i < 0xF000

/-- A bundle's slot 0 obeys R307 at position `i` of a body of `n` bundles. -/
def slotZeroOk (ids : List Nat) (n i : Nat) (b : List Byte) : Bool :=
  let inside : Int → Bool := fun t => 0 ≤ t && t < (n : Int)
  match slotAt b 0 with
  | some (.call ..) => false
  | some (.calli ..) => false
  | some (.jmp ..) => false
  | some (.endt ..) => false
  | some (.br _ o) => inside ((i : Int) + o.toInt)
  | some (.loop _ _ o) => inside ((i : Int) + (o.toNat : Int))
  | some (.callr _ _ j) => if j.toNat < 0xF000 then ids.contains j.toNat else (service? j.toNat).isSome
  | _ => true

/-- A body ends in an unguarded RET (R307). -/
def endsInRet (bs : List (List Byte)) : Bool :=
  match bs.getLast? with
  | some b => slotAt b 0 = some (.ret Gd.always)
  | none => false

/-- A body holds what a restart=entry body may not (R318). -/
def restartBad (rs : List Record) (b : List Byte) : Bool :=
  (match slotAt b 0 with
   | some (.trap ..) => true
   | some (.fmtset ..) => true
   | some (.callr _ _ j) => 0xF000 ≤ j.toNat || !(rs.any fun r => r.id = j.toNat && r.restart)
   | _ => false)
  || (match slotAt b 1 with
   | some (.ldg ..) => true
   | some (.stg ..) => true
   | some (.pref ..) => true
   | some (.atomAdd ..) => true
   | some (.atomMin ..) => true
   | some (.atomMax ..) => true
   | some (.atomOr ..) => true
   | some (.atomExch ..) => true
   | some (.atomCas ..) => true
   | some (.atomFadd ..) => true
   | some (.fence ..) => true
   | _ => false)

/-- A bundle as the canonical string has it (R308): the ID of a CALLR of a non-service ID is 0. -/
def canonBundle (b : List Byte) : List Byte :=
  match calledId b with
  | some i => if i < 0xF000 then patch b 0 2 0 else b
  | none => b

/-- The digest of a routine (R308), its callees' first; `none` when the fuel runs out, that is, on a cycle (R307). -/
def digestOf (text : List Byte) (rs : List Record) : Nat → Record → Option (List Byte)
  | 0, _ => none
  | n + 1, r =>
    let bs := bodyBundles text r
    let cs := callees bs
    let ds := cs.map fun i => (rs.find? fun x => x.id = i).bind (digestOf text rs n)
    if ds.any Option.isNone then none
    else some (sha256Bytes ([0x50, 0x4D, 0x52, 0x31] ++ natLe 2 r.cls ++ natLe 2 (if r.restart then 1 else 0)
      ++ natLe 4 bs.length ++ natLe 4 cs.length ++ bs.flatMap canonBundle ++ ds.flatMap fun d => d.getD []))

/-- A body holds a relocation of another kind than 5 (R307). -/
def bodyRelocated (o : CodeObject) (r : Record) : Bool :=
  o.relocs.any fun x => x.kind ≠ 5 && (match o.secs[x.sec]? with
    | some y => y.kind = 1 && r.off ≤ x.off && x.off < r.off + r.size
    | none => false)

/-- The library flag of an object (R52). -/
def CodeObject.library (o : CodeObject) : Bool := (byteField o.head 8 8).testBit 1

/-- An object may carry a routine ID: a program's own, or below 0x8000 a library's (R51, R322). -/
def idAllowed (o : CodeObject) (id : Nat) : Bool := id < 0xF000 && (0x8000 ≤ id || o.library)

/-- A routine record passes R51, R53, R307, R309 and R318. -/
def recordOk (o : CodeObject) (text : List Byte) (rs : List Record) (r : Record) : Bool :=
  let bs := bodyBundles text r
  r.rsv = 0 && idAllowed o r.id && r.off % 16 = 0 && r.size % 16 = 0 && r.size ≠ 0 && r.off + r.size ≤ text.length
    && ((List.range bs.length).zip bs).all (fun x => slotZeroOk (rs.map fun y => y.id) bs.length x.1 x.2)
    && endsInRet bs && !bodyRelocated o r && (!r.restart || !bs.any (restartBad rs))
    && (match digestOf text rs (rs.length + 1) r with
        | some d => BitVec.ofNat 256 (leNat d) = r.digest
        | none => false)

/-! ### Descriptors -/

/-- A function descriptor of an object (R110). -/
structure DescRec where
  entry : Nat
  cls   : Nat
  size  : Nat
  n     : Nat
  rsv   : Bool
  succ  : List Nat
  deriving DecidableEq, Repr

/-- The function descriptors of an object. -/
def CodeObject.descs (o : CodeObject) : List DescRec :=
  match o.find 4 with
  | none => []
  | some x => (List.range (x.data.length / 64)).map fun i =>
    let f : Nat → Nat → Nat := fun a n => byteField x.data (64 * i + a) n
    { entry := f 0 8, cls := f 16 2, size := f 18 1, n := f 19 1, rsv := f 20 4 ≠ 0 || f 56 8 ≠ 0,
      succ := (List.range (min (f 19 1) 8)).map fun j => f (24 + 4 * j) 4 }

/-- The scalar registers that a bundle names. -/
def bundleRegs (b : List Byte) : List Nat :=
  (List.range 4).flatMap fun k => match slotAt b k with
    | some i => (slotOf i).elim [] fun x => x.regs
    | none => []

/-- The scalar registers that an LIW names. -/
def liwRegs (l : Liw) : List Nat :=
  (liwBusMoves l).flatMap fun x =>
    let src := if x.2.mv.imm || isLong x.2.mv then [] else [x.2.mv.src.toNat]
    if x.1 < 32 then (x.2.dst.toNat :: src).filter fun p => p < 32
    else (src.map fun p => p % 128).filterMap fun p => if 32 ≤ p && p < 64 then some (p - 32) else none

/-- The registers that stand from an entry to the next boundary. -/
def namedFrom (entry : Nat) (stops : List Nat) (units : List (Nat × List Nat)) : List Nat :=
  let end_ := (stops.filter fun a => entry < a).foldl (fun (m : Option Nat) a => some (m.elim a (min a))) none
  (units.filter fun u => entry ≤ u.1 && (match end_ with
    | some e => u.1 < e
    | none => true)).flatMap fun u => u.2

/-- The bodies of an object name only registers of their frames, and its descriptors are in order (R110). `units` are the
addresses, as offsets in the object, of its bundles and LIWs with the registers they name. -/
def descsOk (ds : List DescRec) (stops : List Nat) (units : List (Nat × List Nat)) : Bool :=
  ds.all fun d => d.n ≤ 8 && !d.rsv && d.succ.all (fun j => j < ds.length)
    && (namedFrom d.entry stops units).all fun r => r ≤ 7 + d.size

/-! ### Linking -/

/-- The native entry of a descriptor (R17, R110): what its Peman entry names, unless the object has a native section that is linked
and that name lies in its Peman text. Which LIW of the section is meant then the spec does not say (log 25). -/
def nativeEntry (o : CodeObject) (liws : List (Nat × Liw)) (natAt pemAt pemLen i entry : Nat) : Nat :=
  let a := o.va + entry
  if pemAt ≤ a && a < pemAt + pemLen then
    match liws[Config.nativeEntry o.va i % liws.length]? with
    | some l => natAt + l.1
    | none => a
  else a

/-- A map of bytes that lie in a row. -/
def rowMap (a : Nat) (bs : List Byte) : Sparse 8 := (atAddr a bs).filter fun x => x.2 ≠ 0

/-- The two texts of a module by address. -/
def textMap (a : Nat) (p : List Byte) (b : Nat) (q : List Byte) : Sparse 8 :=
  if a + p.length ≤ b then rowMap a p ++ rowMap b q
  else if b + q.length ≤ a then rowMap b q ++ rowMap a p
  else writeBytes (rowMap a p) b q

/-- Bind a routine record (R313). -/
def bindRoutine (table : List SubstEntry) (base : Nat) (r : Record) : Routine :=
  let get : Bool → Option SubstEntry := fun near =>
    if r.restart then table.find? fun e => e.digest = r.digest && e.near = near else none
  { id := BitVec.ofNat 16 r.id, entry := BitVec.ofNat 64 (base + r.off), restart := r.restart, digest := r.digest,
    eq := get false, nearU := get true }

/-- Link an object whose format has passed (R114): relocations, the native section, descriptors and routines; the module with
number `id`, or the status of the rejection. A relocation entry with a reserved byte that is not 0 gives LOAD_FORMAT once every relocation
has succeeded; a text that stands at no multiple of 16, or of 4, is taken from its start on (log 57). -/
def linkObject (c : Ctx) (table : List SubstEntry) (id : Nat) (o0 : CodeObject) : Except Nat (CodeObject × Module) :=
  match relocateAll c o0 with
  | none => .error loadReloc
  | some o =>
    if o.relocs.any fun r => r.rsv ≠ 0 then .error loadFormat
    else
      let nat := (o.find 2).filter nativeOk
      let natAt := nat.elim 0 fun x => o.addr x
      let natBytes := nat.elim [] fun x => x.data
      let liws := (nat.bind sectionLiws).getD []
      let pem := o.find 1
      let pemAt := pem.elim 0 fun x => o.addr x
      let text := pem.elim [] fun x => x.data
      let rs := o.records
      let ds := o.descs
      let units := (liws.map fun p => (natAt - o.va + p.1, liwRegs p.2))
        ++ ((List.range (text.length / 16)).zip (groupsOf 16 (text.length / 16) text)).map fun p =>
          (pemAt - o.va + 16 * p.1, bundleRegs p.2)
      let bounds := rs.flatMap (fun r => [pemAt - o.va + r.off, pemAt - o.va + r.off + r.size])
        ++ [natAt - o.va, natAt - o.va + natBytes.length, pemAt - o.va, pemAt - o.va + text.length]
      if !descsOk ds ((ds.map fun d => d.entry) ++ bounds) units then .error loadFormat
      else if !rs.all (recordOk o text rs) then .error loadFormat
      else
        let descAt : Nat → Word := fun i => BitVec.ofNat 64 ((o.find 4).elim 0 (fun x => o.addr x) + 64 * i)
        .ok (o,
          { id := id, live := false, unload := false, native := (BitVec.ofNat 64 natAt, natBytes.length),
            peman := (BitVec.ofNat 64 pemAt, text.length), text := textMap natAt natBytes pemAt text,
            starts := liws.map fun p => BitVec.ofNat 64 (natAt + p.1),
            exports := o.symbols.filterMap fun y => if y.glob then (o.valueOf y).map fun v => (y.name, BitVec.ofNat 64 v) else none,
            descs := ((List.range ds.length).zip ds).map fun p =>
              { addr := descAt p.1, entry := BitVec.ofNat 64 (nativeEntry o liws natAt pemAt text.length p.1 p.2.entry), cls := BitVec.ofNat 16 p.2.cls,
                succ := p.2.succ.map descAt },
            routines := rs.map (bindRoutine table pemAt) })

/-- The Stitcher writes bytes of an object in place (log 25). -/
def placeBytes (s : State) (c : Ctx) (va : Nat) (bs : List Byte) : State :=
  match ctxRanges s c va bs.length .read with
  | .ok rs => { s with mem := agentWrite s.health (agentWalked s c [(va, bs.length)]) c.id (placeRanges rs bs) }
  | .error _ => s

/-- The relocated data of an object and the native entries of its descriptors are written in place (R110, R114). -/
def placeObject (s : State) (c : Ctx) (o : CodeObject) (m : Module) : State :=
  let s1 := (o.secs.filter fun x => x.kind = 4 || x.kind = 7 || x.kind = 8).foldl (fun (s : State) x =>
    placeBytes s c (o.addr x) x.data) s
  m.descs.foldl (fun (s : State) d => placeBytes s c (d.addr.toNat + 8) (natLe 8 d.entry.toNat)) s1

/-- A number that no module of a context has. -/
def Ctx.nextModule (c : Ctx) : Nat := c.modules.foldl (fun n m => max n (m.id + 1)) 1

/-- Hand an object to the Stitcher (R114): the module is linked and waits for its publication, or the LOAD ends in a status. -/
def loadObject (s : State) (c : Ctx) (va : Nat) : State × PacketWork :=
  match readObject s c va with
  | .error e => (s, .done e 0)
  | .ok o => match linkObject c s.board.table.2 c.nextModule o with
    | .error e => (s, .done e 0)
    | .ok (o', m) =>
      ((placeObject s c o' m).mapCtx c.id fun c => { c with modules := c.modules ++ [m] }, .loading m.id)

/-- LOAD (R114, R260). -/
def execLoad (cid : Nat) (s : State) : Host.Outcome State Fault Refusal :=
  .next (processPacket s cid 7 fun c bs => loadObject s c (byteField bs 16 8))

/-- MODULE_PUBLICATION (R114): a linked module's entries join the maps at one instant, and the LOAD's work is finished. -/
def execModulePublication (cid m : Nat) (s : State) : Host.Outcome State Fault Refusal :=
  .next (s.mapCtx cid fun c =>
    { c with modules := c.modules.map fun x => if x.id = m then { x with live := true } else x,
             packets := c.packets.map fun p => if p.work = .loading m then { p with work := .done 0 0 } else p })

/-- MODULE_UNLOAD_REQUEST (R115). -/
def execModuleUnloadRequest (cid m : Nat) (s : State) : Host.Outcome State Fault Refusal :=
  .next (s.mapCtx cid fun c =>
    { c with modules := c.modules.map fun x => if x.id = m && x.live then { x with unload := true } else x })

/-- The return addresses in the records of the spilled frames, as many as there are, downward from s2; `o` is the slide of the uppermost
record (R108, R109). -/
def spilledReturns (lm : Sparse 8) : Nat → Nat → Nat → List Word
  | 0, _, _ => []
  | n + 1, s2, o =>
    let a := s2 - (8 * o + 16)
    BitVec.ofNat 64 (readLe lm (a + 8 * o) 8) :: spilledReturns lm n a (readLe lm (a + 8 * o + 8) 1)

/-- The addresses by which a unit refers to code (R115). -/
def codeRefs (u : QUnit) : List Word :=
  let t := u.task
  [t.sq.pc] ++ (match u.trap with
    | some x => [x.2]
    | none => []) ++ t.fr.links.map (fun l => l.ret)
    ++ spilledReturns t.lmem t.fr.low t.s2.toNat (oldestLink t.fr.links).o
    ++ t.sq.loops.flatMap (fun l => [l.start, l.stop, l.after]) ++ t.sq.ilocks
    ++ (match t.restart with
        | some r => [r.pc]
        | none => [])

/-- An address, or the 128-byte line from it, meets a module's text. -/
def Module.meets (m : Module) (a : Word) : Bool :=
  m.holds a || (a.toNat % 128 = 0 && (overlap a.toNat 128 m.native.1.toNat m.native.2 || overlap a.toNat 128 m.peman.1.toNat m.peman.2))

/-- A task of the context holds a reference into a module (R115). -/
def referenced (s : State) (cid : Nat) (m : Module) : Bool :=
  (s.units.filter fun u => u.ctx = cid && !u.isFirmware).any fun u => (codeRefs u).any m.meets

/-- MODULE_REMOVE (R115). -/
def execModuleRemove (cid m : Nat) (s : State) : Host.Outcome State Fault Refusal :=
  match s.ctx? cid with
  | none => .next s
  | some c => match c.modules.find? fun x => x.id = m with
    | none => .next s
    | some x =>
      if !x.unload || referenced s cid x then .next s
      else .next (s.mapCtx cid fun c => { c with modules := c.modules.filter fun y => y.id ≠ m })

/-! ### The substitution table -/

/-- An entry of the table (R314). -/
def tableEntry (bs : List Byte) : SubstEntry :=
  let f : Nat → Nat → Nat := byteField bs
  { digest := BitVec.ofNat 256 (f 0 32), unit := BitVec.ofNat 16 (f 32 2), near := f 34 1 = 1, cver := BitVec.ofNat 16 (f 36 2),
    na := f 38 1, nr := f 39 1, eb := BitVec.ofNat 32 (f 40 4),
    ranges := (List.range 4).map fun i => BitVec.ofNat 32 (f (44 + 4 * i) 4) }

/-- The part implements a unit (R315). -/
def implemented (u : Nat) : Bool := 1 ≤ u && u ≤ 0xFFFE && ((unitEffect u).isSome || Config.hasUnit u)

/-- An entry is one that SYSTEM may install (R314, R315). -/
def entryOk (bs : List Byte) : Bool :=
  byteField bs 60 4 = 0 && byteField bs 34 1 ≤ 1 && byteField bs 35 1 = 1 && implemented (byteField bs 32 2)
    && (tableEntry bs).ranges.all fun d => d.extractLsb' 22 10 = 0 && !(d.getLsbD 20 && d.getLsbD 21)

/-- The pairs of digest and class rise strictly (R315). -/
def tableRises : List SubstEntry → Bool
  | a :: b :: r =>
    (a.digest.toNat < b.digest.toNat || (a.digest = b.digest && !a.near && b.near)) && tableRises (b :: r)
  | _ => true

/-- A table passes the conditions of R315 against the installed version. -/
def tableOk (installed : Nat) (bs : List Byte) : Bool :=
  let n := byteField bs 12 4
  let es := groupsOf 64 n (bs.drop 64)
  bs.length = 64 + 64 * n + 7856 && bs.take 4 = [0x42, 0x53, 0x54, 0x31] && byteField bs 4 2 = 1 && byteField bs 6 2 = 0x0009
    && installed < byteField bs 8 4 && n ≤ 4096 && byteField bs 24 40 = 0 && es.all entryOk && tableRises (es.map tableEntry)
    && Config.signatureOk (bs.take (64 + 64 * n)) (bs.drop (64 + 64 * n))

/-- SUBST_TABLE_INSTALL (R315): a table that fails a condition leaves the installed one in force. -/
def execSubstTableInstall (bytes : List Byte) (s : State) : Host.Outcome State Fault Refusal :=
  .next (if tableOk s.board.table.1 bytes then
    { s with board := { s.board with
      table := (byteField bytes 8 4, (groupsOf 64 (byteField bytes 12 4) (bytes.drop 64)).map tableEntry) } }
  else s)

end Sys2Proof.Machine
end

