-- ==== Sys2Proof/Machine/HostLink.lean ====
section
/-! DEFINITION. The host link, the energy budget, security and service (22_host_energy_system.md): a virtual function's
registers and doorbells (R354), transfers (R355), links and contexts (R353), TDISP (R357), intervals and grants (R360), key
slots (R366), measurements (R365), module reset (R364, R368), the thermal limit (R368) and partitions (R22). -/

namespace Sys2Proof.Machine

/-! ### Links and contexts -/

/-- The generation a link trains to, for the highest that the far end supports (R353). -/
def trainGen (far : Nat) : Option Nat := if far < 5 then none else some (min far 7)

/-- The width a link trains to, for the widest that the far end supports (R353). -/
def trainWidth (far : Nat) : Option Nat :=
  if 16 ≤ far then some 16 else if 8 ≤ far then some 8 else if 4 ≤ far then some 4 else none

/-- PCIE_LINK_TRAIN (R353): `gen` and `width` are the highest the far end supports (log 26). A link that fails to train
raises an alert (R368). -/
def execPcieLinkTrain (link gen width : Nat) (s : State) : Host.Outcome State Fault Refusal :=
  if 2 ≤ link then .next s
  else
    let rest := s.board.links.filter fun x => x.1 ≠ link
    match trainGen gen, trainWidth width with
    | some g, some w => .next (flushMsix { s with board := { s.board with links := (link, g, w) :: rest } })
    | _, _ => .next (raiseAlert { s with board := { s.board with links := rest } } "link failed to train")

/-- The rings of a virtual function at reset (R354). -/
def Rings.reset : Rings :=
  { cqBase := 0, cqSize := 0, cqHead := 0, cqTail := 0, evBase := 0, evSize := 0, evHead := 0, evTail := 0, evLost := 0,
    xfBase := 0, xfSize := 0, xfHead := 0, xfTail := 0, braidTab := 0 }

/-- A context as it is created, on the dies that are in service; the values the spec does not give are those of log 11. -/
def newCtx (id : Nat) (dies : List Nat) : Ctx :=
  { id := id, dies := dies, level := .dl0, ptroot := 0, tvec := 0, share := 1, served := 0, hadWork := false,
    energy := { grant := 0, nextGrant := 0, committed := 0, metered := 0, asked := false }, rings := Rings.reset, braid := none,
    launches := [], graphs := [], phases := [], jobs := [], serials := (0, 0, 0, 0), packets := [], modules := [], keys := [],
    rounds := [], resend := [], subs := [], nextMsg := 0, tdisp := false }

/-- The dies in service. -/
def healthyDies (s : State) : List Nat := (List.range 4).filter fun d => !s.health.badDies.contains d

/-- The partitions that R22 allows. -/
def partitions : List (List Nat) := [[0, 1, 2, 3], [0, 1], [2, 3], [0], [1], [2], [3]]

/-- See `partitions`. -/
def partitionOk (dies : List Nat) : Bool := partitions.contains dies

/-- The dies of a partition that are in service. -/
def inService (s : State) (dies : List Nat) : List Nat := dies.filter (healthyDies s).contains

/-- The partition a new context is put in: the first that no context's dies meet, else that of the first context (R22, log 11). -/
def firstPartition (s : State) : List Nat :=
  let free := (partitions.map (inService s)).find? fun p => !p.isEmpty && !s.ctxs.any fun c => c.dies.any p.contains
  free.getD ((s.ctxs.map fun c => c.dies).headD [])

/-- CONTEXT_CREATE (R353): refused while the context's link is not trained. -/
def execContextCreate (c : Nat) (s : State) : Host.Outcome State Fault Refusal :=
  .next (if 256 ≤ c || !linkTrained s (ctxLink c) || (s.ctx? c).isSome then s
    else { s with ctxs := s.ctxs ++ [newCtx c (firstPartition s)] })

/-- A context has work or units. -/
def ctxInUse (s : State) (c : Ctx) : Bool := !c.launches.isEmpty || s.units.any fun u => u.ctx = c.id && !u.isFirmware

/-- PARTITION_ASSIGNMENT (R22): to contexts that are not in use, and not across the partition of a further one: partitions hold
disjoint dies (R179, log 11). A retired die leaves the partition (R301). -/
def execPartitionAssignment (ctxs dies : List Nat) (s : State) : Host.Outcome State Fault Refusal :=
  let new := inService s dies
  let taken := s.ctxs.any fun c =>
    if ctxs.contains c.id then ctxInUse s c else c.dies.any new.contains && c.dies ≠ new
  .next (if !partitionOk dies || taken || !ctxs.all (fun c => (s.ctx? c).isSome) then s
    else { s with ctxs := s.ctxs.map fun c => if ctxs.contains c.id then { c with dies := new } else c })

/-! ### Registers of a virtual function -/

/-- Change a context's rings. -/
def State.mapRings (s : State) (c : Nat) (f : Rings → Rings) : State := s.mapCtx c fun x => { x with rings := f x.rings }

/-- The host's request changes a context's rings; an unprotected request to an interface in RUN is refused (R357). -/
def State.hostRings (s : State) (c : Nat) (f : Rings → Rings) : State := if s.unprotected c then s else s.mapRings c f

/-- CQ_DOORBELL (R354): a value that is not below the ring's size is ignored. -/
def execCqDoorbell (c : Nat) (tail : BitVec 32) (s : State) : Host.Outcome State Fault Refusal :=
  .next (s.hostRings c fun r => if r.cqSize ≤ tail.toNat then r else { r with cqTail := tail.toNat })

/-- XFER_DOORBELL (R354). -/
def execXferDoorbell (c : Nat) (tail : BitVec 32) (s : State) : Host.Outcome State Fault Refusal :=
  .next (s.hostRings c fun r => if r.xfSize ≤ tail.toNat then r else { r with xfTail := tail.toNat })

/-- A ring size that R354 allows. -/
def ringSizeOk (n : Nat) : Bool := ((List.range 13).map fun i => 2 ^ (i + 4)).contains n

/-- A write to a register of the block (R354). A base or size is ignored while its ring is not empty; a value the register
cannot hold is ignored, and an index stays below a new size (DESIGN CHOICE, log 31). -/
def writeVfRegister (off : Nat) (v : Word) (r : Rings) : Rings :=
  let n := (v.extractLsb' 0 32).toNat
  let page := v.extractLsb' 0 12 = 0
  match off with
  | 0x000 => if r.cqHead = r.cqTail && page then { r with cqBase := v } else r
  | 0x008 => if r.cqHead = r.cqTail && ringSizeOk n then { r with cqSize := n, cqHead := r.cqHead % n, cqTail := r.cqTail % n } else r
  | 0x010 => if r.evHead = r.evTail then { r with evBase := v } else r
  | 0x018 => if r.evHead = r.evTail && ringSizeOk n then { r with evSize := n, evHead := r.evHead % n, evTail := r.evTail % n } else r
  | 0x01C => if n < r.evSize then { r with evHead := n } else r
  | 0x028 => { r with braidTab := v }
  | 0x030 => if r.xfHead = r.xfTail && page then { r with xfBase := v } else r
  | 0x040 => if r.xfHead = r.xfTail && ringSizeOk n then { r with xfSize := n, xfHead := r.xfHead % n, xfTail := r.xfTail % n } else r
  | _ => r

/-- VF_REGISTER_WRITE (R354). -/
def execVfRegisterWrite (c off : Nat) (v : Word) (s : State) : Host.Outcome State Fault Refusal :=
  .next (s.hostRings c (writeVfRegister off v))

/-- What the host reads in a register of the block (R6, R354): 0 where it is write-only, and where none stands. -/
def readVfRegister (off : Nat) (r : Rings) : Word :=
  match off with
  | 0x000 => r.cqBase
  | 0x008 => BitVec.ofNat 64 r.cqSize
  | 0x010 => r.evBase
  | 0x018 => BitVec.ofNat 64 r.evSize
  | 0x01C => BitVec.ofNat 64 r.evHead
  | 0x020 => BitVec.ofNat 64 r.evTail
  | 0x024 => BitVec.ofNat 64 (r.evLost % 2 ^ 32)
  | 0x028 => r.braidTab
  | 0x030 => r.xfBase
  | 0x040 => BitVec.ofNat 64 r.xfSize
  | 0x044 => BitVec.ofNat 64 r.xfHead
  | _ => 0

/-! ### Braid tables -/

/-- Cut `n` records of `k` bytes from a table of a context; none where it cannot be read. -/
def tableRows (s : State) (c : Ctx) (va k n : Nat) : List (Nat × List Byte) :=
  match ctxRead s c va (k * n) with
  | .ok bs => (List.range n).zip (groupsOf k n bs)
  | .error _ => []

/-- A window of the windows table; its layout is the model's (DESIGN CHOICE, log 32). -/
def windowRow (x : Nat × List Byte) : Option (Nat × Window) :=
  match byteField x.2 0 4 % 4 with
  | 1 => some (x.1, .region (BitVec.ofNat 64 (byteField x.2 8 8)) (byteField x.2 16 8))
  | 2 => some (x.1, .queue (byteField x.2 8 4) (byteField x.2 12 4))
  | _ => none

/-- A group of the groups table (log 32), with the ranks its DEVICE list holds. -/
def groupRow (s : State) (c : Ctx) (x : Nat × List Byte) : Option (Nat × List Nat) :=
  let n := byteField x.2 0 4
  if n < 2 || 16384 < n then none
  else some (x.1, (tableRows s c (byteField x.2 8 8) 4 n).map fun y => leNat y.2)

/-- An entry of the shard map (log 32). -/
def shardRow (x : Nat × List Byte) : Option ShardMap :=
  let f := byteField x.2
  if f 12 4 = 0 then none else some { sid := f 0 4, pri := f 4 4, mir := f 8 4, b := f 12 4, e := f 16 4 }

/-- A shard that a registered descriptor makes this package serve (R340); one that it serves already goes on as it stands. -/
def servedRow (s : State) (c : Ctx) (own : Nat) (x : Nat × List Byte) : Option Shard :=
  let f := byteField x.2
  let d := BitVec.ofNat 64 (f 24 8)
  if f 12 4 = 0 || d = 0 then none
  else match s.served? c.id (f 0 4) with
    | some n => if n.desc = d then some n else none
    | none => some { ctx := c.id, sid := f 0 4, desc := d, mirror := f 4 4 ≠ own, held := [], started := [], done := [], confirmed := [],
                     hyp := [], refused := [], outs := [], subs := [] }

/-- Register the tables that BRAID_TAB names (R328, R354); nothing where the set-up block cannot be read. -/
def registerBraid (s : State) (c : Ctx) : State :=
  match ctxRead s c c.rings.braidTab.toNat 40 with
  | .error _ => s
  | .ok bs =>
    let f := byteField bs
    let own := f 0 4
    let shardRows := tableRows s c (f 32 8) 32 4096
    let tab : BraidTab := {
      rank := own, ranks := f 4 4, pkgOf := (tableRows s c (f 8 8) 4 (min (f 4 4) 16384)).map fun x => leNat x.2,
      windows := (tableRows s c (f 16 8) 32 256).filterMap windowRow,
      groups := (tableRows s c (f 24 8) 16 256).filterMap (groupRow s c),
      shards := shardRows.filterMap shardRow }
    let served := shardRows.filterMap (servedRow s c own)
    let s1 := s.mapCtx c.id fun c => { c with braid := some tab }
    { s1 with fabric := { s1.fabric with shards := (s1.fabric.shards.filter fun n => n.ctx ≠ c.id) ++ served } }

/-- BRAID_COMMIT (R354): writing 1 registers the tables. -/
def execBraidCommit (c : Nat) (v : BitVec 32) (s : State) : Host.Outcome State Fault Refusal :=
  match s.ctx? c with
  | none => .next s
  | some x => .next (if v = 1 && !s.unprotected c then registerBraid s x else s)

/-! ### Transfers -/

/-- The transfer descriptor that the device takes next (R354, R355). -/
def nextTransfer (s : State) (c : Ctx) : Option (List Byte) :=
  if c.rings.xfSize = 0 || c.rings.xfHead = c.rings.xfTail || !s.hostReady c.id then none
  else match ctxRead s c (c.rings.xfBase.toNat + 32 * c.rings.xfHead) 32 with
    | .ok bs => some bs
    | .error _ => none

/-- Move the bytes of a transfer whose checks have passed (R355): `rs` are the DPA ranges of its DEVICE side, which starts at `va`. -/
def moveTransfer (s : State) (c : Ctx) (iova va n : Nat) (toHost : Bool) (rs : List (Nat × Nat)) : State :=
  let m := agentWalked s c [(va, n)]
  if toHost then
    { s with board := { s.board with host := writeBytes s.board.host iova (homeRanges s.mem rs) },
             mem := agentTouch s.health m c.id rs }
  else { s with mem := agentWrite s.health m c.id (placeRanges rs (readBytes s.board.host iova n)) }

/-- A transfer descriptor performed whole: the state and its STATUS (R355). -/
def performTransfer (s : State) (c : Ctx) (bs : List Byte) (iovaOk : Bool) : State × Nat :=
  let f := byteField bs
  let n := f 16 4
  let toHost := f 20 4 = 1
  if n % 4 ≠ 0 || n < 4 || 2 ^ 24 < n || 1 < f 20 4 then (s, 0x10)
  else match ctxRanges s c (f 8 8) n (if toHost then .read else .write) with
    | .error _ => (s, 0x13)
    | .ok rs => if iovaOk then (moveTransfer s c (f 0 8) (f 8 8) n toHost rs, 0) else (s, 0x13)

/-- TRANSFER_DESCRIPTOR (R355): the next descriptor of the ring; `iovaOk` is what ATS answers for its host pages (log 21). A
misaligned CPL moves nothing and writes no completion word. -/
def execTransferDescriptor (c : Nat) (iovaOk : Bool) (s : State) : Host.Outcome State Fault Refusal :=
  match s.ctx? c with
  | none => .next s
  | some x => match nextTransfer s x with
    | none => .next s
    | some bs =>
      let cpl := byteField bs 24 8
      let r := if cpl % 8 ≠ 0 then (s, 0) else performTransfer s x bs iovaOk
      let s1 := if cpl % 8 ≠ 0 then r.1 else writeWord r.1 x cpl r.2
      .next (s1.mapRings c fun r => { r with xfHead := (r.xfHead + 1) % r.xfSize })

/-! ### TDISP and key slots -/

/-- The indices of the entries of a table that hold a byte which is not 0. -/
def tableIndices (m : Memory) (base n : Nat) : List Nat :=
  (((m.view (dpaDie base)).filter fun x => base ≤ x.1 && x.1 < base + 8 * n).map fun x => (x.1 - base) / 8).eraseDups

/-- A context holds a page under a key slot: some address whose first entry is listed walks to a leaf that names it (R210,
R213). -/
def holdsPage (m : Memory) (c : Ctx) (slot : Nat) : Bool :=
  let at_ : Nat → Bool := fun va => match walk m c va with
    | some e => (e.1.extractLsb' 56 8).toNat = slot
    | none => false
  let root := (c.ptroot.extractLsb' 21 19).toNat * 2 ^ 21
  (tableIndices m root (2 ^ 18)).any fun i =>
    let t2 := pteAddr (BitVec.ofNat 64 (homeLe m (root + 8 * i) 8))
    (tableIndices m t2 (2 ^ 13)).any fun j =>
      let va := 2 ^ 38 * i + 2 ^ 25 * j
      let t3 := pteAddr (BitVec.ofNat 64 (homeLe m (t2 + 8 * j) 8))
      at_ va || (tableIndices m t3 (2 ^ 9)).any fun k => at_ (va + 2 ^ 16 * k)

/-- Clear a key slot (R366): every context that holds a page under it is terminated first. -/
def clearSlot (s : State) (slot : Nat) : State :=
  let s1 := (s.ctxs.filter fun c => holdsPage s.mem c slot).foldl (fun (s : State) (c : Ctx) => endContext s c.id) s
  { s1 with board := { s1.board with slots := s1.board.slots.filter fun k => k ≠ slot },
            ctxs := s1.ctxs.map fun c => { c with keys := c.keys.filter fun k => k ≠ slot } }

/-- KEY_SLOT_CLEAR (R366). -/
def execKeySlotClear (slot : BitVec 8) (s : State) : Host.Outcome State Fault Refusal := .next (clearSlot s slot.toNat)

/-- A grant would share a key slot of some context in RUN with another one (R357). -/
def slotReserved (s : State) (slot : Nat) (ctxs : List Nat) : Bool :=
  s.ctxs.any fun c => c.tdisp && (c.keys.contains slot || ctxs.contains c.id) && ctxs.any fun x => x ≠ c.id

/-- KEY_SLOT_LOAD (R213, R366): the slot is loaded and granted to the contexts named; not past a context in RUN (R357) (log 56). -/
def execKeySlotLoad (slot : BitVec 8) (ctxs : List Nat) (s : State) : Host.Outcome State Fault Refusal :=
  let k := slot.toNat
  .next (if slotReserved s k ctxs then s
    else
      { s with board := { s.board with slots := k :: s.board.slots.filter fun x => x ≠ k },
               ctxs := s.ctxs.map fun c =>
                 let rest := c.keys.filter fun x => x ≠ k
                 { c with keys := if ctxs.contains c.id then k :: rest else rest } })

/-- A key slot of a context is granted to another one. -/
def sharesSlot (s : State) (c : Ctx) : Bool := s.ctxs.any fun x => x.id ≠ c.id && x.keys.any c.keys.contains

/-- TDISP_ENTER_RUN (R357): refused while a key slot of the context is shared (DESIGN CHOICE, log 33). -/
def execTdispEnterRun (c : Nat) (s : State) : Host.Outcome State Fault Refusal :=
  match s.ctx? c with
  | none => .next s
  | some x => .next (if sharesSlot s x then s else s.mapCtx c fun x => { x with tdisp := true })

/-- TDISP_LEAVE_RUN (R357): every unit of the context is terminated under R290, its key slots are cleared. -/
def execTdispLeaveRun (c : Nat) (s : State) : Host.Outcome State Fault Refusal :=
  match s.ctx? c with
  | none => .next s
  | some x =>
    if !x.tdisp then .next s
    else
      .next ((x.keys.foldl clearSlot (endUnits s c)).mapCtx c fun x => { x with tdisp := false })

/-! ### Measurements -/

/-- The bytes of a firmware image as it stands. -/
def firmwareBytes (s : State) : List Byte :=
  readBytes s.board.fwText 0 (s.board.fwText.foldl (fun n x => max n (x.1 + 1)) 0)

/-- A link carries an IDE stream (R357). -/
def linkIde (s : State) (link : Nat) : Bool := s.board.ide.any fun c => ctxLink c = link

/-- The measurements of R365: firmware, table version, Stitcher, IDE state of each trained link. -/
def measurements (s : State) : List Byte :=
  sha256Bytes (firmwareBytes s) ++ natLe 4 s.board.table.1 ++ natLe 32 Config.stitcherHash.toNat
    ++ s.board.links.flatMap fun x => natLe 1 x.1 ++ natLe 1 (if linkIde s x.1 then 1 else 0)

/-- SPDM_REQUEST (R365, R367): the answer is the version in use and the measurements, signed with the request's nonce (its packing
is the model's, log 17). -/
def execSpdmRequest (nonce : Word) (s : State) : Host.Outcome State Fault Refusal :=
  let m := natLe 1 s.board.spdm ++ measurements s
  .next { s with board := { s.board with
    reports := s.board.reports ++ [Report.spdm (m ++ Config.deviceSign (m ++ natLe 8 nonce.toNat))] } }

/-! ### Requests of the host beside the opcode table (log 5) -/

/-- The runtime writes a supervisor register of its context, under the checks that a CSRW makes (R279, R294). -/
def setSupervisor (csr : Nat) (v : Word) (c : Ctx) : Ctx :=
  match csr with
  | 0x011 => if ptrootOk v then { c with ptroot := v } else c
  | 0x012 => { c with tvec := v }
  | _ => c

/-- A register that the runtime of a context reads at SUPERVISOR (R279, R294). -/
def Ctx.supervisor (h : Health) (c : Ctx) (csr : Nat) : Word :=
  match csr with
  | 0x011 => c.ptroot
  | 0x012 => c.tvec
  | 0x100 => healthWord h
  | _ => 0

/-- A write of the host agent to DEVICE memory (R233, R356); one that the context's table refuses is dropped. -/
def hostWrite (s : State) (c : Ctx) (va : Word) (bs : List Byte) : State :=
  match ctxStore s c [] va.toNat bs with
  | none => s
  | some p => { p.1 with board := { p.1.board with hostWrites :=
      (s.board.hostWrites.filter fun x => p.1.mem.writes.any fun w => w.id = x.2) ++ p.2.map fun i => (c.id, i) } }

/-- A read of the host agent (R233); one that the context's table refuses answers nothing. -/
def hostRead (s : State) (c : Ctx) (va : Word) (n : Nat) : State :=
  match ctxRead s c va.toNat n with
  | .ok bs => (ctxTouch s c va.toNat n).report (.data c.id bs)
  | .error _ => s

/-- The host's writes that came over the link of a context are applied at SYS scope (R356). -/
def hostApplied (s : State) (c : Nat) : Bool :=
  s.board.hostWrites.all fun x => ctxLink x.1 ≠ ctxLink c || !s.mem.writes.any fun w => w.id = x.2

/-- SYSTEM's scheduler starts a firmware procedure on a system core that runs nothing (R303, log 20). -/
def startFirmware (s : State) (core : Nat) (entry : Word) : State :=
  if s.board.sysDown.contains core || s.firmwareOn core || !s.board.fwStarts.contains entry || !isSystemCore core then s
  else { s with parked := s.parked ++ [{ QUnit.reset with uid := s.nextUid, core := core, kind := .firmware, priv := .system,
                                                          task := firmwareTask entry (fwLocalOf s core) }],
                nextUid := s.nextUid + 1 }

/-- A request for a context; an unprotected one to an interface in RUN is refused (R357). -/
def State.forCtx (s : State) (c : Nat) (f : Ctx → State) : State :=
  match s.ctx? c with
  | none => s
  | some x => if s.unprotected c then s else f x

/-- What a request of the host does. -/
def hostOp (o : HostOp) (s : State) : State :=
  match o with
  | .readRegister c off => s.forCtx c fun x => s.report (.register c off (readVfRegister off x.rings))
  | .writeDevice c va bs => s.forCtx c fun x => hostWrite s x va bs
  | .readDevice c va n => s.forCtx c fun x => hostRead s x va n
  | .setSupervisor c csr v => s.forCtx c fun _ => s.mapCtx c (setSupervisor csr v)
  | .readSupervisor c csr => s.forCtx c fun x => s.report (.supervisor c csr (x.supervisor s.health csr))
  | .ideUp c => if linkTrained s (ctxLink c) then flushMsix { s with board := { s.board with ide := c :: s.board.ide.filter fun x => x ≠ c } } else s
  | .ideDown c => { s with board := { s.board with ide := s.board.ide.filter fun x => x ≠ c } }
  | .spdmVersion v => if v < 12 then s else { s with board := { s.board with spdm := min v 13 } }
  | .firmware core entry => startFirmware s core entry
  | .tlbi c va all => s.forCtx c fun _ => s.dropTlb c all va.toNat
  | .readModule => { s.report (.module (healthWord s.health) (s.board.celsius.getD (Config.celsius s.tick)) (Config.watts s.tick % 2401))
      with tick := s.tick + 1 }

/-! ### The energy budget -/

/-- ENERGY_INTERVAL (R360): K and E are reset, new grants take effect. -/
def execEnergyInterval (s : State) : Host.Outcome State Fault Refusal :=
  .next { s with
    board := { s.board with interval := s.gcyc / 1600000 },
    ctxs := s.ctxs.map fun c => { c with energy := { c.energy with committed := 0, metered := 0, grant := c.energy.nextGrant } } }

/-- The grants' sum with a context's new one. -/
def grantSum (s : State) (cid g : Nat) : Nat :=
  s.ctxs.foldl (fun n c => n + (if c.id = cid then g else c.energy.nextGrant)) 0

/-- GRANT_SET (R360, R363): refused when the grants' sum exceeds the budget; a share is 1 through 65,535 (R266). -/
def execGrantSet (c g w : Nat) (s : State) : Host.Outcome State Fault Refusal :=
  .next (if s.board.budget < grantSum s c g || w = 0 || 65535 < w then s
    else s.mapCtx c fun x => { x with share := w, energy := { x.energy with nextGrant := g, asked := false } })

/-- BUDGET_SET (R360): management may set the budget at or below its default. -/
def execBudgetSet (b : Nat) (s : State) : Host.Outcome State Fault Refusal :=
  .next (if b ≤ 2250000 then { s with board := { s.board with budget := b } } else s)

/-- THERMAL_LIMIT (R368): above 105 °C the budget is lowered, at 115 °C the module stops and raises an alert. -/
def execThermalLimit (celsius budget : Nat) (s : State) : Host.Outcome State Fault Refusal :=
  let s0 : State := { s with board := { s.board with celsius := some celsius } }
  let s1 : State := if 105 < celsius then { s0 with board := { s0.board with budget := min s.board.budget budget } } else s0
  .next (if 115 ≤ celsius then raiseAlert { s1 with board := { s1.board with stopped := true } } "thermal stop" else s1)

/-! ### Module reset -/

/-- The boot ROM accepts a firmware image (R364). -/
def imageOk (x : FwImage) : Bool :=
  x.keyHash = Config.fusedKeyHash && Config.signatureOk x.bytes x.signature && Config.fusedRollback ≤ x.version

/-- The LIW starts of a firmware image: the LIWs of its bytes from 8 upward, up to the first that does not decode (log 20). -/
def imageStarts (bs : List Byte) : List Word :=
  match decodeAll (bs.length / 8 + 1) 8 (bs.drop 8) with
  | some ls => ls.map fun x => BitVec.ofNat 64 x.1
  | none => []

/-- MODULE_RESET (R13, R364, R368): every register goes to its reset value, the repair map is kept; the firmware stands in the
system cores' scratchpads when the boot ROM accepts every image, and the module is left in recovery otherwise. -/
def execModuleReset (images : List FwImage) (s : State) : Host.Outcome State Fault Refusal :=
  let bytes := images.flatMap fun x => x.bytes
  let r := State.reset
  let s1 : State := { r with health := { r.health with repairs := s.health.repairs }, tick := s.tick, inbox := s.inbox }
  let lm : Sparse 8 := writeBytes [] 0 bytes
  .next (if images.all imageOk then
    { s1 with board := { s1.board with
      fwText := lm, fwStarts := imageStarts bytes,
      fwLocal := ((List.range 4).flatMap fun d => [systemCore d, systemCore d + 1]).map fun k => (k, lm) } }
  else { s1 with board := { s1.board with recovery := true } })

end Sys2Proof.Machine
end

