-- ==== Sys2Proof/Machine/Dispatch.lean ====
section
/-! DEFINITION. The dispatch: one arm per instruction or step of the opcode table, each a direct call of its meaning. -/

namespace Sys2Proof.Machine

/-- The meaning of an instruction or step. -/
def exec (i : Instr) (s : State) : Host.Outcome State Fault Refusal :=
  match i with
  | .liwIssue l => Sys2Proof.Machine.execLiwIssue l s
  | .nop => Sys2Proof.Machine.execNop s
  | .add g d a b => Sys2Proof.Machine.execAdd g d a b s
  | .addI g d a im => Sys2Proof.Machine.execAddI g d a im s
  | .sub g d a b => Sys2Proof.Machine.execSub g d a b s
  | .mul g d a b => Sys2Proof.Machine.execMul g d a b s
  | .mulh g d a b u => Sys2Proof.Machine.execMulh g d a b u s
  | .div g d a b u => Sys2Proof.Machine.execDiv g d a b u s
  | .rem g d a b u => Sys2Proof.Machine.execRem g d a b u s
  | .and g d a b => Sys2Proof.Machine.execAnd g d a b s
  | .andI g d a im => Sys2Proof.Machine.execAndI g d a im s
  | .or g d a b => Sys2Proof.Machine.execOr g d a b s
  | .orI g d a im => Sys2Proof.Machine.execOrI g d a im s
  | .xor g d a b => Sys2Proof.Machine.execXor g d a b s
  | .xorI g d a im => Sys2Proof.Machine.execXorI g d a im s
  | .andn g d a b => Sys2Proof.Machine.execAndn g d a b s
  | .shl g d a b => Sys2Proof.Machine.execShl g d a b s
  | .shlI g d a im => Sys2Proof.Machine.execShlI g d a im s
  | .shr g d a b => Sys2Proof.Machine.execShr g d a b s
  | .shrI g d a im => Sys2Proof.Machine.execShrI g d a im s
  | .sar g d a b => Sys2Proof.Machine.execSar g d a b s
  | .sarI g d a im => Sys2Proof.Machine.execSarI g d a im s
  | .rol g d a b => Sys2Proof.Machine.execRol g d a b s
  | .rolI g d a im => Sys2Proof.Machine.execRolI g d a im s
  | .min g d a b u => Sys2Proof.Machine.execMin g d a b u s
  | .max g d a b u => Sys2Proof.Machine.execMax g d a b u s
  | .clz g d a => Sys2Proof.Machine.execClz g d a s
  | .popc g d a => Sys2Proof.Machine.execPopc g d a s
  | .bfx g d a b x => Sys2Proof.Machine.execBfx g d a b x s
  | .bfi g d a b => Sys2Proof.Machine.execBfi g d a b s
  | .sel g d a b p => Sys2Proof.Machine.execSel g d a b p s
  | .mov g d a => Sys2Proof.Machine.execMov g d a s
  | .movi g d im => Sys2Proof.Machine.execMovi g d im s
  | .movk g d im => Sys2Proof.Machine.execMovk g d im s
  | .cmp g p a b c => Sys2Proof.Machine.execCmp g p a b c s
  | .pand g d a b y x => Sys2Proof.Machine.execPand g d a b y x s
  | .por g d a b y x => Sys2Proof.Machine.execPor g d a b y x s
  | .pxor g d a b y x => Sys2Proof.Machine.execPxor g d a b y x s
  | .pmov g d a x => Sys2Proof.Machine.execPmov g d a x s
  | .fadd g d a b => Sys2Proof.Machine.execFadd g d a b s
  | .fsub g d a b => Sys2Proof.Machine.execFsub g d a b s
  | .fmul g d a b => Sys2Proof.Machine.execFmul g d a b s
  | .ffma g d a b => Sys2Proof.Machine.execFfma g d a b s
  | .fmin g d a b => Sys2Proof.Machine.execFmin g d a b s
  | .fmax g d a b => Sys2Proof.Machine.execFmax g d a b s
  | .fcvt g d a t sc => Sys2Proof.Machine.execFcvt g d a t sc s
  | .fcmp g p a b c => Sys2Proof.Machine.execFcmp g p a b c s
  | .ldB g d b im => Sys2Proof.Machine.execLdB g d b im s
  | .ldH g d b im => Sys2Proof.Machine.execLdH g d b im s
  | .ldW g d b im => Sys2Proof.Machine.execLdW g d b im s
  | .ldD g d b im => Sys2Proof.Machine.execLdD g d b im s
  | .ldSb g d b im => Sys2Proof.Machine.execLdSb g d b im s
  | .ldSh g d b im => Sys2Proof.Machine.execLdSh g d b im s
  | .ldSw g d b im => Sys2Proof.Machine.execLdSw g d b im s
  | .stB g d b im => Sys2Proof.Machine.execStB g d b im s
  | .stH g d b im => Sys2Proof.Machine.execStH g d b im s
  | .stW g d b im => Sys2Proof.Machine.execStW g d b im s
  | .stD g d b im => Sys2Proof.Machine.execStD g d b im s
  | .vld g v b im => Sys2Proof.Machine.execVld g v b im s
  | .vst g v b im => Sys2Proof.Machine.execVst g v b im s
  | .ldg g d b r im => Sys2Proof.Machine.execLdg g d b r im s
  | .ldgNative r m => Sys2Proof.Machine.execLdgNative r m s
  | .stg g d b im => Sys2Proof.Machine.execStg g d b im s
  | .stgNative m => Sys2Proof.Machine.execStgNative m s
  | .pref g b r im => Sys2Proof.Machine.execPref g b r im s
  | .atomAdd g d a b => Sys2Proof.Machine.execAtomAdd g d a b s
  | .atomMin g d a b => Sys2Proof.Machine.execAtomMin g d a b s
  | .atomMax g d a b => Sys2Proof.Machine.execAtomMax g d a b s
  | .atomOr g d a b => Sys2Proof.Machine.execAtomOr g d a b s
  | .atomExch g d a b => Sys2Proof.Machine.execAtomExch g d a b s
  | .atomCas g d a b => Sys2Proof.Machine.execAtomCas g d a b s
  | .atomFadd g d a b => Sys2Proof.Machine.execAtomFadd g d a b s
  | .fence g sc => Sys2Proof.Machine.execFence g sc s
  | .fenceNative r m => Sys2Proof.Machine.execFenceNative r m s
  | .br g o => Sys2Proof.Machine.execBr g o s
  | .brNative m => Sys2Proof.Machine.execBrNative m s
  | .jmp g a => Sys2Proof.Machine.execJmp g a s
  | .jmpNative m => Sys2Proof.Machine.execJmpNative m s
  | .call g o f => Sys2Proof.Machine.execCall g o f s
  | .callNative m => Sys2Proof.Machine.execCallNative m s
  | .calli g o a b => Sys2Proof.Machine.execCalli g o a b s
  | .calliNative m => Sys2Proof.Machine.execCalliNative m s
  | .callr g o im => Sys2Proof.Machine.execCallr g o im s
  | .callrNative m => Sys2Proof.Machine.execCallrNative m s
  | .ret g => Sys2Proof.Machine.execRet g s
  | .retNative m => Sys2Proof.Machine.execRetNative m s
  | .loop g c o => Sys2Proof.Machine.execLoop g c o s
  | .loopNative m => Sys2Proof.Machine.execLoopNative m s
  | .endl => Sys2Proof.Machine.execEndl s
  | .endlNative sc im => Sys2Proof.Machine.execEndlNative sc im s
  | .trap g c => Sys2Proof.Machine.execTrap g c s
  | .trapNative m => Sys2Proof.Machine.execTrapNative m s
  | .endt g => Sys2Proof.Machine.execEndt g s
  | .endtNative m => Sys2Proof.Machine.execEndtNative m s
  | .fmtset g im => Sys2Proof.Machine.execFmtset g im s
  | .fmtsetNative m => Sys2Proof.Machine.execFmtsetNative m s
  | .nopNative m => Sys2Proof.Machine.execNopNative m s
  | .vadd g v a b k f => Sys2Proof.Machine.execVadd g v a b k f s
  | .vsub g v a b k f => Sys2Proof.Machine.execVsub g v a b k f s
  | .vmul g v a b k f => Sys2Proof.Machine.execVmul g v a b k f s
  | .vfma g v a b k => Sys2Proof.Machine.execVfma g v a b k s
  | .vmin g v a b k f => Sys2Proof.Machine.execVmin g v a b k f s
  | .vmax g v a b k f => Sys2Proof.Machine.execVmax g v a b k f s
  | .vabs g v a k f => Sys2Proof.Machine.execVabs g v a k f s
  | .vneg g v a k f => Sys2Proof.Machine.execVneg g v a k f s
  | .vand g v a b k => Sys2Proof.Machine.execVand g v a b k s
  | .vor g v a b k => Sys2Proof.Machine.execVor g v a b k s
  | .vxor g v a b k => Sys2Proof.Machine.execVxor g v a b k s
  | .vshl g v a b k => Sys2Proof.Machine.execVshl g v a b k s
  | .vshr g v a b k f => Sys2Proof.Machine.execVshr g v a b k f s
  | .vcmpF g m a b k c => Sys2Proof.Machine.execVcmpF g m a b k c s
  | .vcmpI g m a b k c => Sys2Proof.Machine.execVcmpI g m a b k c s
  | .vsel g v a b k => Sys2Proof.Machine.execVsel g v a b k s
  | .vcvt g v a sc k t => Sys2Proof.Machine.execVcvt g v a sc k t s
  | .vexp2 g v a k => Sys2Proof.Machine.execVexp2 g v a k s
  | .vlog2 g v a k => Sys2Proof.Machine.execVlog2 g v a k s
  | .vrcp g v a k => Sys2Proof.Machine.execVrcp g v a k s
  | .vrsq g v a k => Sys2Proof.Machine.execVrsq g v a k s
  | .vbcast g v sc k => Sys2Proof.Machine.execVbcast g v sc k s
  | .vperm g v a b k => Sys2Proof.Machine.execVperm g v a b k s
  | .vredadd g v a k f => Sys2Proof.Machine.execVredadd g v a k f s
  | .vredmax g v a k f => Sys2Proof.Machine.execVredmax g v a k f s
  | .viota g v k => Sys2Proof.Machine.execViota g v k s
  | .vrng g v a b k => Sys2Proof.Machine.execVrng g v a b k s
  | .vnfin g a k => Sys2Proof.Machine.execVnfin g a k s
  | .cxc c m => Sys2Proof.Machine.execCxc c m s
  | .cbcast c m => Sys2Proof.Machine.execCbcast c m s
  | .ldt m => Sys2Proof.Machine.execLdt m s
  | .ldtLs1 m => Sys2Proof.Machine.execLdtLs1 m s
  | .lset m => Sys2Proof.Machine.execLset m s
  | .spred m => Sys2Proof.Machine.execSpred m s
  | .buck m => Sys2Proof.Machine.execBuck m s
  | .iclk m => Sys2Proof.Machine.execIclk m s
  | .icul m => Sys2Proof.Machine.execIcul m s
  | .tnow m => Sys2Proof.Machine.execTnow m s
  | .gcyrd m => Sys2Proof.Machine.execGcyrd m s
  | .launch m => Sys2Proof.Machine.execLaunch m s
  | .join m => Sys2Proof.Machine.execJoin m s
  | .cancel m => Sys2Proof.Machine.execCancel m s
  | .cntrd m => Sys2Proof.Machine.execCntrd m s
  | .corid m => Sys2Proof.Machine.execCorid m s
  | .yield m => Sys2Proof.Machine.execYield m s
  | .syscall m => Sys2Proof.Machine.execSyscall m s
  | .rft m => Sys2Proof.Machine.execRft m s
  | .csrr m => Sys2Proof.Machine.execCsrr m s
  | .csrw m => Sys2Proof.Machine.execCsrw m s
  | .tlbi m => Sys2Proof.Machine.execTlbi m s
  | .subq m => Sys2Proof.Machine.execSubq m s
  | .bsend m => Sys2Proof.Machine.execBsend m s
  | .bfetch m => Sys2Proof.Machine.execBfetch m s
  | .bred m => Sys2Proof.Machine.execBred m s
  | .bexp m => Sys2Proof.Machine.execBexp m s
  | .bwait m => Sys2Proof.Machine.execBwait m s
  | .bgrad m => Sys2Proof.Machine.execBgrad m s
  | .bsub m => Sys2Proof.Machine.execBsub m s
  | .enrd m => Sys2Proof.Machine.execEnrd m s
  | .enreq m => Sys2Proof.Machine.execEnreq m s
  | .qcfg m => Sys2Proof.Machine.execQcfg m s
  | .qpush m => Sys2Proof.Machine.execQpush m s
  | .qadv m => Sys2Proof.Machine.execQadv m s
  | .qwait m => Sys2Proof.Machine.execQwait m s
  | .qstat m => Sys2Proof.Machine.execQstat m s
  | .shape m => Sys2Proof.Machine.execShape m s
  | .cpy m => Sys2Proof.Machine.execCpy m s
  | .cpys m => Sys2Proof.Machine.execCpys m s
  | .echk m => Sys2Proof.Machine.execEchk m s
  | .wsload m => Sys2Proof.Machine.execWsload m s
  | .wsref m => Sys2Proof.Machine.execWsref m s
  | .mcfg x m => Sys2Proof.Machine.execMcfg x m s
  | .mlw x m => Sys2Proof.Machine.execMlw x m s
  | .mswp x m => Sys2Proof.Machine.execMswp x m s
  | .mstr x m => Sys2Proof.Machine.execMstr x m s
  | .mop x m => Sys2Proof.Machine.execMop x m s
  | .mrd x m => Sys2Proof.Machine.execMrd x m s
  | .mclr x m => Sys2Proof.Machine.execMclr x m s
  | .wmax m => Sys2Proof.Machine.execWmax m s
  | .wmin m => Sys2Proof.Machine.execWmin m s
  | .wmed m => Sys2Proof.Machine.execWmed m s
  | .wclmp m => Sys2Proof.Machine.execWclmp m s
  | .wssum m => Sys2Proof.Machine.execWssum m s
  | .adjb m => Sys2Proof.Machine.execAdjb m s
  | .wtag m => Sys2Proof.Machine.execWtag m s
  | .wrel m => Sys2Proof.Machine.execWrel m s
  | .engineCommandStart k => Sys2Proof.Machine.execEngineCommandStart k s
  | .gtCopyStart k => Sys2Proof.Machine.execGtCopyStart k s
  | .copyWrite k => Sys2Proof.Machine.execCopyWrite k s
  | .lateDataArrival k => Sys2Proof.Machine.execLateDataArrival k s
  | .queueCopyCommit k => Sys2Proof.Machine.execQueueCopyCommit k s
  | .wsloadWrite k => Sys2Proof.Machine.execWsloadWrite k s
  | .mlwWrite k => Sys2Proof.Machine.execMlwWrite k s
  | .mswpInvert k => Sys2Proof.Machine.execMswpInvert k s
  | .arrayStepStart k => Sys2Proof.Machine.execArrayStepStart k s
  | .arrayStepComplete k => Sys2Proof.Machine.execArrayStepComplete k s
  | .mrdWrite k => Sys2Proof.Machine.execMrdWrite k s
  | .witnessComplete k => Sys2Proof.Machine.execWitnessComplete k s
  | .adjbComplete k => Sys2Proof.Machine.execAdjbComplete k s
  | .loadArrival k => Sys2Proof.Machine.execLoadArrival k s
  | .atomPerform k => Sys2Proof.Machine.execAtomPerform k s
  | .writeApplyHome w => Sys2Proof.Machine.execWriteApplyHome w s
  | .writeApplyRemote w die => Sys2Proof.Machine.execWriteApplyRemote w die s
  | .preemptionRequest u => Sys2Proof.Machine.execPreemptionRequest u s
  | .unitResume u => Sys2Proof.Machine.execUnitResume u s
  | .unitTerminate u => Sys2Proof.Machine.execUnitTerminate u s
  | .unitPlacement core => Sys2Proof.Machine.execUnitPlacement core s
  | .launchGrant c h => Sys2Proof.Machine.execLaunchGrant c h s
  | .priorityAging c h => Sys2Proof.Machine.execPriorityAging c h s
  | .gangReservation c h => Sys2Proof.Machine.execGangReservation c h s
  | .graph c => Sys2Proof.Machine.execGraph c s
  | .detlevel c => Sys2Proof.Machine.execDetlevel c s
  | .cancelPacket c => Sys2Proof.Machine.execCancelPacket c s
  | .phase c => Sys2Proof.Machine.execPhase c s
  | .phaseEnd c => Sys2Proof.Machine.execPhaseEnd c s
  | .signal c => Sys2Proof.Machine.execSignal c s
  | .load c => Sys2Proof.Machine.execLoad c s
  | .packetCompletion c im => Sys2Proof.Machine.execPacketCompletion c im s
  | .moduleRemove c m => Sys2Proof.Machine.execModuleRemove c m s
  | .phaseDeadline c h => Sys2Proof.Machine.execPhaseDeadline c h s
  | .cleanLineUe line => Sys2Proof.Machine.execCleanLineUe line s
  | .dirtyLineUe line => Sys2Proof.Machine.execDirtyLineUe line s
  | .weightStoreUe die off u => Sys2Proof.Machine.execWeightStoreUe die off u s
  | .keepalive port => Sys2Proof.Machine.execKeepalive port s
  | .mirrorPromotion sid => Sys2Proof.Machine.execMirrorPromotion sid s
  | .braidSnapshot k => Sys2Proof.Machine.execBraidSnapshot k s
  | .putApply im => Sys2Proof.Machine.execPutApply im s
  | .arrivalRetry im => Sys2Proof.Machine.execArrivalRetry im s
  | .bfetchServe im => Sys2Proof.Machine.execBfetchServe im s
  | .bfetchLanding im => Sys2Proof.Machine.execBfetchLanding im s
  | .bredContribution im => Sys2Proof.Machine.execBredContribution im s
  | .bgradReceive im => Sys2Proof.Machine.execBgradReceive im s
  | .mirrorApply im => Sys2Proof.Machine.execMirrorApply im s
  | .mirrorConfirm im => Sys2Proof.Machine.execMirrorConfirm im s
  | .stepNotice im => Sys2Proof.Machine.execStepNotice im s
  | .bsubRegister im => Sys2Proof.Machine.execBsubRegister im s
  | .braidStatus im => Sys2Proof.Machine.execBraidStatus im s
  | .modulePublication c m => Sys2Proof.Machine.execModulePublication c m s
  | .fenceRelease => Sys2Proof.Machine.execFenceRelease s
  | .tlbiRelease => Sys2Proof.Machine.execTlbiRelease s
  | .qwaitRelease => Sys2Proof.Machine.execQwaitRelease s
  | .joinRelease => Sys2Proof.Machine.execJoinRelease s
  | .barrierRelease => Sys2Proof.Machine.execBarrierRelease s
  | .bwaitRelease => Sys2Proof.Machine.execBwaitRelease s
  | .bwaitDeadline => Sys2Proof.Machine.execBwaitDeadline s
  | .endtRelease => Sys2Proof.Machine.execEndtRelease s
  | .syscallAnswer => Sys2Proof.Machine.execSyscallAnswer s
  | .refreshWindow => Sys2Proof.Machine.execRefreshWindow s
  | .switchOut => Sys2Proof.Machine.execSwitchOut s
  | .eddyWrite => Sys2Proof.Machine.execEddyWrite s
  | .energyInterval => Sys2Proof.Machine.execEnergyInterval s
  | .correctedError => Sys2Proof.Machine.execCorrectedError s
  | .einjInject => Sys2Proof.Machine.execEinjInject s
  | .rftRelease => Sys2Proof.Machine.execRftRelease s
  | .l2quar v => Sys2Proof.Machine.execL2quar v s
  | .pretire v => Sys2Proof.Machine.execPretire v s
  | .ctxkill v => Sys2Proof.Machine.execCtxkill v s
  | .einj v => Sys2Proof.Machine.execEinj v s
  | .errlogClear v => Sys2Proof.Machine.execErrlogClear v s
  | .devHealthClear v => Sys2Proof.Machine.execDevHealthClear v s
  | .queueAgentAdvance j n => Sys2Proof.Machine.execQueueAgentAdvance j n s
  | .moduleUnloadRequest c m => Sys2Proof.Machine.execModuleUnloadRequest c m s
  | .substTableInstall bytes => Sys2Proof.Machine.execSubstTableInstall bytes s
  | .cqDoorbell c tail => Sys2Proof.Machine.execCqDoorbell c tail s
  | .xferDoorbell c tail => Sys2Proof.Machine.execXferDoorbell c tail s
  | .braidCommit c v => Sys2Proof.Machine.execBraidCommit c v s
  | .vfRegisterWrite c off v => Sys2Proof.Machine.execVfRegisterWrite c off v s
  | .transferDescriptor c iovaOk => Sys2Proof.Machine.execTransferDescriptor c iovaOk s
  | .pcieLinkTrain link gen width => Sys2Proof.Machine.execPcieLinkTrain link gen width s
  | .contextCreate c => Sys2Proof.Machine.execContextCreate c s
  | .tdispLeaveRun c => Sys2Proof.Machine.execTdispLeaveRun c s
  | .keySlotLoad slot ctxs => Sys2Proof.Machine.execKeySlotLoad slot ctxs s
  | .keySlotClear slot => Sys2Proof.Machine.execKeySlotClear slot s
  | .spdmRequest nonce => Sys2Proof.Machine.execSpdmRequest nonce s
  | .grantSet c g w => Sys2Proof.Machine.execGrantSet c g w s
  | .budgetSet b => Sys2Proof.Machine.execBudgetSet b s
  | .moduleReset images => Sys2Proof.Machine.execModuleReset images s
  | .thermalLimit celsius budget => Sys2Proof.Machine.execThermalLimit celsius budget s
  | .rowRepair core arr failed => Sys2Proof.Machine.execRowRepair core arr failed s
  | .coreRetire core => Sys2Proof.Machine.execCoreRetire core s
  | .dieRetire die => Sys2Proof.Machine.execDieRetire die s
  | .dramUe dpa => Sys2Proof.Machine.execDramUe dpa s
  | .coreStateUe u => Sys2Proof.Machine.execCoreStateUe u s
  | .icacheUe core line => Sys2Proof.Machine.execIcacheUe core line s
  | .braidLinkTrain port peer => Sys2Proof.Machine.execBraidLinkTrain port peer s
  | .flitReceive f => Sys2Proof.Machine.execFlitReceive f s
  | .packageFailure pkg => Sys2Proof.Machine.execPackageFailure pkg s
  | .failureNotice pkg => Sys2Proof.Machine.execFailureNotice pkg s
  | .tdispEnterRun c => Sys2Proof.Machine.execTdispEnterRun c s
  | .partitionAssignment ctxs dies => Sys2Proof.Machine.execPartitionAssignment ctxs dies s

end Sys2Proof.Machine
end

