-- ==== Sys2Proof/Machine/Origins.lean ====
section
/-! DEFINITION. What the values of a task were read from (R229): the writes in flight that a value in a register, a port or scratchpad
comes from, as LIWs, bundles and engines pass it on. A later access of the task follows them (log 7). -/

namespace Sys2Proof.Machine

/-- The unit that came up in `s` has issued in `t`: its τ has moved, or it has left the machine. -/
def hasIssued (s t : State) : Bool := ((t.unit? s.cur.uid).map fun u => u.task.sq.tau) ≠ some s.task.sq.tau

/-- What passes on what: the values under the keys `dst` now come from those under `src`, and from those under `dst` as before
where the write is a partial one (`adds`). -/
structure Flow where
  dst  : List Nat
  src  : List Nat
  adds : Bool
  deriving DecidableEq, Repr

/-- The keys of the bytes of a scratchpad range. -/
def byteKeys (a n : Nat) : List Nat := (List.range n).map fun i => byteKey (a + i)

/-- The origins after some flows, all of which read those of before. -/
def applyFlows (o : List (Nat × List Nat)) (fs : List Flow) : List (Nat × List Nat) :=
  fs.foldl (fun r f => f.dst.foldl (fun r k =>
    setOrigin r k (originIds o (if f.adds then k :: f.src else f.src))) r) o

/-- Origins without the writes that are no longer in flight. -/
def pruned (m : Memory) (o : List (Nat × List Nat)) : List (Nat × List Nat) :=
  (o.map fun x => (x.1, x.2.filter fun i => m.writes.any fun w => w.id = i)).filter fun x => !x.2.isEmpty

/-! ### An LIW -/

/-- The performed moves of an LIW, with their long immediates. -/
def liveLongs (t : Task) (l : Liw) : List (Nat × Move × BitVec 32) :=
  (withLongs (liwBusMoves l) l.longs).filter fun x => moveLive t (livePath t l) x.2.1.mv

/-- The keys of what a bank A move reads (R41, R159). -/
def moveKeysA (t : Task) (m : Mv) : List Nat :=
  let p := m.src.toNat
  if m.imm || p = 1023 then []
  else if p < 32 then [regKey (sregAt t.fr.fb p)]
  else if 48 ≤ p && p < 56 then (match t.queue? (p - 48) with
    | some b => if b.esz ≤ 3 && b.fill ≠ 0 then byteKeys (b.slot b.head) (2 ^ b.esz) else []
    | none => [])
  else [portKey p]

/-- The key of what lane `i` of a bank B move reads (R43). -/
def moveKeysB (t : Task) (m : Mv) (i : Nat) : List Nat :=
  let p := m.src.toNat
  let o := p % 128
  if m.imm || p = 1023 then []
  else if o < 32 then [laneKey o (16 * (p / 128) + i)]
  else if o < 64 then [regKey (sregAt t.fr.fb (o - 32))]
  else if o < 72 then []
  else [portLaneKey p i]

/-- What the moves of an LIW deliver to operand ports and triggers (R44). -/
def deliverFlows (t : Task) (x : Nat × Move × BitVec 32) : List Flow :=
  let d := x.2.1.dst.toNat
  if x.1 < 32 then (if 64 ≤ d then [{ dst := [portKey d], src := moveKeysA t x.2.1.mv, adds := false }] else [])
  else if d % 128 < 72 then []
  else (List.range 16).map fun i => { dst := [portLaneKey d i], src := moveKeysB t x.2.1.mv i, adds := false }

/-- The unit in focus with the origins of what an LIW's moves deliver to ports and triggers (R229). -/
def delivered (s : State) : Fetched → State
  | .bundle _ => s
  | .liw l =>
    if s.cur.origins.isEmpty then s
    else { s with cur := { s.cur with origins := applyFlows s.cur.origins ((liveLongs s.task l).flatMap (deliverFlows s.task)) } }

/-- What a trigger of LS0 or LS1 passes on, at an effective address (R151 to R156). -/
def lsFlows (t : Task) (p : Ports) (base off : Nat) (val : Word) : List Flow :=
  let ea := (p.getA base + val).toNat
  let addr := [portKey (base + off), portKey base]
  match lsCtl (p.getA (base + 2)) with
  | none => []
  | some w =>
    let n := if w.cv then fsize w.mf else 4
    let r := (p.getA (base + 1)).toNat % 32
    let on : Nat → Bool := fun i => (t.mask w.k.toNat).getLsbD i
    if off ≤ 10 then [{ dst := [portKey (base + 3)], src := byteKeys ea (loadForm off).1 ++ addr, adds := false }]
    else if off ≤ 14 then [{ dst := byteKeys ea (storeSize off), src := portKey (base + 1) :: addr, adds := false }]
    else if off = 15 then ((List.range 128).filter on).map fun i => { dst := [laneKey r i], src := byteKeys (ea + n * i) n ++ addr, adds := false }
    else if off = 16 then ((List.range 128).filter on).map fun i => { dst := byteKeys (ea + n * i) n, src := laneKey r i :: addr, adds := false }
    else
      let b := p.getA (base + 1)
      let k := 2 ^ (b.extractLsb' 8 2).toNat
      (List.range 64).map fun x =>
        { dst := [laneKey ((b.extractLsb' 0 5).toNat + x / 16) (16 * (b.extractLsb' 5 3).toNat + x % 16)],
          src := byteKeys ((val + BitVec.ofNat 64 (x % 16) * p.getA base).toNat + x / 16 * k) k ++ addr, adds := false }

/-- What a trigger of a cluster unit passes on to its result (R44): lane by lane, and in the exchange from every lane of the clusters'
operands (R142). -/
def clusterFlows (d : Nat) : List Flow :=
  match trigUnitB (d % 128) with
  | none => []
  | some u =>
    let base := d / 128 * 128 + u.base
    let all : List Nat := if u = .cxc then (List.range 128).map fun i => portLaneKey (128 * (i / 16) + CUnit.cxc.base) (i % 16) else []
    (List.range 16).map fun i =>
      { dst := [portLaneKey (base + 3) i], src := [d, base, base + 1, base + 2].map (fun p => portLaneKey p i) ++ all, adds := false }

/-- What a performed move passes on beside its delivery: to the register that it writes, or through the operation that it triggers. `p` are
the ports with what the LIW has delivered. -/
def moveFlows (t : Task) (p : Ports) (x : Nat × Move × BitVec 32) : List Flow :=
  let d := x.2.1.dst.toNat
  let b := d / 64 * 64
  if x.1 < 32 then
    if d < 32 then [{ dst := [regKey (sregAt t.fr.fb d)], src := moveKeysA t x.2.1.mv, adds := false }]
    else if !isTrigA d then []
    else if b = 128 || b = 192 || b = 256 then
      [{ dst := [portKey (b + 3)], src := [d, b, b + 1, b + 2].map portKey, adds := false }]
    else if b = 320 || b = 384 then lsFlows t p b (d - b) (sourceA t x.2.1.mv x.2.2)
    else []
  else if d % 128 < 32 then
    ((List.range 16).filter fun i => (sourceB t x.2.1.mv x.2.2).2.getLsbD i).map fun i =>
      { dst := [laneKey (d % 128) (16 * (d / 128) + i)], src := moveKeysB t x.2.1.mv i, adds := false }
  else clusterFlows d

/-! ### A bundle -/

/-- The vector registers that a Peman operation reads, and whether a lane of its result comes from the same lane of them alone. -/
def vectorReads : Instr → List (BitVec 5) × Bool
  | .vadd _ _ a b _ _ => ([a, b], true)
  | .vsub _ _ a b _ _ => ([a, b], true)
  | .vmul _ _ a b _ _ => ([a, b], true)
  | .vfma _ v a b _ => ([v, a, b], true)
  | .vmin _ _ a b _ _ => ([a, b], true)
  | .vmax _ _ a b _ _ => ([a, b], true)
  | .vabs _ _ a _ _ => ([a], true)
  | .vneg _ _ a _ _ => ([a], true)
  | .vand _ _ a b _ => ([a, b], true)
  | .vor _ _ a b _ => ([a, b], true)
  | .vxor _ _ a b _ => ([a, b], true)
  | .vshl _ _ a b _ => ([a, b], true)
  | .vshr _ _ a b _ _ => ([a, b], true)
  | .vsel _ _ a b _ => ([a, b], true)
  | .vcvt _ _ a _ _ _ => ([a], true)
  | .vexp2 _ _ a _ => ([a], true)
  | .vlog2 _ _ a _ => ([a], true)
  | .vrcp _ _ a _ => ([a], true)
  | .vrsq _ _ a _ => ([a], true)
  | .vperm _ _ a b _ => ([a, b], false)
  | .vredadd _ _ a _ _ => ([a], false)
  | .vredmax _ _ a _ _ => ([a], false)
  | .vrng _ _ a b _ => ([a, b], true)
  | .vst _ v _ _ => ([v], true)
  | _ => ([], true)

/-- The scratchpad bytes that a Peman load reads. -/
def slotLoads (t : Task) : Instr → List (Nat × Nat)
  | .ldB _ _ b i => [((slotEa t b i 1).toNat, 1)]
  | .ldH _ _ b i => [((slotEa t b i 2).toNat, 2)]
  | .ldW _ _ b i => [((slotEa t b i 4).toNat, 4)]
  | .ldD _ _ b i => [((slotEa t b i 8).toNat, 8)]
  | .ldSb _ _ b i => [((slotEa t b i 1).toNat, 1)]
  | .ldSh _ _ b i => [((slotEa t b i 2).toNat, 2)]
  | .ldSw _ _ b i => [((slotEa t b i 4).toNat, 4)]
  | .vld _ _ b i => [((slotEa t b i 512).toNat, 512)]
  | _ => []

/-- What an operation of a bundle passes on (R30): to the registers and the bytes that it writes. -/
def slotFlows (s : State) (x : Nat × Instr) : List Flow :=
  match slotOf x.2 with
  | none => []
  | some y =>
    let s0 := comeUp s
    let c : Trig := { s0 := s0, pc := s0.task.sq.pc, next := s0.task.sq.pc + 16, bus := 0, nt := 0, val := 0, lanes := [],
                      ports := s0.task.ports, perf := [] }
    match performSlot c (Acc.init s0) (x.1, y) with
    | .error _ => []
    | .ok a =>
      let t := s.task
      let regs := y.regs.map fun k => regKey (sregAt t.fr.fb k)
      let loads := slotLoads t x.2
      let bytes := loads.flatMap fun r => byteKeys r.1 r.2
      let vs := vectorReads x.2
      let lane : Nat → List Nat := fun i => vs.1.flatMap fun v =>
        if vs.2 then [laneKey v.toNat i] else (List.range 128).map fun j => laneKey v.toNat j
      let loaded : Nat → List Nat := fun i => loads.flatMap fun r => byteKeys (r.1 + 4 * i) 4
      (a.regs.flatMap fun w => match w with
        | .sreg i _ => [{ dst := [regKey (sregAt t.fr.fb i)], src := regs ++ bytes, adds := false }]
        | .lanes v first _ m => ((List.range m.length).filter fun i => m.getD i false).map fun i =>
            { dst := [laneKey v (first + i)], src := regs ++ loaded (first + i) ++ lane (first + i), adds := false }
        | _ => [])
      ++ (List.range a.store0.length).flatMap fun i => match a.store0[i]? with
        | some b => [{ dst := [byteKey b.1], src := regs ++ lane (i / 4), adds := false }]
        | none => []

/-! ### Spills and fills -/

/-- The entries that the spills of a call put into scratchpad, with their places (R108). -/
def spillFlows (rb : Nat) : Nat → Task → List Flow
  | 0, _ => []
  | n + 1, t =>
    if rb ≤ t.fr.rb then []
    else (List.range (oldestSlide t.fr)).map (fun i =>
        { dst := byteKeys (t.s2.toNat + 8 * i) 8, src := [regKey (.phys ((t.fr.rb + i) % 256))], adds := false })
      ++ spillFlows rb n (spillOne t)

/-- The entries that a return fills from scratchpad (R109); `t` is the task after it, `rb` was RB before. -/
def fillFlows (rb : Nat) (t : Task) : List Flow :=
  (List.range (rb - t.fr.rb)).map fun i =>
    { dst := [regKey (.phys ((t.fr.rb + i) % 256))], src := byteKeys (t.s2.toNat + 8 * i) 8, adds := false }

/-- What the frames of a task have passed on as `t` became `u` (R108, R109). -/
def frameFlows (t u : Task) : List Flow :=
  if t.fr.rb < u.fr.rb then spillFlows u.fr.rb 256 t else fillFlows t.fr.rb u

/-! ### What a step leaves -/

/-- The LOCAL bytes that a command reads at its due τ (R175). -/
def Cmd.localReads (c : Cmd) : List (Nat × Nat) :=
  match c.kind with
  | .copy .local _ sa _ sl _ _ => layoutRanges sa sl
  | _ => []

/-- A command that has just read its LOCAL source depends on what those bytes were read from (R229). -/
def withLocalDeps (o : List (Nat × List Nat)) (old : List Cmd) (c : Cmd) : Cmd :=
  if c.data = [] || old.any (fun k => k.id = c.id && k.data ≠ []) then c
  else { c with deps := (localIds o c.localReads ++ c.deps).eraseDups }

/-- The unit of `t` that was in focus in `s`, whose origins were `o`, with what its commands have read since and the origins after some
flows. -/
def passOn (s : State) (o : List (Nat × List Nat)) (fs : List Flow) (t : State) : State :=
  t.mapUnit s.cur.uid fun u =>
    let fs' := fs ++ frameFlows s.task u.task
    { u with origins := pruned t.mem (applyFlows o fs'),
             task := { u.task with cmds := u.task.cmds.map (withLocalDeps o s.task.cmds) } }

/-- The origins of what an LIW or bundle has written, as `t` results from its attempt to issue (R229): those of before where nothing has
issued. `s` is the state that came up, `d` the one with its ports' origins. -/
def keepOrigins (s d : State) (x : Fetched) (t : State) : State :=
  if s.cur.origins.isEmpty then t
  else if !hasIssued s t then t.mapUnit s.cur.uid fun u => { u with origins := s.cur.origins }
  else match x with
    | .liw l =>
      let xs := liveLongs s.task l
      passOn s d.cur.origins (xs.flatMap (moveFlows s.task (xs.foldl (deliver s.task) s.task.ports))) t
    | .bundle ops => passOn s d.cur.origins (ops.flatMap (slotFlows s)) t

/-- A τ without an LIW of the task's code, with what its commands read in it (R175, R229). -/
def idleKept (s : State) : State := if s.cur.origins.isEmpty then idleTau s else passOn s s.cur.origins [] (idleTau s)

end Sys2Proof.Machine
end

