-- ==== Sys2Proof/Machine/Agenda.lean ====
section
/-! DEFINITION. What may or must happen next: the outside input that is processed next, the events that are due at once, the
real-time events that are enabled, and what the unit in focus does otherwise. `step` puts these together. -/

namespace Sys2Proof.Machine

/-! ### Outside inputs -/

/-- A step that an agent outside the modelled machine brings about (log 5): the host, management, SYSTEM firmware's commands,
the fabric, errors of the hardware, another agent of a queue. -/
def isInput : Instr → Bool
  | .l2quar _ => true
  | .pretire _ => true
  | .ctxkill _ => true
  | .einj _ => true
  | .errlogClear _ => true
  | .devHealthClear _ => true
  | .queueAgentAdvance _ _ => true
  | .preemptionRequest _ => true
  | .moduleUnloadRequest _ _ => true
  | .substTableInstall _ => true
  | .cqDoorbell _ _ => true
  | .xferDoorbell _ _ => true
  | .braidCommit _ _ => true
  | .vfRegisterWrite _ _ _ => true
  | .transferDescriptor _ _ => true
  | .pcieLinkTrain _ _ _ => true
  | .contextCreate _ => true
  | .tdispEnterRun _ => true
  | .tdispLeaveRun _ => true
  | .keySlotLoad _ _ => true
  | .keySlotClear _ => true
  | .spdmRequest _ => true
  | .grantSet _ _ _ => true
  | .budgetSet _ => true
  | .moduleReset _ => true
  | .thermalLimit _ _ => true
  | .rowRepair _ _ _ => true
  | .coreRetire _ => true
  | .dieRetire _ => true
  | .dramUe _ => true
  | .correctedError => true
  | .cleanLineUe _ => true
  | .dirtyLineUe _ => true
  | .weightStoreUe _ _ _ => true
  | .coreStateUe _ => true
  | .icacheUe _ _ => true
  | .braidLinkTrain _ _ => true
  | .flitReceive _ => true
  | .packageFailure _ => true
  | .failureNotice _ => true
  | .partitionAssignment _ _ => true
  | _ => false

/-- The detection of an uncorrectable error waits while 16 records are held (R300). -/
def recordsFull (s : State) : Bool := 16 ≤ s.health.errlog.length

/-- Host traffic waits while the link of its context is not trained (R353), and a doorbell until the host's earlier writes are applied
(R356); another agent of a queue holds its data while it finds too little room (R162); an error's detection waits for room (R300), and a
package's failure for its silence (R346). -/
def rowWaits (s : State) : Instr → Bool
  | .queueAgentAdvance j n => queueHolds s j.toNat n
  | .cqDoorbell c _ => !linkTrained s (ctxLink c) || !hostApplied s c
  | .xferDoorbell c _ => !linkTrained s (ctxLink c) || !hostApplied s c
  | .braidCommit c _ => !linkTrained s (ctxLink c)
  | .vfRegisterWrite c _ _ => !linkTrained s (ctxLink c)
  | .transferDescriptor c _ => !linkTrained s (ctxLink c)
  | .dramUe _ => recordsFull s
  | .weightStoreUe _ _ _ => recordsFull s
  | .coreStateUe _ => recordsFull s
  | .packageFailure p => !silent s p
  | _ => false

/-- A request of the host waits for its link (R353), for a line (R299), for its system core, or, a TLBI, for the accesses that used what it
drops (R296). -/
def opWaits (s : State) (o : HostOp) : Bool :=
  (match o.over with
   | some c => !linkTrained s (ctxLink c)
   | none => false) || (opBlocked s o).isSome || match o with
    | .firmware core _ => s.firmwareOn core
    | .tlbi c _ _ => !hostApplied s c || !ctxQuiet s c
    | _ => false

/-- An input can be processed now. -/
def Input.now (s : State) : Input → Bool
  | .row i => isInput i && !rowWaits s i
  | .op o => !opWaits s o

/-- The first input that can be processed, and the inputs that remain; `held` are the links on which an earlier one waits. -/
def takeInput (s : State) (held : List Nat) : List Input → Option (Input × List Input)
  | [] => none
  | i :: is =>
    if i.now s && !i.link.any held.contains then some (i, is)
    else match takeInput s (i.link.toList ++ held) is with
      | some (j, r) => some (j, i :: r)
      | none => none

/-- An input that the module takes while it is stopped, or in recovery: a reset; in recovery the physical function also trains links
and answers SPDM (R364, R365). -/
def Input.always (recovery : Bool) : Input → Bool
  | .row (.moduleReset _) => true
  | .row (.pcieLinkTrain _ _ _) => recovery
  | .row (.spdmRequest _) => recovery
  | .op (.spdmVersion _) => recovery
  | _ => false

/-- The first input of those that a stopped module takes, and the inputs that remain. -/
def takeAlways (recovery : Bool) : List Input → Option (Input × List Input)
  | [] => none
  | i :: is =>
    if i.always recovery then some (i, is)
    else match takeAlways recovery is with
      | some (j, r) => some (j, i :: r)
      | none => none

/-! ### What is due at once -/

/-- The unit in focus issues or waits. -/
def State.active (s : State) : Bool := s.on && s.cur.active

/-- The end of a command once its due τ has passed: its class among those of one τ (R199, R302) and its step. A copy into a queue
without room has none yet (R175). -/
def endEvent (t : Task) (c : Cmd) : Option (Nat × Instr) :=
  let ended := c.over t.sq.tau
  match c.kind with
  | .mlw _ _ _ _ _ _ => if ended then some (0, .mlwWrite c.id) else none
  | .mswp _ => if c.due < t.sq.tau then some (1, .mswpInvert c.id) else none
  | .step _ _ _ _ _ _ _ _ _ _ _ _ => if ended then some (2, .arrayStepComplete c.id) else none
  | .mrd a => if ended then some (3 + a, .mrdWrite c.id) else none
  | .wit => if ended then some (5, .witnessComplete c.id) else none
  | .adjb => if ended then some (5, .adjbComplete c.id) else none
  | .wsload _ _ _ => if ended then some (6, .wsloadWrite c.id) else none
  | .copy _ _ _ _ sl _ q =>
    if !ended then none
    else match q with
      | none => some (6, .copyWrite c.id)
      | some j => match t.queue? j with
        | some b => if !c.late && b.depth - b.fill < layoutSize sl / 2 ^ b.esz then none else some (6, .queueCopyCommit c.id)
        | none => none
  | _ => none

/-- The τ whose end an end belongs to: its due τ, or for a copy into a queue the first at which it found room (R175). -/
def endTau (t : Task) (c : Cmd) : Nat :=
  match c.kind with
  | .copy _ _ _ _ _ _ (some _) => if c.late then c.due else max c.due (t.sq.tau - 1)
  | _ => c.due

/-- The place of an end among those that are due: by τ, class, start of a step. Two operations of the witness unit that end at one τ stand
in trigger order; one that ends earlier by its own c comes first (log 45). -/
def endKey (t : Task) (c : Cmd) (cls : Nat) : Nat × Nat × Nat := (endTau t c, cls, if cls = 2 then c.start else 0)

/-- One place stands before another. -/
def keyLt (a b : Nat × Nat × Nat) : Bool :=
  a.1 < b.1 || (a.1 = b.1 && (a.2.1 < b.2.1 || (a.2.1 = b.2.1 && a.2.2 < b.2.2)))

/-- The first of the ends that are due, with its command; the earlier enqueued one of two at one place. -/
def firstEnd (t : Task) : List Cmd → Option ((Nat × Nat × Nat) × Cmd × Instr)
  | [] => none
  | c :: cs => match endEvent t c, firstEnd t cs with
    | none, r => r
    | some x, none => some (endKey t c x.1, c, x.2)
    | some x, some y => if keyLt y.1 (endKey t c x.1) then some y else some (endKey t c x.1, c, x.2)

/-- A command that would start now but whose operands cannot be read (R235, R299). -/
def startBlocked (s : State) (c : Cmd) : Bool := c.readsAtStart s.task.sq.tau && sourceBlocked s c

/-- What a command does at the start of a τ. -/
def startEvent (s : State) (c : Cmd) : Option Instr :=
  match c.gt with
  | some g => if g ≤ s.clock then some (.gtCopyStart c.id) else none
  | none =>
    if !c.starts s.task.sq.tau || startBlocked s c then none
    else match c.kind with
      | .step _ _ _ _ _ _ _ _ _ _ _ _ => some (.arrayStepStart c.id)
      | .braid _ => some (.braidSnapshot c.id)
      | _ => if c.buffered then some (.engineCommandStart c.id) else none

/-- The first of what some commands do at the start of a τ; a Braid command does not pass one that is held (R350). -/
def firstStart (s : State) (held : Bool) : List Cmd → Option Instr
  | [] => none
  | c :: cs =>
    if startBlocked s c then firstStart s true cs
    else if held && c.braidKind.isSome then firstStart s held cs
    else match startEvent s c with
      | some i => some i
      | none => firstStart s held cs

/-- An injection is armed on a line that stands in its home L2 (R300). -/
def einjDue (s : State) : Bool := s.mem.einjArmed && hasLine s.mem (dpaDie (128 * s.mem.einjLine)) s.mem.einjLine

/-- The events of the unit in focus that are due before its LIW at τ: the ends in their order, each before what comes after it, so
that data which is missing at its due τ holds back the later ones (R174, R199); what the Eddy holds (R282); what starts. -/
def unitDue (s : State) : Option Instr :=
  if !s.active then none
  else match firstEnd s.task s.task.cmds with
    | some x => if x.2.1.late then none else some x.2.2
    | none =>
      if s.task.eddy.any (fun e => e.ready ≤ s.task.sq.tau + 1) then some .eddyWrite
      else firstStart s false (byStart s.task.cmds)

/-- Aging and reservation fall due by GCYC (R267, R268). -/
def workDue (s : State) : Option Instr :=
  s.ctxs.findSome? fun c => c.launches.findSome? fun l =>
    if agingDue s l then some (.priorityAging c.id l.h) else if reserveDue s l then some (.gangReservation c.id l.h) else none

/-- The event that is due at once, if there is one: intervals and refresh windows by GCYC (R181, R360), an injection (R300),
aging and reservations (R267, R268), the unit's engine events in their order (R302) before its own termination, the termination of a
cancelled unit (R272, R332). -/
def due (s : State) : Option Instr :=
  if s.gcyc / 1600000 ≠ s.board.interval then some .energyInterval
  else if s.board.refresh ≠ refreshBank s.gcyc then some .refreshWindow
  else if einjDue s then some .einjInject
  else match workDue s, unitDue s, s.units.find? terminable with
    | some i, _, _ => some i
    | none, some i, _ => some i
    | none, none, some u => some (.unitTerminate u.uid)
    | none, none, none => none

/-- The contexts' part in the competition for cores has changed (R266). -/
def workStale (s : State) : Bool := s.ctxs.any fun c => hasWork s c ≠ c.hadWork

/-- What Confluence and the fabric do at once in the state as it stands now: a phase's conditions that are met and its end (R254), which
contexts compete (R266), the commands that the fabric holds (R332). -/
def upkeep (s : State) : Option State :=
  match s.unlatched with
  | some c => some (s.settle c)
  | none => if workStale s then some (compete s) else fabricOwn s

/-! ### Real-time events -/

/-- One candidate step, where a condition holds. -/
def onlyIf (b : Bool) (i : Instr) : List Instr := if b then [i] else []

/-- The DPA of a line that the unit in focus needs now: of an outstanding access, of a command's operand, of the walk or the code
that its LIW waits for. -/
def unitNeeds (s : State) (line : Nat) : Bool :=
  s.task.loads.any (fun r => r.dpa / 128 = line)
    || s.task.cmds.any (fun k => (k.late || k.starts s.task.sq.tau) && rangesTouch k.src line)
    || match s.cur.status with
      | .waiting (.memory d) => d / 128 = line
      | _ => false

/-- The DPAs of the lines that hold other agents' accesses back: messages, packets, requests of the host (R299). -/
def agentNeeds (s : State) : List Nat :=
  (s.fabric.inbox.filterMap fun m => s.msgBlocked m)
    ++ (s.ctxs.filterMap fun c =>
      if c.rings.cqSize = 0 || c.rings.cqHead = c.rings.cqTail then none
      else agentBlocked s c [(c.rings.cqBase.toNat + 64 * c.rings.cqHead, 64)] [])
    ++ s.inbox.filterMap fun i => match i with
      | .op o => opBlocked s o
      | .row _ => none

/-- The lines with an error that an access meets now, of the unit in focus at its die or at home, or of another agent (R297 to
R300). -/
def metLines (s : State) : List L2Line :=
  s.mem.l2.filter fun l => l.hurt.isSome
    && ((s.active && (l.die = dpaDie (128 * l.line) || l.die = coreDie s.cur.core) && unitNeeds s l.line)
      || (l.die = dpaDie (128 * l.line) && (agentNeeds s).any fun d => d / 128 = l.line)
      || s.fabric.owed.any fun x => (l.die = dpaDie (128 * l.line) || l.die = coreDie x.1.core) && rangesTouch x.2.src l.line)

/-- The lines with an error that an eviction or a write-back meets now (R299, R300). -/
def outLines (s : State) : List L2Line :=
  s.mem.l2.filter fun l => l.hurt.isSome && (l.leaving || s.mem.writes.any fun w =>
    w.homed.isNone && w.home = l.die && 8 * w.loc / 128 = l.line && l.dirty && l.owner ≠ w.ctx)

/-- The step in which the error of a line is met: not before its record finds room (R300). -/
def errorEvents (s : State) (ls : List L2Line) : List Instr :=
  ls.flatMap fun l => match l.hurt with
    | some false => [.correctedError]
    | some true => onlyIf (!recordsFull s && !l.poison && l.way < 24) (if l.dirty then .dirtyLineUe l.line else .cleanLineUe l.line)
    | none => []

/-- The unit reads a poisoned region of its weight store (R298). -/
def weightEvents (s : State) : List Instr :=
  s.task.cmds.flatMap fun c =>
    if c.up && c.late && !recordsFull s then
      (s.health.wsPoison.filter fun p => p.1 = coreDie s.cur.core && c.weightRanges.any fun r => overlap r.1 r.2 (2 ^ 26 * p.2) (2 ^ 26)).map
        fun p => .weightStoreUe p.1 (2 ^ 26 * p.2) s.cur.uid
    else []

/-- The memory system's steps for the unit in focus (R221, R225). -/
def loadEvents (s : State) : List Instr :=
  s.task.loads.flatMap fun r =>
    onlyIf (loadReady s s.cur r) (.loadArrival r.id) ++ onlyIf (atomReady s s.cur r) (.atomPerform r.id)

/-- Missing engine data that can arrive (R174): that of a strict command whose due τ has passed not before the next LIW has raised TIMING
(R176), where one is to follow. -/
def dataEvents (s : State) : List Instr :=
  s.task.cmds.flatMap fun c => onlyIf (c.up && c.late && c.fetched && canFetch s c && (!c.strict || s.task.sq.tau ≤ c.due || s.cur.leaving))
    (.lateDataArrival c.id)

/-- Writes that can take their place at home or at a further die (R228, R230). -/
def writeEvents (s : State) : List Instr :=
  s.mem.writes.flatMap fun w =>
    onlyIf (s.homeReady w) (.writeApplyHome w.id)
      ++ ((List.range 4).flatMap fun d => onlyIf (remoteReady s.mem w d) (.writeApplyRemote w.id d))

/-- A step of the packet at the head of a context's ring (R260). -/
def packetEvent (c : Nat) : Nat → Instr
  | 2 => .detlevel c
  | 3 => .cancelPacket c
  | 4 => .phase c
  | 5 => .phaseEnd c
  | 6 => .signal c
  | 7 => .load c
  | _ => .graph c

/-- Confluence's and the Stitcher's steps for a context (R114, R115, R260, R264, R344). -/
def ctxEvents (s : State) (c : Ctx) : List Instr :=
  (match headType s c with
    | some n => [packetEvent c.id n]
    | none => [])
    ++ onlyIf (readySignal s c).isSome (.signal c.id)
    ++ (match c.headRequest with
        | some l => onlyIf (grantOk s c l) (.launchGrant c.id l.h)
        | none => [])
    ++ ((List.range c.packets.length).flatMap fun i => match c.packets[i]? with
        | some p => onlyIf (packetReady s (settleCtx s c) p) (.packetCompletion c.id i)
        | none => [])
    ++ (c.phases.flatMap fun g => onlyIf (phaseDue s c g) (.phaseDeadline c.id g.h))
    ++ (c.modules.flatMap fun m =>
        onlyIf (!m.live) (.modulePublication c.id m.id) ++ onlyIf (m.unload && !referenced s c.id m) (.moduleRemove c.id m.id))

/-- Cores on which a unit can be placed now (R266). -/
def placementEvents (s : State) : List Instr :=
  if s.ctxs.any (hasWork s) then
    (List.range 384).flatMap fun k => onlyIf (firstRanked (candidates (compete s) k)).isSome (.unitPlacement k)
  else []

/-- Switching units (R280, R281, R285). -/
def switchEvents (s : State) : List Instr :=
  onlyIf (switchPoint s).isSome .switchOut
    ++ onlyIf (s.active && !s.cur.preempt && rivalOn s s.cur) (.preemptionRequest s.cur.uid)
    ++ s.units.flatMap fun u => onlyIf (canResume s u).isSome (.unitResume u.uid)

/-- The step that a message of the fabric takes here (R333 to R345). -/
def messageEvent (s : State) (i : Nat) : List Instr :=
  match s.msg? i with
  | none => []
  | some m =>
    let arrive : Instr → List Instr := fun e => match m.begun with
      | some (ids, _) => onlyIf (storesApplied s.mem ids) (if m.again = 0 then e else .arrivalRetry i)
      | none => if m.again = 0 then [e] else onlyIf (m.again ≤ s.gcyc) (.arrivalRetry i)
    match m.msg with
    | .put _ _ _ _ _ _ => arrive (.putApply i)
    | .deliver _ _ _ _ _ _ _ _ _ => arrive (.putApply i)
    | .weights _ _ _ _ _ _ _ _ _ _ => arrive (.putApply i)
    | .fetched _ _ _ _ _ _ _ => arrive (.bfetchLanding i)
    | .fetch _ _ _ _ _ _ _ _ _ => [.bfetchServe i]
    | .bred _ _ _ _ _ _ _ _ _ _ _ => [.bredContribution i]
    | .delivered _ _ _ _ _ _ _ => [.bredContribution i]
    | .status _ _ _ _ => [.braidStatus i]
    | .grad _ _ _ _ _ _ => [.bgradReceive i]
    | .stepNotice _ _ _ _ => [.stepNotice i]
    | .forward _ _ _ _ _ _ _ _ => [.mirrorApply i]
    | .confirm _ _ _ _ _ => [.mirrorConfirm i]
    | .subscribe _ _ _ _ _ _ _ _ _ _ => [.bsubRegister i]

/-- The fabric's steps: messages, keepalives (one for each port in 2^20 GCYC), promotions (R346). -/
def fabricEvents (s : State) : List Instr :=
  ((List.range s.fabric.inbox.length).flatMap (messageEvent s))
    ++ (match s.fabric.ports with
        | [] => []
        | p :: ps => onlyIf (s.fabric.keepalives < (ps.length + 1) * (s.gcyc / 2 ^ 20))
            (.keepalive ((p :: ps).getD (s.fabric.keepalives % (ps.length + 1)) p).1))
    ++ s.fabric.shards.flatMap fun n => onlyIf (promotable s n) (.mirrorPromotion n.sid)

/-- The real-time events that are enabled: which comes next is free (log 2). -/
def enabled (s : State) : List Instr :=
  (if s.active then loadEvents s ++ dataEvents s ++ weightEvents s else [])
    ++ errorEvents s (metLines s) ++ errorEvents s (outLines s) ++ writeEvents s ++ s.ctxs.flatMap (ctxEvents s) ++ placementEvents s ++ switchEvents s ++ fabricEvents s

/-- The units beside the one in focus that issue or wait. -/
def others (s : State) : List Nat := (s.parked.filter QUnit.active).map fun u => u.uid

/-! ### The unit in focus -/

/-- GCYC advances and nothing else (R18). -/
def passGcyc (s : State) : State := { s with gcyc := s.gcyc + 1 }

/-- The core stalls with τ frozen (R18): the data of a command that is not strict is missing past its due τ (R174), or a
command cannot start (R299). -/
def stalls (s : State) : Bool :=
  s.task.cmds.any fun c => (c.over s.task.sq.tau && c.late && c.fetched && !c.strict) || startBlocked s c

/-- What the unit in focus has at its pc, as an instruction of the table: a bundle of one operation, an LIW that holds one
native row and nothing else, or a whole LIW; `none` for a bundle of several operations. -/
def fetchedInstr (s : State) : Fetched → Option Instr
  | .liw l => match decodeNative (s.textBytes s.task.sq.pc maxLiwBytes) with
    | some (i, _) => some i
    | none => some (.liwIssue l)
  | .bundle ops =>
    let busy := ops.filter fun x => x.2 ≠ .nop
    match busy with
    | [] => some .nop
    | [x] => if slotNumber x.2 = x.1 then some x.2 else none
    | _ => none

/-! ### What a fetch and an issue leave in the memory system -/

/-- The DEVICE bytes of what has been fetched at the pc. -/
def Fetched.size : Fetched → Nat
  | .liw l => liwBytes l
  | .bundle _ => 16

/-- The 128-byte lines of `n` bytes of code from an address that the task has not locked (R98), as ranges. -/
def unlockedCode (ilocks : List Word) (pc n : Nat) : List (Nat × Nat) :=
  ((List.range (lineCount pc n)).filter fun i => !ilocks.any fun a => a.toNat / 128 = pc / 128 + i).map fun i =>
    let lo := max pc (128 * (pc / 128 + i))
    (lo, min (pc + n) (128 * (pc / 128 + i + 1)) - lo)

/-- The lines of an LIW or bundle that the instruction cache does not hold (R98, log 24), as DPA ranges: a locked line is never among
them. -/
def codeMiss (s : State) (x : Fetched) : List (Nat × Nat) :=
  if s.cur.isFirmware then []
  else
    let ls := unlockedCode s.task.sq.ilocks s.task.sq.pc.toNat x.size
    let out := ((List.range ls.length).zip ls).filter fun y => Config.icacheMiss (8 * s.tick + y.1)
    ((devRanges s.mem s.board.slots s.tick s.cur.core s.curCtx .fetch (s.cur.priv = .user) (out.map Prod.snd)).toOption).getD []

/-- The addresses that the fetch of an LIW or bundle translates: its first byte, and its last where that lies in another page. -/
def codeEnds (s : State) (x : Fetched) : List Word :=
  let last := s.task.sq.pc + BitVec.ofNat 64 (x.size - 1)
  if s.task.sq.pc.toNat / 2 ^ 16 = last.toNat / 2 ^ 16 then [s.task.sq.pc] else [s.task.sq.pc, last]

/-- The line that the fetch of an LIW or bundle, or a walk for it, meets and that no access can use now (R299). -/
def fetchWaits (s : State) (x : Fetched) : Option Nat :=
  if s.mem.l2.isEmpty then none
  else ((codeEnds s x).findSome? (walkBlocked s)).or
    (if readReady s.mem s.cur [] s.mem.nextW (codeMiss s x) then none else ((codeMiss s x).head?).map Prod.fst)

/-- A bank A trigger that uses the scratchpad, DEVICE memory, the engines, the frames or Confluence (R105, R147, R214). -/
def slowPort (p : Nat) : Bool := (5 ≤ p / 64 && p / 64 ≤ 12) || (70 ≤ p && p ≤ 73) || p = 82 || (87 ≤ p && p ≤ 107)

/-- The core may stall at the issue of an LIW or bundle for a cause of R18 that the model does not count in clocks: a line of it is not in
the instruction cache (R80), its address is in no translation cache (R214), it uses the scratchpad (R147), DEVICE memory (R214) or the
frames (R105, R109). -/
def mayStall (s : State) (x : Fetched) : Bool :=
  !(codeMiss s x).isEmpty || !(walked s.mem s.tick s.cur.core s.curCtx s.task.sq.pc.toNat).isEmpty || match x with
    | .liw l => l.pop ≠ 0 || (liveMoves s.task l).any fun y => y.1 < 32 && slowPort y.2.dst.toNat
    | .bundle ops => ops.any fun y => isMemorySlot y.2 || match y.2 with
      | .call .. => true
      | .calli .. => true
      | .callr .. => true
      | .ret .. => true
      | _ => false

/-- A fetch fills the translation caches and brings its lines into the L2 (R214, R215, R217); what the core stalls for it comes before the
next issue (R18, R80; log 19). `s` is the state of the fetch, `t` what has become of it. -/
def afterFetch (s : State) (x : Fetched) (t : State) : State :=
  if s.cur.isFirmware then t
  else
    let f : State := { s with mem := t.mem }
    let m := ((codeEnds s x).foldl (fun (s1 : State) a => s1.fillTlb s.tick a) f).mem
    let t1 : State := { t with mem := bringLines s.health m s.cur none (codeMiss s x) }
    t1.mapUnit s.cur.uid fun u => { u with nextG := u.nextG + if mayStall s x && hasIssued s t then Config.stall s.tick else 0 }

/-- A step's outcome with its next state changed. -/
def onNext (f : State → State) : Host.Outcome State Fault Refusal → Host.Outcome State Fault Refusal
  | .next t => .next (f t)
  | o => o

/-- The LIW or bundle at the pc comes up for issue; it stalls while its fetch meets a line that no access can use (R299). -/
def issueNext (s : State) : Host.Outcome State Fault Refusal :=
  match fetch s with
  | .error f => .next (faulted (comeUp s) f)
  | .ok x => match fetchWaits s x with
    | some d => .next { s with cur := { s.cur with status := .waiting (.memory d) } }
    | none =>
      let d := delivered s x
      onNext (fun t => keepOrigins s d x (afterFetch s x t)) (match fetchedInstr s x, x with
        | some i, _ => exec i d
        | none, .bundle ops => .next (issueBundle ops d)
        | none, .liw l => .next (issueLiw l d))

/-- The step by which a waiting LIW is released. -/
def releaseInstr (s : State) : Wait → Option Instr
  | .fence _ => some .fenceRelease
  | .tlbi => some .tlbiRelease
  | .qwait => some .qwaitRelease
  | .join => some .joinRelease
  | .barrier => some .barrierRelease
  | .bwait => some (if arrivalsShort s then .bwaitDeadline else .bwaitRelease)
  | .endt => some .endtRelease
  | .rft => some .rftRelease
  | _ => none

/-- A unit that waits for its pending commands lets τ advance (R165, R273), unless it waits for accesses alone. -/
def drains (s : State) (w : Wait) : Bool :=
  match w with
  | .call _ => true
  | .endt => !s.task.cmds.isEmpty
  | .rft => !s.task.cmds.isEmpty
  | .leave .ended => !s.task.cmds.isEmpty
  | .leave (.rft _) => !s.task.cmds.isEmpty
  | _ => false

/-- What the unit in focus can do at this GCYC, when no event comes first; `none` when time must pass first. -/
def action (s : State) : Option (Host.Outcome State Fault Refusal) :=
  if !s.active then none
  else match s.cur.status with
    | .waiting (.syscall _) => some (exec .syscallAnswer s)
    | st =>
      if stalls s || s.gcyc < s.cur.nextG then none
      else if s.cur.lag ≠ 0 then some (.next (idleKept s))
      else match st with
        | .waiting (.call k) =>
          some (.next (if (s.cmd? k).isNone || (lateFault s.task).isSome then resumeCall s k else idleKept s))
        | .waiting (.unit n keep top) =>
          if s.cur.preempt && (switchPoint s).isSome then some (exec .switchOut s) else (unitStep s n keep top).map .next
        | .waiting (.leave l) =>
          if !leaveWaits s (couldIssue s) l then some (.next (leaveHeld s l)) else if drains s (.leave l) then some (.next (idleKept s)) else none
        | .waiting w =>
          if wouldWait s then (if drains s w then some (.next (idleKept s)) else none)
          else match releaseInstr s w with
            | some i => some (exec i s)
            | none => some (issueNext s)
        | _ => if s.cur.preempt && s.cur.atPoint && (switchPoint s).isSome then some (exec .switchOut s) else some (issueNext s)

/-- Another unit has something to do at this GCYC: all cores issue in one clock (R13, R18). -/
def laggard (s : State) : Option Nat :=
  (others s).find? fun u => (unitDue (s.focus u)).isSome || (action (s.focus u)).isSome

/-- What the unit in focus does when no event comes first. GCYC passes once no unit has anything left to do at it. -/
def foreground (s : State) : Host.Outcome State Fault Refusal :=
  match action s with
  | some o => o
  | none => match laggard s with
    | some u => .next (s.focus u)
    | none => .next (passGcyc s)

end Sys2Proof.Machine
end

