-- ==== Sys2Proof/Machine/Launchpad.lean ====
section
/-! DEFINITION. A state in which one instruction of the table is the next to be fetched (log 5): what a context's creation,
its page table, a LOAD, a launch and its placement would have left, and nothing else. -/

namespace Sys2Proof.Machine

/-- Where the text of a launchpad stands: its DEVICE address and the DPA of its page. -/
def padText : Nat := 0x10000

/-- The page table of a launchpad: level 1 at DPA 2^21, level 2 at 2^16, one 32 MiB page at 2^25, readable, writable,
executable at USER, under key slot 0 (R209, R210). -/
def padTables : Sparse 8 :=
  ssetMany [] (atAddr 0x10000 (natLe 8 0x200003F) ++ atAddr 0x200000 (natLe 8 0x10001))

/-- The bytes of the text: the LIW of a native row, or a bundle that holds a slot word in its place. -/
def padBytes (w : BitVec 32) : Bool × List Byte :=
  match placeTableWord w with
  | some (none, i) => match liwOf i with
    | some l => (false, (liwWords l).flatMap fun x => natLe 4 x.toNat)
    | none => (true, natLe 16 w.toNat)
  | some (some k, _) => (true, natLe 16 (w.toNat * 2 ^ (32 * k)))
  | none => (true, natLe 16 w.toNat)

/-- The module whose text is one LIW or one bundle. -/
def padModule (w : BitVec 32) : Module :=
  let b := padBytes w
  let base : Word := BitVec.ofNat 64 padText
  { id := 1, live := true, unload := false, native := (base, if b.1 then 0 else b.2.length), peman := (base, if b.1 then 16 else 0),
    text := (atAddr padText b.2).filter (fun x => x.2 ≠ 0), starts := if b.1 then [] else [base], exports := [], descs := [], routines := [] }

/-- The launch: one unit of 2 MiB at DL0, granted and placed. -/
def padLaunch : Launch :=
  { h := 1, graph := mkHandle 1 1, entry := 0, preds := [], record := 0, u := 1, kdesc := 0, lid := 0, est := 0, seed := 0,
    foot := { tile := 0x1FF000, queue := 0, wit := 0, spill := 0x1000 }, rset := 0, wset := 0, args := [], wl := false, gang := false,
    prio := 0, level := .dl0, granted := some 0, boost := 0, reserve := false, placed := [0], completed := 0, cancelled := 0,
    arrived := 0, barrier := [], counted := [], late := [], behind := [], taint := false, dead := false }

/-- The context, with the launch in a graph of its own. -/
def padCtx (w : BitVec 32) : Ctx :=
  { newCtx 0 [0, 1, 2, 3] with
    ptroot := 0x200000, keys := [0], modules := [padModule w], launches := [padLaunch],
    graphs := [{ newGroup (mkHandle 1 1) 0 0 (some 1) 0 0 0 with members := [1] }], serials := (1, 1, 0, 0) }

/-- The unit, about to issue its first LIW. -/
def padUnit (s : State) : QUnit :=
  { QUnit.reset with uid := s.nextUid, launch := 1, task := startTask padLaunch (BitVec.ofNat 64 padText) [] }

/-- The launchpad of a slot word or move word. -/
def launchpad (s : State) (w : BitVec 32) : State :=
  { s with
    on := true, cur := padUnit s, parked := [], nextUid := s.nextUid + 1, ctxs := [padCtx w],
    mem := { s.mem with view0 := padTables, writes := [], l2 := [], tlb := [], einj := 0 },
    health := { s.health with badCores := [], badDies := [] },
    fabric := { s.fabric with inbox := [], ports := [], shards := [] },
    board := { s.board with slots := [0], stopped := false, recovery := false, interval := s.gcyc / 1600000, refresh := refreshBank s.gcyc },
    inbox := [] }

end Sys2Proof.Machine
end

