-- ==== Sys2Proof/Machine/Step.lean ====
section
/-! DEFINITION. One step of the machine, and the placement of an instruction where the next step fetches it. -/

namespace Sys2Proof.Machine

/-- The state in which a free choice has been made; real time passes for the cached translations too (R214). -/
def State.ticked (s : State) : State := { s with tick := s.tick + 1, mem := driftTlb s.mem s.tick s.ctxs }

/-- What an outside input does. -/
def processInput (i : Input) (s : State) : Host.Outcome State Fault Refusal :=
  match i with
  | .row r => exec r s
  | .op o => .next (hostOp o s)

/-- A step among real-time events, other units and the unit in focus: which comes next is free (log 2). -/
def freeStep (s : State) : Host.Outcome State Fault Refusal :=
  match enabled s, others s with
  | [], [] => foreground s
  | es, us =>
    let k := Config.pick s.tick % (es.length + us.length + 1)
    match es[k]?, us[k - es.length]? with
    | some e, _ => exec e s.ticked
    | none, some u => if k < es.length + us.length then .next (s.ticked.focus u) else foreground s.ticked
    | none, none => foreground s.ticked

/-- One step: a stopped module answers to nothing but a reset (R368), one in recovery with its physical function alone (R364); the work
hierarchy's upkeep, an outside input that has come, an event that is due, then a free choice. -/
def step (s : State) : Host.Outcome State Fault Refusal :=
  if s.board.stopped || s.board.recovery then
    match takeAlways (!s.board.stopped) s.inbox with
    | some (i, r) => processInput i { s with inbox := r }
    | none => if s.board.stopped then .fault .moduleStopped else .next (passGcyc s)
  else match upkeep s with
    | some t => .next t
    | none => match takeInput s [] s.inbox with
      | some (i, r) => processInput i { s with inbox := r }
      | none => match due s with
        | some i => exec i s
        | none => freeStep s

/-- The machine with an instruction of the table stored where `step` fetches next (log 5). -/
def State.withFetchWord (s : State) (nbits w : Nat) : State := launchpad s (BitVec.ofNat 32 (w % 2 ^ nbits))

end Sys2Proof.Machine
end

