-- ==== Sys2Proof/Certificates/Slice0/Terms.lean ====
section
/-! DEFINITION. The terms of the statements: when the unit in focus is calm, what an issue leaves beside the effect of its
instruction, when a native row's move is performed, and what a frame keeps. -/

namespace Sys2Proof.Machine

/-- The unit in focus is a task's or a handler, nothing of it is in flight or outstanding, and its queue words are in range: an
LIW or bundle that comes up meets no check of R79, R176 or R221 but its own. -/
structure Still (s : State) : Prop where
  on     : s.on = true
  kind   : s.cur.kind = .user ∨ s.cur.kind = .handler
  cmds   : s.task.cmds = []
  pipe   : s.task.pipe = []
  fmt    : s.task.fmtPend = []
  loads  : s.task.loads = []
  queues : ∀ b ∈ s.task.queues, b.head < b.depth ∧ b.tail < b.depth

/-- The unit is still, and no loop level ends at its pc (R90). -/
structure Calm (s : State) : Prop extends Still s where
  noEnd  : endsAt s.task s.task.sq.pc = false

/-- The state after an issue that is followed by `lag` τ beyond its own, counts `trigs` triggers, and whose whole effect on the task
is `f`: what every issue leaves (R30, R79, R312, R359), and a pre-emption point where `point` says so, but inside no unit (R97,
R320). -/
def reached (s : State) (peman : Bool) (lag trigs : Nat) (point : Bool) (f : Task → Task) : State :=
  let s0 := comeUp s
  let s1 := ({ s0 with tick := if peman then s.tick + 1 else s.tick, cur := { s0.cur with status := .ready } }).mapTask f
  let s2 := if peman && !s1.inPeman then { s1.mapTask (openPorts s1.tick) with tick := s1.tick + 1 } else s1
  passTau lag trigs peman point (s.task.inUnit && s2.task.inUnit) s2

/-- The τ beyond its own that pass after a bundle (R312; log 3). -/
def bundleLag (s : State) : Nat := s.bundleLag s.task.sq.tau

/-- The triggers that the translation of a bundle counts (R359; log 19). -/
def bundleTrigs (s : State) : Nat := Config.bundleTriggers s.tick

/-- The triggers that the LIW of a lone bank A row with destination `dst` counts (R359). -/
def rowTrigs (dst : BitVec 10) : Nat := if isTrigA dst.toNat then 1 else 0

/-- A task goes on at an address. -/
def Task.goTo (t : Task) (pc : Word) : Task := { t with sq := { t.sq with pc := pc } }

/-- The state after a bundle whose effect beside the pc is `f` and which the next bundle follows. -/
def bundled (s : State) (f : Task → Task) : State :=
  reached s true (bundleLag s) (bundleTrigs s) false fun t => (f t).goTo (t.sq.pc + 16)

/-- The state after a bundle that goes on at `pc`. -/
def bundledTo (s : State) (pc : Word) (f : Task → Task) : State :=
  reached s true (bundleLag s) (bundleTrigs s) true fun t => (f t).goTo pc

/-- The state after the LIW of one native row with destination `dst` and move `m`, whose effect beside the pc is `f`, and
which the next LIW follows (R36, R79). -/
def issued (s : State) (dst : BitVec 10) (m : Mv) (f : Task → Task) : State :=
  reached s false 0 (rowTrigs dst) false fun t => (f t).goTo (t.sq.pc + BitVec.ofNat 64 (liwBytes (liwOfMove dst m)))

/-- The guard of a slot holds (R27). -/
def guardOn (s : State) (g : Gd) : Bool := s.task.guard g.p.toNat g.n

/-- The move of a native row is legal and performed: its guard, tag and loop flag hold, and it reads an immediate, the long
immediate or a readable port (R38, R39, R46). -/
structure Fires (s : State) (m : Mv) : Prop where
  live : moveLive s.task 5 m = true
  tag  : m.tag = 0 ∨ m.tag = 5
  flag : m.lf ≠ 7
  src  : m.imm = true ∨ isLong m = true ∨ readableA m.src.toNat = true

/-- The unit in focus, of any kind but a Tannery, has nothing pending, and no loop level ends at its pc: a task's, a handler's, or a
procedure of a system core (R303). -/
structure Rest (s : State) : Prop where
  on     : s.on = true
  kind   : s.cur.kind ≠ .tannery
  cmds   : s.task.cmds = []
  pipe   : s.task.pipe = []
  fmt    : s.task.fmtPend = []
  loads  : s.task.loads = []
  queues : ∀ b ∈ s.task.queues, b.head < b.depth ∧ b.tail < b.depth
  noEnd  : endsAt s.task s.task.sq.pc = false

/-- The source of a native row's move is one that a system core has, where the unit runs on one (R303). -/
def SystemSource (s : State) (m : Mv) : Prop := s.cur.isFirmware = true → m.imm = true ∨ isLong m = true ∨ fwPort m.src.toNat = true

/-- The state after the LIW of one native row with destination `dst` and move `m`, whose effect on the machine beside the pc is `g`, and
which the next LIW follows (R36, R79); a procedure onto whose core `g` has brought an error entry stands still (R304; log 20). -/
def issuedBy (s : State) (dst : BitVec 10) (m : Mv) (g : State → State) : State :=
  let s1 := ((g (comeUp s)).stillReady s.cur.status).mapTask fun t =>
    t.goTo (s.task.sq.pc + BitVec.ofNat 64 (liwBytes (liwOfMove dst m)))
  passTau 0 (rowTrigs dst) false false (s.task.inUnit && s1.task.inUnit) s1

/-- The value that the move of a native row carries; a long immediate of a lone row is 0 (R45; log 6). -/
def moved (s : State) (m : Mv) : Word := sourceA s.task m 0

/-! ### Reading and writing in the statements -/

/-- What a slot's scalar register field reads (R28, R41). -/
def State.reg (s : State) (a : BitVec 5) : Word := s.task.sreg a.toNat

/-- What a slot's predicate field reads (R29, R41). -/
def State.prd (s : State) (p : BitVec 4) : Bool := s.task.pred p.toNat

/-- A bank A port as a native row finds it. -/
def State.port (s : State) (p : Nat) : Word := s.task.ports.getA p

/-- A task with one scalar register written under its frame base; a write to s0 is ignored (R41). -/
def Task.put (t : Task) (d : BitVec 5) (v : Word) : Task := t.setSregAt t.fr.fb d.toNat v

/-- A task with one latch of bank A written. -/
def Task.putPort (t : Task) (p : Nat) (v : Word) : Task := { t with ports := t.ports.setA p v }

/-- A task with these results in flight and no other. -/
def Task.flying (t : Task) (ps : List Pipe) : Task := { t with pipe := ps }

/-- The instruction completes with its bundle, and its whole effect beside the pc is that `d` holds `v`. -/
def Writes (s : State) (i : Instr) (d : BitVec 5) (v : Word) : Prop :=
  exec i s = .next (bundled s fun t => t.put d v)

/-- The instruction completes with its bundle, and its whole effect beside the pc is that predicate `p` holds `b`. -/
def WritesPred (s : State) (i : Instr) (p : BitVec 4) (b : Bool) : Prop :=
  exec i s = .next (bundled s fun t => t.setPred p.toNat b)

/-- The LIW of a lone move `m` to trigger offset `off` of the scalar unit at `base` completes, and its whole effect beside
the pc is that the unit's .y holds `v`. -/
def GivesY (s : State) (base off : Nat) (m : Mv) (v : Word) : Prop :=
  ∀ dst : BitVec 10, dst.toNat = base + off →
    exec (.liwIssue (liwOfMove dst m)) s = .next (issued s dst m fun t => t.putPort (base + 3) v)

/-- Peman rows whose whole effect is one scalar register: the guard, the register and the value, of the registers as they stand (R123,
R126). -/
def scalarRow (s : State) : Instr → Option (Gd × BitVec 5 × Word)
  | .add g d a b => some (g, d, s.reg a + s.reg b)
  | .addI g d a i => some (g, d, s.reg a + i.signExtend 64)
  | .sub g d a b => some (g, d, s.reg a - s.reg b)
  | .mul g d a b => some (g, d, s.reg a * s.reg b)
  | .and g d a b => some (g, d, s.reg a &&& s.reg b)
  | .or g d a b => some (g, d, s.reg a ||| s.reg b)
  | .xor g d a b => some (g, d, s.reg a ^^^ s.reg b)
  | .sel g d a b p => some (g, d, if s.prd p = true then s.reg a else s.reg b)
  | .mov g d a => some (g, d, s.reg a)
  | .movi g d i => some (g, d, i.signExtend 64)
  | _ => none

/-- The relation of a CMP code (R33): 0 to 5 eq, ne, lt, le, gt, ge on signed values, 6 to 9 ltu, leu, gtu, geu. -/
def cmpHolds (x y : Word) : Nat → Bool
  | 0 => x == y
  | 1 => x != y
  | 2 => x.slt y
  | 3 => x.sle y
  | 4 => y.slt x
  | 5 => y.sle x
  | 6 => x.ult y
  | 7 => x.ule y
  | 8 => y.ult x
  | _ => y.ule x

/-- The instruction completes with its bundle, and its whole effect beside the pc is that `d` holds an FP32 result,
zero-extended, and that its flags are set (R66, R118). -/
def WritesFloat (s : State) (i : Instr) (d : BitVec 5) (r : Lane × Flags) : Prop :=
  exec i s = .next (bundled s fun t => (t.put d (r.1.setWidth 64)).addFlags r.2)

/-- The low half of a scalar register: an FP32 value (R118). -/
def State.reg32 (s : State) (a : BitVec 5) : Lane := (s.reg a).extractLsb' 0 32

/-- The low half of a bank A port. -/
def State.port32 (s : State) (p : Nat) : Lane := (s.port p).extractLsb' 0 32

/-- A NaN of FP32 (R56). -/
def nan32 (x : Lane) : Bool := x.extractLsb' 23 8 == 0xFF && x.extractLsb' 0 23 != 0

/-- The two scalar integer units, by the first port of their block (R116). -/
def ScalarUnit (base : Nat) : Prop := base = 128 ∨ base = 192

/-! ### Vectors in the statements -/

/-- Lane `l` is active under mask register `k`; k0 reads all ones (R43, R120). -/
def activeLane (s : State) (k : BitVec 3) (l : Nat) : Bool := (s.task.mask k.toNat).getLsbD l

/-- The instruction completes with its bundle: each active lane `l` of `v` holds `(f l).1`, every other lane of every vector
register its old value, the flags of the active lanes are set (R62), and nothing else changes. -/
def WritesLanes (s : State) (i : Instr) (v : BitVec 5) (k : BitVec 3) (f : Nat → Lane × Flags) : Prop :=
  ∃ (r : Sparse 32) (fl : Flags), exec i s = .next (bundled s fun t => ({ t with vregs := r }).addFlags fl) ∧
    (∀ (w : BitVec 5) (l : Nat), l < 128 →
      sget r (128 * w.toNat + l) = if w = v ∧ activeLane s k l = true then (f l).1 else s.task.vlane w.toNat l) ∧
    fl.nv = ((List.range 128).any fun l => activeLane s k l && (f l).2.nv) ∧
    fl.dz = ((List.range 128).any fun l => activeLane s k l && (f l).2.dz) ∧
    fl.ovf = ((List.range 128).any fun l => activeLane s k l && (f l).2.ovf) ∧
    fl.nf = ((List.range 128).any fun l => activeLane s k l && (f l).2.nf)

/-! ### Control in the statements -/

/-- The state after an LIW of one native row that transfers to `pc`. -/
def issuedTo (s : State) (pc : Word) (f : Task → Task) : State :=
  reached s false 0 1 true fun t => (f t).goTo pc

/-- The address of the LIW after the one of a native row. -/
def afterRow (s : State) (dst : BitVec 10) (m : Mv) : Word := s.task.sq.pc + BitVec.ofNat 64 (liwBytes (liwOfMove dst m))

/-- A task whose transfer to `pc` has left the loop levels that do not hold it: the innermost levels of the current depth are
popped up to the first whose body holds `pc` (R86). -/
def Task.leave (t : Task) (pc : Word) : Task :=
  { t with sq := { t.sq with loops := t.sq.loops.dropWhile fun l =>
      l.depth == t.fr.depth && !(l.start.toNat ≤ pc.toNat && pc.toNat ≤ l.stop.toNat) } }

/-- A task after the call action (R103), once the spills have led to `t`. -/
def Task.called (t : Task) (ret : Word) (o : Nat) : Task :=
  { t with fr := { t.fr with links := { ret := ret, o := o } :: t.fr.links, fb := t.fr.fb + o, depth := t.fr.depth + 1 } }

/-- The checks that every call makes hold, and its spills lead to `t` (R103). -/
structure CallFits (s : State) (o : Nat) (t : Task) : Prop where
  depth : s.task.fr.depth ≠ 255
  s2    : s.task.s2.toNat % 8 = 0
  plan  : planSpills o 256 s.task = some t

/-- A task after a return from the current frame, once the caller's frame is in place in `t` (R93, R109, R318, R319). -/
def Task.returned (t : Task) (o depth : Nat) : Task :=
  { t with
    fr := { t.fr with links := t.fr.links.tail, fb := subFb t.fr.fb o, depth := t.fr.depth - 1 },
    sq := { t.sq with loops := t.sq.loops.filter fun l => l.depth ≠ depth },
    restart := t.restart.filter fun r => r.depth < depth,
    calls := t.calls.filter fun x => x.depth < depth }

/-- The level that a LOOP pushes (R87, R89). -/
def newLevel (t : Task) (start stop after : Word) (n : Nat) : Loop :=
  { start := start, stop := stop, after := after, n := n, e := t.sq.cfg.e.toNat, r := t.sq.cfg.r, j := 0,
    reg0 := sregAt t.fr.fb t.sq.cfg.reg0.toNat, reg1 := sregAt t.fr.fb t.sq.cfg.reg1.toNat, en0 := t.sq.cfg.en0,
    en1 := t.sq.cfg.en1, stride0 := t.sq.cfg.stride0, stride1 := t.sq.cfg.stride1, depth := t.fr.depth }

/-- The conditions under which a LOOP with a count and an end runs (R89). -/
structure LoopFits (s : State) (count stop : Word) : Prop where
  count : count.toNat < 2 ^ 32
  inner : ∀ l, s.task.sq.loops.head? = some l → l.depth = s.task.fr.depth → stop.toNat < l.stop.toNat
  rot   : s.task.sq.cfg.r = true → ∀ l ∈ s.task.sq.loops, l.r = false
  room  : s.task.sq.loops.length < 6

/-! ### The scratchpad in the statements -/

/-- A byte of LOCAL of the task in focus. -/
def State.byte (s : State) (a : Nat) : Byte := sget s.task.lmem a

/-- An access of `n` bytes passes R150: aligned, inside the scratchpad, inside the task's F. -/
def InLocal (s : State) (ea : Word) (n : Nat) : Prop :=
  ea.toNat % n = 0 ∧ ea.toNat + n ≤ 0x200000 ∧ ea.toNat + n ≤ s.task.f

/-- No byte of the range belongs to a bound control word (R158). -/
def OffControl (s : State) (a n : Nat) : Prop := ∀ b ∈ s.task.queues, a + n ≤ b.addr ∨ b.addr + 16 ≤ a

/-- A word holds the `n` bytes of LOCAL from `a` in its low bytes, least significant first, zero- or sign-extended. -/
def Loaded (s : State) (a n : Nat) (sx : Bool) (v : Word) : Prop :=
  (∀ k < n, v.extractLsb' (8 * k) 8 = s.byte (a + k)) ∧
    ∀ j < 64, 8 * n ≤ j → v.getLsbD j = (sx && (s.byte (a + n - 1)).getLsbD 7)

/-- A LOCAL image differs from the task's in the `n` bytes from `a` alone, which hold the low bytes of `v`. -/
def Stored (s : State) (a n : Nat) (v : Word) (m : Sparse 8) : Prop :=
  ∀ x, sget m x = if a ≤ x ∧ x < a + n then v.extractLsb' (8 * (x - a)) 8 else s.byte x

/-- A lone operation faults: nothing of its bundle stands, and the fault is taken (R79, R289). -/
def FaultsAt (s : State) (i : Instr) (code : FaultCode) (tval : Word) (bus : BitVec 8) : Prop :=
  exec i s = .next (faulted (comeUp s) { code := code, tval := tval, bus := bus })

/-- The base register, the offset field and the size of a LOCAL access of Peman (R151). -/
def localForm : Instr → Option (BitVec 5 × BitVec 11 × Nat)
  | .ldB _ _ b i => some (b, i, 1)
  | .ldH _ _ b i => some (b, i, 2)
  | .ldW _ _ b i => some (b, i, 4)
  | .ldD _ _ b i => some (b, i, 8)
  | .ldSb _ _ b i => some (b, i, 1)
  | .ldSh _ _ b i => some (b, i, 2)
  | .ldSw _ _ b i => some (b, i, 4)
  | .stB _ _ b i => some (b, i, 1)
  | .stH _ _ b i => some (b, i, 2)
  | .stW _ _ b i => some (b, i, 4)
  | .stD _ _ b i => some (b, i, 8)
  | .vld _ _ b i => some (b, i, 512)
  | .vst _ _ b i => some (b, i, 512)
  | _ => none

/-- The guard of a Peman slot; a native row and a step have none. -/
def guardOf (i : Instr) : Gd := match slotOf i with
  | some x => x.gd
  | none => Gd.always

/-- The line that a walk for some DEVICE ranges of the unit in focus meets and that no access can use now (R299). -/
def walkStop (s : State) (rs : List (Nat × Nat)) : Option Nat :=
  (rs.flatMap fun r => chunks r.1 r.2).findSome? fun x => walkBlocked s (BitVec.ofNat 64 x.1)

/-- A CALLI to descriptor address `d` with expected class `cls` (R46, R106): what its checks raise, in their order, and `go` from the
state that has read the descriptor, to the native entry that stands there. -/
def CallsBy (s : State) (i : Instr) (d : Word) (cls : BitVec 16) (go : State → Word → State) : Prop :=
  if (s.curCtx.desc? d).isNone then FaultsAt s i .callSig 0 0
  else match walkStop s [(d.toNat, 64)] with
  | some x => exec i s = .next (held (comeUp s) (.memory x))
  | none => match coreAccess s d 1 .read with
  | .error f => FaultsAt s i f d 0
  | .ok p =>
    let entry : Word := BitVec.ofNat 64 (descField s p 8 8)
    match s.readWaits [(p, 64)] with
    | some x => exec i s = .next (held (comeUp s) (.memory x))
    | none =>
      if descField s p 16 2 ≠ cls.toNat then FaultsAt s i .callSig 0 0
      else if s.isStart entry = false then FaultsAt s i .illegal 0 0
      else exec i s = .next (go { s with mem := (s.fillTlb s.tick d).fetched [(p, 64)] } entry)

/-! ### DEVICE memory in the statements -/

/-- A task with one more outstanding access (R221): its destination `d` is pending, unless it is s0; writes numbered from `mark` on come
after it (R229). -/
def Task.outstanding (t : Task) (mark d : Nat) (r : LoadReq) : Task :=
  { t with loads := t.loads ++ [{ r with id := t.nextCmd, dest := if d = 0 then none else some (sregAt t.fr.fb d), mark := mark }],
           nextCmd := t.nextCmd + 1 }

/-- The writes in flight that the values of some registers were read from (R229). -/
def State.regsFrom (s : State) (rs : List (BitVec 5)) : List Nat :=
  originIds s.cur.origins (rs.map fun r => regKey (sregAt s.task.fr.fb r.toNat))

/-- The writes in flight that the operands of a lone row at port `dst` of the unit at `base`, or the value moved to it, were read from
(R229). -/
def State.rowFrom (s : State) (base : Nat) (dst : BitVec 10) : List Nat :=
  originIds s.cur.origins ([dst.toNat, base, base + 1, base + 2].map portKey)

/-- The walks for some DEVICE ranges meet no line that no access can use (R299). -/
def WalksFree (s : State) (rs : List (Nat × Nat)) : Prop :=
  ∀ r ∈ rs, ∀ x ∈ chunks r.1 r.2, walkBlocked s (BitVec.ofNat 64 x.1) = none

/-- An access of a core passes R212, with its DPA, and its walk meets no line that no access can use (R299). -/
def Passes (s : State) (va : Word) (align : Nat) (k : Access) (dpa : Nat) : Prop :=
  coreAccess s va align k = .ok dpa ∧ walkBlocked s va = none

/-- The memory holds the same bytes, weight stores and writes in flight; caches may differ. -/
def SameBytes (m n : Memory) : Prop :=
  (∀ d, n.view d = m.view d) ∧ (∀ d, n.ws d = m.ws d) ∧ n.residue = m.residue ∧ n.writes = m.writes ∧ n.nextW = m.nextW ∧
    n.nextHome = m.nextHome

/-- The write that a store of the unit in focus enters, after the writes `ids` that its address or data was read from and those that
its fences order (R223, R229). -/
def newWrite (s : State) (ids : List Nat) (dpa n : Nat) (v : Word) : DevWrite :=
  { id := s.mem.nextW, bytes := atAddr dpa (natLe n v.toNat), ctx := s.cur.ctx, uid := some s.cur.uid, die := coreDie s.cur.core,
    deps := (ids.map (fun i => (i, Scope.sys)) ++ s.cur.fenced).filter (fun d => s.mem.writes.any fun x => x.id = d.1), homed := none,
    dies := [] }

/-- The state whose memory has one more write in flight, of the unit in focus. -/
def State.entering (s : State) (m : Memory) (w : DevWrite) : State :=
  { s with mem := { m with writes := m.writes ++ [w], nextW := m.nextW + 1 },
           cur := { s.cur with seen := m.nextW :: s.cur.seen } }

/-- What a unit that offers to leave its core after an issue comes to, where nothing of it is pending (R273, R292): `gone` once its writes
are applied at SYS scope; until then it waits. -/
def leftAs (u : State) (l : Leaving) (gone : State) : State :=
  if writesApplied u.mem u.cur .sys then gone else { u with cur := { u.cur with status := .waiting (.leave l) } }

/-- No other unit bears the number of the unit in focus. -/
def Alone (s : State) : Prop := ∀ u ∈ s.parked, u.uid ≠ s.cur.uid

/-! ### Bank B rows and the fabric in the statements -/

/-- The move of a native row of cluster `c` is legal and performed: its guard, tag and loop flag hold, and it reads an immediate,
the long immediate or a readable port of its cluster (R38, R39, R46). -/
structure FiresB (s : State) (c : BitVec 3) (m : Mv) : Prop where
  live : moveLive s.task 5 m = true
  tag  : m.tag = 0 ∨ m.tag = 5
  flag : m.lf ≠ 7
  src  : m.imm = true ∨ isLong m = true ∨ (m.src.toNat / 128 = c.toNat ∧ readableB (m.src.toNat % 128) = true)

/-- The 16 lanes that the move of a bank B row carries. -/
def carried (s : State) (m : Mv) : List Lane := (sourceB s.task m 0).1

/-- The triggers that the LIW of a lone bank B row with destination `dst` counts (R359). -/
def rowTrigsB (dst : BitVec 10) : Nat := if (trigUnitB (dst.toNat % 128)).isSome then 1 else 0

/-- The state after the LIW of one native row of bank B with destination `dst`, as `issued` for bank A. -/
def issuedB (s : State) (dst : BitVec 10) (m : Mv) (f : Task → Task) : State :=
  reached s false 0 (rowTrigsB dst) false fun t => (f t).goTo (t.sq.pc + BitVec.ofNat 64 (liwBytes (liwOfMoveB dst m)))

/-- The LIW of a lone move `m` to trigger offset `off` of cluster `c`'s unit at `base` completes, and its whole effect beside the pc is one
result in flight for the unit's .y with flags `fl`, readable after the unit's latency (two τ for alu, five for mul, eight for sfu): where
`on l`, lane `l` is written and holds `f l`. -/
def GivesB (s : State) (c : BitVec 3) (base off : Nat) (m : Mv) (on : Nat → Bool) (f : Nat → Lane) (fl : Flags) : Prop :=
  let dst : BitVec 10 := BitVec.ofNat 10 (128 * c.toNat + off)
  ∃ p : Pipe, exec (.liwIssue (liwOfMoveB dst m)) s = .next (issuedB s dst m fun t => t.flying [p]) ∧
    p.ready = s.task.sq.tau + (if base = 72 then 2 else if base = 94 then 5 else 8) ∧ p.dest = .latchB (128 * c.toNat + base + 3) ∧
    p.flags = fl ∧ ∀ l < 16, p.mask.getLsbD l = on l ∧ (on l = true → p.lanes[l]? = some (f l))

/-- The eight clusters. -/
def everyCluster : List (BitVec 3) := [0, 1, 2, 3, 4, 5, 6, 7]

/-- The LIW of eight moves, one to trigger offset `off` in every cluster, each on its cluster's first bus. -/
def liwOfClusters (off : Nat) (m : BitVec 3 → Mv) : Liw :=
  { maskA := 0, hasB := true, pop := 0, nt := 0, tests := 0, maskB := 0x11111111,
    moves := everyCluster.map fun c => { dst := BitVec.ofNat 10 (128 * c.toNat + off), mv := m c }, targets := [],
    longs := (everyCluster.filter fun c => isLong (m c)).map fun _ => 0 }

/-- The LIW of two bank A moves and nothing else. -/
def liwOfTwo (a b : Move) : Liw :=
  { maskA := 3, hasB := false, pop := 0, nt := 0, tests := 0, maskB := 0, moves := [a, b], targets := [],
    longs := ([a, b].filter fun x => isLong x.mv).map fun _ => 0 }

/-- A state is `s` but for one more message of context `cid` with tables `b`, for rank `dst`: into this package's inbox, or out of it,
which is charged (R359); mirroring and weight return wait where no route of their version is known (R326). -/
def Sends (s t : State) (cid : Nat) (b : BraidTab) (dst : Nat) (m : Msg) : Prop :=
  t = if b.here dst then { s with fabric := { s.fabric with inbox := s.fabric.inbox ++ [{ msg := m, again := 0, begun := none }] } }
    else if msgVersion m ≠ 0 && !carries s b dst (msgVersion m) then
      { s with fabric := { s.fabric with stuck := s.fabric.stuck ++ [(cid, dst, m)] } }
    else ({ s with fabric := { s.fabric with outbox := s.fabric.outbox ++ [((b.pkg dst).getD 0, m)] } }).addEnergy cid agentCore 5
      (flitEnergy m)

/-- A state is `s` but for the status `code` on its way to the sender of a command (R333). -/
def Tells (s t : State) (b : BraidTab) (o : Origin) (code : Nat) : Prop :=
  Sends s t o.ctx b o.rank (.status o code false false)

/-- Several messages, each with its destination, are sent in their order. -/
def SendsAll (cid : Nat) (b : BraidTab) : List (Nat × Msg) → State → State → Prop
  | [], s, t => t = s
  | x :: xs, s, t => ∃ u, Sends s u cid b x.1 x.2 ∧ SendsAll cid b xs u t

/-- Each command hears the status `code` with the flags NV and OF of `f` (R333). -/
def TellsAll (s t : State) (cid : Nat) (b : BraidTab) (os : List Origin) (code : Nat) (f : Flags) : Prop :=
  SendsAll cid b (os.map fun o => (o.rank, .status o code f.nv f.ovf)) s t

/-- What one member contributes to a round of a reduction (R339). -/
structure Contribution where
  o     : Origin
  n     : Nat
  op    : Nat
  all   : Bool
  win   : Nat
  doff  : Word
  bytes : List Byte

/-- The message of a contribution to round `k` of a group with members `ms`. -/
def Contribution.msg (c : Contribution) (g k : Nat) (tag : BitVec 16) (ms : List Nat) : Msg :=
  .bred c.o g k c.n c.op c.all c.win c.doff tag ms c.bytes

/-- Two contributions agree in N, OP, ALL, WIN and DOFF (R339). -/
def Contribution.agrees (a b : Contribution) : Prop :=
  a.n = b.n ∧ a.op = b.op ∧ a.all = b.all ∧ a.win = b.win ∧ a.doff = b.doff

/-! ### Invariants -/

/-- Every byte memory of the machine stands in its canonical form: the package's memories, each task's scratchpad, the firmware's
text and scratchpads, the host's memory. -/
structure State.Canonical (s : State) : Prop where
  mem     : s.mem.wf = true
  units   : ∀ u ∈ s.cur :: s.parked, swf u.task.lmem = true
  fwText  : swf s.board.fwText = true
  fwLocal : ∀ x ∈ s.board.fwLocal, swf x.2 = true
  host    : swf s.board.host = true

/-- The privilege level at which units of a kind run (R279, R288, R303, R341). -/
def UnitKind.level : UnitKind → Priv
  | .user => .user
  | .handler => .supervisor
  | .firmware => .system
  | .errorEntry => .system
  | .tannery => .supervisor

/-- Every unit runs at the level of its kind. -/
def State.Privileges (s : State) : Prop := ∀ u ∈ s.cur :: s.parked, u.priv = u.kind.level

end Sys2Proof.Machine
end

