-- ==== Sys2Proof/Certificates/Slice0/Obligations.lean ====
section
/-! DEFINITION. The statements about the machine, for the provers. Each says what the rules that its docstring names say of the model;
a clause that rests on a choice of the model names the log entry (notes/assumptions). -/

open Sys2Proof Sys2Proof.Machine

/-- Words of the spec's own encodings, written out bit by bit, decode to the rows they stand for: (p3) add s9, s9, s10; ld.w s12,
[s8+16]; st.w s13, [s9-4]; vfma v3, v1, v2; cmp.lt p5, s9, s10; call of slide 4, 20 bundles on; ffma s12, s9, s10; and, natively,
alone in an LIW, s12 to bte.cpy and the immediate 0 to mem.fence.die. The all-zero slot word is NOP (R27, R28, R31, R34, R36, R38,
R42). -/
def Obligations.DecodeWords : Prop :=
  let g : Gd := Gd.always
  decodeSlot .s0 0b00110000001010010100101010000000 = some (.add { p := 3, n := false } 9 9 10) ∧
  decodeSlot .s1 0b00000101000011000100000000000100 = some (.ldW g 12 8 4) ∧
  decodeSlot .s1 0b00000101111011010100111111111111 = some (.stW g 13 9 0x7FF) ∧
  decodeSlot .v 0b00000000100000110000100010000000 = some (.vfma g 3 1 2 0) ∧
  decodeSlot .s0 0b00000100001001010100101010000010 = some (.cmp g 5 9 10 2) ∧
  decodeSlot .s0 0b00000110010001000000000000010100 = some (.call g 4 20) ∧
  decodeSlot .s0 0b00000101001011000100101010000000 = some (.ffma g 12 9 10) ∧
  (∀ c, decodeSlot c 0 = some .nop) ∧
  decodeNative ([0x80000000, 1, 0b10110001010000001100000000000000].flatMap bytesOfWord) =
    some (.cpy ⟨12, false, 0, false, 0, 0⟩, []) ∧
  decodeNative ([0x80000000, 1, 0b01110101010000000000100000000000].flatMap bytesOfWord) =
    some (.fenceNative 1 ⟨0, true, 0, false, 0, 0⟩, [])

/-- No bit of an encoding is dropped: the slot word of every well-formed Peman row decodes to that row in its slot and encodes it
again; the bytes of every well-formed native row, and of every LIW whose lists have the lengths of its headers, decode to it,
whatever follows (R26 to R28, R31 to R34, R36 to R38, R46). -/
def Obligations.DecodeEncode : Prop :=
  (∀ (i : Instr) (x : Slot), slotOf i = some x → i.wf = true → decodeSlot (slotClass (slotNumber i)) (encodeSlot i) = some i) ∧
  (∀ (c : SlotClass) (w : BitVec 32) (i : Instr), decodeSlot c w = some i → encodeSlot i = w) ∧
  (∀ (i : Instr) (m : Move) (rest : List Byte), nativeMove i = some m → i.wf = true →
    decodeNative ((encode i).flatMap bytesOfWord ++ rest) = some (i, rest)) ∧
  ∀ (l : Liw) (rest : List Byte), l.wf = true → decodeLiw ((encode (.liwIssue l)).flatMap bytesOfWord ++ rest) = some (l, rest)

/-- A step runs the decoded instruction: where no upkeep, no input, no event that is due, no real-time event and no other unit comes
first and the unit issues, step is exec of the row that the LIW at the pc is, or of LIW_ISSUE with the whole LIW, on the state in
which the ports know which writes in flight their values were read from; in Peman text exec of the one operation of the bundle at
the pc where it stands in its own slot, of NOP for an empty one, and for every other bundle, a lone scalar operation in slot 1 among
them, the issue of all that it holds. What the step adds after it is the fetch's part in the caches and what the results were read
from. A fetch that meets a line that no access can use waits for it; one that is refused, in either layer, or text that does not
decode, takes its fault (R31, R36, R79, R81, R212, R215, R229, R299). -/
def Obligations.StepRunsDecoded : Prop :=
  ∀ s : State, s.board.stopped = false → s.board.recovery = false → upkeep s = none → takeInput s [] s.inbox = none → due s = none →
    enabled s = [] → others s = [] → s.on = true → s.cur.status = .ready → s.cur.preempt = false → stalls s = false → s.cur.lag = 0 →
    s.cur.nextG ≤ s.gcyc →
    let pc := s.task.sq.pc
    let bytes := s.textBytes pc maxLiwBytes
    let bad : State := faulted (comeUp s) { code := .illegal, tval := 0, bus := 0xFF }
    let after : Fetched → Host.Outcome State Fault Refusal → Host.Outcome State Fault Refusal := fun x =>
      onNext fun t => keepOrigins s (delivered s x) x (afterFetch s x t)
    (∀ (x : Fetched) (d : Nat), fetch s = .ok x → fetchWaits s x = some d →
      step s = .next { s with cur := { s.cur with status := .waiting (.memory d) } }) ∧
    (s.inPeman = false →
      (∀ f, fetchFault s 1 = some f → step s = .next (faulted (comeUp s) f)) ∧
      (fetchFault s 1 = none → decodeLiw bytes = none → step s = .next bad) ∧
      ∀ l r, fetchFault s 1 = none → decodeLiw bytes = some (l, r) → fetchFault s (liwBytes l) = none → fetchWaits s (.liw l) = none →
        ∃ i, decodeNative bytes = some (i, r) ∧ step s = after (.liw l) (exec i (delivered s (.liw l))) ∧
          (i = .liwIssue l ∨ liwOf i = some l)) ∧
    (s.inPeman = true →
      (∀ f, fetchFault s 16 = some f → step s = .next (faulted (comeUp s) f)) ∧
      (fetchFault s 16 = none → decodeBundle (s.textBytes pc 16) = none → step s = .next bad) ∧
      ∀ a b c d, fetchFault s 16 = none → decodeBundle (s.textBytes pc 16) = some [a, b, c, d] →
        let ops : List (Nat × Instr) := [(0, a), (1, b), (2, c), (3, d)]
        let busy := ops.filter fun y => y.2 ≠ .nop
        fetchWaits s (.bundle ops) = none →
        (busy = [] → step s = after (.bundle ops) (exec .nop s)) ∧
        (∀ y, busy = [y] → slotNumber y.2 = y.1 → step s = after (.bundle ops) (exec y.2 s)) ∧
        (busy ≠ [] → (∀ y, busy = [y] → slotNumber y.2 ≠ y.1) → step s = after (.bundle ops) (.next (issueBundle ops s))))

/-- The order of what happens: a module that has stopped answers to a reset alone, one in recovery to what its physical function
takes (R364); then the work hierarchy's upkeep; then an outside input that has come and can be processed; then an event that is due;
else one of the enabled real-time events, or another unit comes into focus, or the unit in focus goes on (R18, R79; which one comes
is the model's free choice, log 1, log 2, log 5). No instruction or event ends in a fault or a refusal of the model: each answers a
next state. -/
def Obligations.StepOrder : Prop :=
  ∀ s : State,
    let halted := s.board.stopped = true ∨ s.board.recovery = true
    (s.board.stopped = true → (∀ x ∈ s.inbox, ∀ l, x ≠ .row (.moduleReset l)) → step s = .fault .moduleStopped) ∧
    (s.board.stopped = false → s.board.recovery = true → (∀ x ∈ s.inbox, x.always true = false) → step s = .next (passGcyc s)) ∧
    (halted → ∀ l r, s.inbox = .row (.moduleReset l) :: r → step s = exec (.moduleReset l) { s with inbox := r }) ∧
    (s.board.stopped = false → s.board.recovery = true → ∀ x r, s.inbox = x :: r → x.always true = true →
      step s = processInput x { s with inbox := r }) ∧
    (¬ halted → (∀ t, upkeep s = some t → step s = .next t) ∧ (upkeep s = none →
      (∀ i r, takeInput s [] s.inbox = some (i, r) →
        step s = processInput i { s with inbox := r } ∧ i.now s = true ∧ i ∈ s.inbox ∧ ∀ x ∈ r, x ∈ s.inbox) ∧
      (takeInput s [] s.inbox = none → (∀ i, due s = some i → step s = exec i s) ∧
        (due s = none →
          step s = foreground s ∨ step s = foreground s.ticked ∨ (∃ e ∈ enabled s, step s = exec e s.ticked) ∨
          ∃ u ∈ s.parked, u.active = true ∧ step s = .next (s.ticked.focus u.uid)) ∧
        (due s = none → ∀ k e, (enabled s)[k]? = some e → Config.pick s.tick % ((enabled s).length + (others s).length + 1) = k →
          step s = exec e s.ticked)))) ∧
    ∀ i : Instr, ∃ t, exec i s = .next t

/-- What every issue keeps: the memories, the other units, the package but for its meters, the fabric; of the contexts all but the
energy of the unit's own; of the unit its identity, its level and its place; and of its task all but what its instruction does and
τ, when its next LIW or bundle is of the same layer. GCYC does not pass at the issue, and the next issue comes a GCYC later or more
(the model's choice, log 1), after the further τ that a bundle's translation takes (log 3). A pre-emption point stands where the
issue leaves one, or where the bundle that may follow would make a straight run of translated code longer than 4,096 LIWs, each
further τ of a bundle counted as an LIW of it (log 3), but inside no unit (R30, R79, R97, R320, R359). A slot whose guard is false
does nothing, and neither does a move whose guard, path tag or loop flag does not hold: the bundle or LIW completes and the next one
follows (R27, R30, R38, R39). A bundle one of whose operations names a register with a load outstanding waits, and nothing of it
stands; an operation on registers that names none completes, and the load stays outstanding (R30, R221). -/
def Obligations.IssueFrame : Prop :=
  (∀ (s : State) (peman : Bool) (lag trigs : Nat) (point : Bool) (f : Task → Task), Still s →
     let t := reached s peman lag trigs point f
     let u := f s.task
     t.mem = s.mem ∧ t.parked = s.parked ∧ t.on = true ∧ t.health = s.health ∧ t.fabric = s.fabric ∧
     t.board = { s.board with meters := t.board.meters } ∧
     t.inbox = s.inbox ∧ t.nextUid = s.nextUid ∧ t.gcyc = max s.gcyc s.cur.nextG ∧ t.gcyc < t.cur.nextG ∧ t.cur.lag = lag ∧
     t.cur.uid = s.cur.uid ∧ t.cur.ctx = s.cur.ctx ∧ t.cur.launch = s.cur.launch ∧ t.cur.index = s.cur.index ∧
     t.cur.core = s.cur.core ∧ t.cur.lcore = s.cur.lcore ∧ t.cur.kind = s.cur.kind ∧ t.cur.priv = s.cur.priv ∧
     t.cur.serves = s.cur.serves ∧ t.cur.trap = s.cur.trap ∧ t.cur.status = .ready ∧
     t.cur.atPoint = (!(s.task.inUnit && u.inUnit) && (point || (peman && decide
       (4096 < s.cur.run + 1 + lag + 1 + t.bundleLag (t.task.sq.tau + lag))))) ∧
     (∃ e, t.cur.energy = meterAdd s.cur.energy e ∧ t.ctxs = s.ctxs.map fun c => if c.id = s.cur.ctx then
       { c with energy := { c.energy with metered := meterAdd c.energy.metered e } } else c) ∧
     (peman = false ∨ (s.curCtx.modules.any fun m => m.inPeman u.sq.pc) = true →
       t.task = { u with sq := { u.sq with tau := u.sq.tau + 1 } })) ∧
  ((∀ (s : State) (i : Instr) (x : Slot), Calm s → slotOf i = some x → guardOn s x.gd = false →
     exec i s = .next (bundled s fun t => t)) ∧
   ∀ (s : State) (dst : BitVec 10) (m : Mv), Calm s → writableA dst.toNat = true → dst ≠ 75 → (m.tag = 0 ∨ m.tag = 5) → m.lf ≠ 7 →
     (m.imm = true ∨ isLong m = true ∨ readableA m.src.toNat = true) → moveLive s.task 5 m = false →
     exec (.liwIssue (liwOfMove dst m)) s = .next (reached s false 0 0 false fun t => t.goTo (afterRow s dst m))) ∧
  ((∀ (s : State) (i : Instr) (x : Slot), s.on = true → (s.cur.kind = .user ∨ s.cur.kind = .handler) → s.task.cmds = [] →
     s.task.fmtPend = [] → endsAt s.task s.task.sq.pc = false → slotOf i = some x → guardOn s x.gd = true →
     (∃ r ∈ x.regs, s.task.pending (sregAt s.task.fr.fb r) = true) → exec i s = .next (held (comeUp s) .load)) ∧
   ∀ (s : State) (g : Gd) (d a b : BitVec 5), s.on = true → (s.cur.kind = .user ∨ s.cur.kind = .handler) → s.task.cmds = [] →
     s.task.fmtPend = [] → s.task.pipe = [] → (∀ q ∈ s.task.queues, q.head < q.depth ∧ q.tail < q.depth) →
     endsAt s.task s.task.sq.pc = false → guardOn s g = true →
     (∀ r ∈ [d, a, b], s.task.pending (sregAt s.task.fr.fb r.toNat) = false) →
     ∀ op ∈ ([.add g d a b, .sub g d a b, .mul g d a b, .and g d a b, .or g d a b, .xor g d a b, .shl g d a b, .min g d a b false] : List
       Instr), ∃ t, exec op s = .next t ∧ t.task.loads = s.task.loads ∧ t.task.sq.tau = s.task.sq.tau + 1 ∧ t.cur.status = .ready)

/-- The frame of the operations of Peman that write one scalar register: when such an operation completes, every scalar register but
its destination, every predicate, mask register, vector lane, byte of the scratchpad, sticky flag and control register, and every
byte of DEVICE memory as each die sees it, reads as before (R30, R41, R83, R123 to R126). The slots of one bundle read the state at
its start and write at its end: where two slots whose guards hold write one register, the write of the higher slot stands, and a
guard that fails writes nothing; a store in slot 1 stores what its register held at the start, whatever slot 0 writes, and a load
there writes after slot 0; two vector slots write their active lanes in slot order (R30). -/
def Obligations.RegisterFrames : Prop :=
  (∀ (s : State) (g : Gd) (d a b : BitVec 5) (i : BitVec 11) (k : BitVec 6) (w : BitVec 16) (p : BitVec 4) (x : Bool) (t : State),
     Calm s → ∀ op ∈ ([.add g d a b, .addI g d a i, .sub g d a b, .mul g d a b, .mulh g d a b x, .div g d a b x, .rem g d a b x,
       .and g d a b, .andI g d a i, .or g d a b, .orI g d a i, .xor g d a b, .xorI g d a i, .andn g d a b, .shl g d a b, .shlI g d a k,
       .shr g d a b, .shrI g d a k, .sar g d a b, .sarI g d a k, .rol g d a b, .rolI g d a k, .min g d a b x, .max g d a b x,
       .clz g d a, .popc g d a, .bfx g d a b x, .bfi g d a b, .sel g d a b p, .mov g d a, .movi g d w, .movk g d w] : List Instr),
     exec op s = .next t →
       (∀ r, r ≠ d → t.reg r = s.reg r) ∧ (t.reg 0 = 0) ∧ (∀ q, t.prd q = s.prd q) ∧ (∀ q, t.task.mask q = s.task.mask q) ∧
       (∀ v l, t.task.vlane v l = s.task.vlane v l) ∧ (∀ y, t.byte y = s.byte y) ∧ t.task.fmt = s.task.fmt ∧
       t.task.tstat = s.task.tstat ∧ t.task.fr.fb = s.task.fr.fb ∧ t.task.fr.rb = s.task.fr.rb ∧ t.task.fr.depth = s.task.fr.depth ∧
       t.task.fr.links = s.task.fr.links ∧ t.task.sq.loops = s.task.sq.loops ∧ t.task.queues = s.task.queues ∧
       t.task.mxa = s.task.mxa ∧ t.task.mxb = s.task.mxb ∧ t.task.tagOn = s.task.tagOn ∧ t.cur.priv = s.cur.priv ∧
       (∀ die y, sget (t.mem.view die) y = sget (s.mem.view die) y) ∧ t.curCtx.ptroot = s.curCtx.ptroot ∧
       t.curCtx.tvec = s.curCtx.tvec ∧ t.health = s.health) ∧
  (∀ (s : State) (i : Instr) (g0 : Gd) (d0 : BitVec 5) (v0 : Word), Calm s → scalarRow s i = some (g0, d0, v0) →
     let first : Task → Task := fun t => if guardOn s g0 = true then t.put d0 v0 else t
     (∀ (j : Instr) (g1 : Gd) (d1 : BitVec 5) (v1 : Word), scalarRow s j = some (g1, d1, v1) →
       ∀ (g2 g3 : Gd) (w2 w3 a2 a3 : BitVec 5) (k2 k3 : BitVec 3), ∃ r : Sparse 32,
         issueBundle [(0, i), (1, j), (2, .vbcast g2 w2 a2 k2), (3, .vbcast g3 w3 a3 k3)] s = bundled s (fun t =>
           let t1 := if guardOn s g1 = true then (first t).put d1 v1 else first t
           { t1 with vregs := r }) ∧
         ∀ (w : BitVec 5) (l : Nat), l < 128 → sget r (128 * w.toNat + l) =
           if guardOn s g3 = true ∧ w = w3 ∧ activeLane s k3 l = true then s.reg32 a3
           else if guardOn s g2 = true ∧ w = w2 ∧ activeLane s k2 l = true then s.reg32 a2
           else s.task.vlane w.toNat l) ∧
     ∀ (g : Gd) (d b : BitVec 5) (o : BitVec 11), guardOn s g = true → InLocal s (slotEa s.task b o 8) 8 →
       let ea := (slotEa s.task b o 8).toNat
       (OffControl s ea 8 → ∃ m, issueBundle [(0, i), (1, .stD g d b o), (2, .nop), (3, .nop)] s =
         bundled s (fun t => { first t with lmem := m }) ∧ Stored s ea 8 (s.reg d) m) ∧
       ∃ v, Loaded s ea 8 false v ∧
         issueBundle [(0, i), (1, .ldD g d b o), (2, .nop), (3, .nop)] s = bundled s fun t => (first t).put d v)

/-- Every step keeps the memories in their canonical form (the model's form of memory, log 10). -/
def Obligations.CanonicalKept : Prop :=
  ∀ s t : State, s.Canonical → step s = .next t → t.Canonical

/-- Every step keeps the privilege levels: no unit of a launch ever runs above USER, handlers and Tanneries run at SUPERVISOR, and
firmware alone at SYSTEM (R279, R288, R303, R341). -/
def Obligations.PrivilegesKept : Prop :=
  ∀ s t : State, s.Privileges → step s = .next t → t.Privileges

/-- Right after reset: GCYC is 0, no unit and no context stands, every soft-error register is 0 and the budget is 2,250,000
microjoules for an interval (R13, R300, R360); and both invariants hold. -/
def Obligations.AtReset : Prop :=
  State.reset.gcyc = 0 ∧ State.reset.units = [] ∧ State.reset.ctxs = [] ∧ healthWord State.reset.health = 0 ∧
  errlogWord State.reset.health = 0 ∧ State.reset.mem.einj = 0 ∧ State.reset.board.budget = 2250000 ∧
  State.reset.Canonical ∧ State.reset.Privileges

/-- ADD, SUB, MUL and their immediate form work modulo 2^64; MULH gives the high half of the 128-bit product (R123). Every form of
the operands and every destination, s0 included, which discards the write (R41). The bitwise operations, the shifts and the
rotation: immediates are sign-extended, a shift takes its amount from the low six bits of its operand or from its immediate (R123).
Minimum and maximum, the two counts, moves and the empty slot (R31, R123): the minimum is one of its operands and not above either,
CLZ finds the highest 1 bit, POPC counts the 1 bits. The integer triggers of sa0 and sa1 that have no statement of their own give
the function of R123 in .y after one τ. -/
def Obligations.IntegerOperations : Prop :=
  (∀ (s : State) (g : Gd) (d a b : BitVec 5) (i : BitVec 11), Calm s → guardOn s g = true →
     let x := s.reg a
     let y := s.reg b
     Writes s (.add g d a b) d (x + y) ∧ Writes s (.addI g d a i) d (x + i.signExtend 64) ∧
     Writes s (.sub g d a b) d (x - y) ∧ Writes s (.mul g d a b) d (x * y) ∧
     Writes s (.mulh g d a b false) d ((x.signExtend 128 * y.signExtend 128).extractLsb' 64 64) ∧
     Writes s (.mulh g d a b true) d ((x.setWidth 128 * y.setWidth 128).extractLsb' 64 64)) ∧
  (∀ (s : State) (g : Gd) (d a b : BitVec 5) (i : BitVec 11) (k : BitVec 6), Calm s → guardOn s g = true →
     let x := s.reg a
     let y := s.reg b
     let n := y.toNat % 64
     Writes s (.and g d a b) d (x &&& y) ∧ Writes s (.andI g d a i) d (x &&& i.signExtend 64) ∧
     Writes s (.or g d a b) d (x ||| y) ∧ Writes s (.orI g d a i) d (x ||| i.signExtend 64) ∧
     Writes s (.xor g d a b) d (x ^^^ y) ∧ Writes s (.xorI g d a i) d (x ^^^ i.signExtend 64) ∧
     Writes s (.andn g d a b) d (x &&& ~~~ y) ∧
     Writes s (.shl g d a b) d (x <<< n) ∧ Writes s (.shlI g d a k) d (x <<< k.toNat) ∧
     Writes s (.shr g d a b) d (x >>> n) ∧ Writes s (.shrI g d a k) d (x >>> k.toNat) ∧
     Writes s (.sar g d a b) d (x.sshiftRight n) ∧ Writes s (.sarI g d a k) d (x.sshiftRight k.toNat) ∧
     Writes s (.rol g d a b) d (x.rotateLeft n) ∧ Writes s (.rolI g d a k) d (x.rotateLeft k.toNat)) ∧
  (∀ (s : State) (g : Gd) (d a b : BitVec 5) (i : BitVec 16), Calm s → guardOn s g = true →
     let x := s.reg a
     let y := s.reg b
     Writes s (.min g d a b false) d (if x.sle y then x else y) ∧ Writes s (.min g d a b true) d (if x.ule y then x else y) ∧
     Writes s (.max g d a b false) d (if x.sle y then y else x) ∧ Writes s (.max g d a b true) d (if x.ule y then y else x) ∧
     (∃ n : Nat, Writes s (.clz g d a) d (BitVec.ofNat 64 n) ∧ n ≤ 64 ∧ (∀ j, 64 - n ≤ j → x.getLsbD j = false) ∧
       (n < 64 → x.getLsbD (63 - n) = true)) ∧
     Writes s (.popc g d a) d (BitVec.ofNat 64 ((List.range 64).countP fun j => x.getLsbD j)) ∧
     Writes s (.mov g d a) d x ∧ Writes s (.movi g d i) d (i.signExtend 64) ∧
     exec .nop s = .next (bundled s fun t => t)) ∧
  (∀ (s : State) (base : Nat) (m : Mv), Calm s → Fires s m → ScalarUnit base →
     let x := s.port base
     let y := moved s m
     let n := y.toNat % 64
     GivesY s base 4 m (x + y) ∧ GivesY s base 5 m (x - y) ∧ GivesY s base 6 m (x * y) ∧
     GivesY s base 7 m ((x.signExtend 128 * y.signExtend 128).extractLsb' 64 64) ∧
     GivesY s base 8 m ((x.setWidth 128 * y.setWidth 128).extractLsb' 64 64) ∧
     GivesY s base 13 m (x &&& y) ∧ GivesY s base 14 m (x ||| y) ∧ GivesY s base 15 m (x ^^^ y) ∧
     GivesY s base 16 m (x &&& ~~~ y) ∧ GivesY s base 17 m (x <<< n) ∧ GivesY s base 18 m (x >>> n) ∧
     GivesY s base 19 m (x.sshiftRight n) ∧ GivesY s base 20 m (x.rotateLeft n) ∧
     GivesY s base 21 m (if x.sle y then x else y) ∧ GivesY s base 22 m (if x.ule y then x else y) ∧
     GivesY s base 23 m (if x.sle y then y else x) ∧ GivesY s base 24 m (if x.ule y then y else x) ∧
     (∃ k : Nat, GivesY s base 25 m (BitVec.ofNat 64 k) ∧ k ≤ 64 ∧ (∀ j, 64 - k ≤ j → y.getLsbD j = false) ∧
       (k < 64 → y.getLsbD (63 - k) = true)) ∧
     GivesY s base 26 m (BitVec.ofNat 64 ((List.range 64).countP fun j => y.getLsbD j)) ∧
     GivesY s base 31 m y ∧ GivesY s base 32 m y)

/-- The quotient and the remainder of R124 for both layers: truncation towards zero, the remainder with the sign of the dividend,
and the four borderline rows; no operands trap. -/
def Obligations.Division : Prop :=
  (∀ (s : State) (g : Gd) (d a b : BitVec 5), Calm s → guardOn s g = true →
    let x := s.reg a
    let y := s.reg b
    Writes s (.div g d a b false) d (if y = 0 then BitVec.allOnes 64 else x.sdiv y) ∧
    Writes s (.rem g d a b false) d (if y = 0 then x else x.srem y) ∧
    Writes s (.div g d a b true) d (if y = 0 then BitVec.allOnes 64 else x / y) ∧
    Writes s (.rem g d a b true) d (if y = 0 then x else x % y)) ∧
  (∀ (s : State) (base : Nat) (m : Mv), Calm s → Fires s m → ScalarUnit base →
    let x := s.port base
    let y := moved s m
    GivesY s base 9 m (if y = 0 then BitVec.allOnes 64 else x.sdiv y) ∧
    GivesY s base 11 m (if y = 0 then x else x.srem y) ∧
    GivesY s base 10 m (if y = 0 then BitVec.allOnes 64 else x / y) ∧
    GivesY s base 12 m (if y = 0 then x else x % y)) ∧
  (∀ x y : Word, y ≠ 0 → x = x.sdiv y * y + x.srem y ∧ (x.srem y).toInt = x.toInt.tmod y.toInt ∧
    ((x.sdiv y).toInt = x.toInt.tdiv y.toInt ∨ (x = BitVec.intMin 64 ∧ y = BitVec.allOnes 64 ∧ x.sdiv y = x ∧ x.srem y = 0)))

/-- BFX and BFI of both layers, bit by bit: the field starts at b[5:0] and is cut at bit 63; BFX.s extends its sign; BFI keeps every
other bit of the old d, which natively is the trigger value, with b in .b (R122, R125). -/
def Obligations.BitFields : Prop :=
  (∀ (s : State) (g : Gd) (d a b : BitVec 5), Calm s → guardOn s g = true →
    let pos := (s.reg b).toNat % 64
    let len := min ((s.reg b).toNat / 64 % 128) (64 - pos)
    (∀ sx : Bool, ∃ v : Word, Writes s (.bfx g d a b sx) d v ∧ ∀ j < 64, v.getLsbD j =
      if j < len then (s.reg a).getLsbD (pos + j) else sx && decide (0 < len) && (s.reg a).getLsbD (pos + len - 1)) ∧
    ∃ v : Word, Writes s (.bfi g d a b) d v ∧ ∀ j < 64, v.getLsbD j =
      if pos ≤ j ∧ j < pos + len then (s.reg a).getLsbD (j - pos) else (s.reg d).getLsbD j) ∧
  (∀ (s : State) (base : Nat) (m : Mv), Calm s → Fires s m → ScalarUnit base →
    let pos := (moved s m).toNat % 64
    let len := min ((moved s m).toNat / 64 % 128) (64 - pos)
    (∀ sx : Bool, ∃ v : Word, GivesY s base (if sx then 28 else 27) m v ∧ ∀ j < 64, v.getLsbD j =
      if j < len then (s.port base).getLsbD (pos + j)
      else sx && decide (0 < len) && (s.port base).getLsbD (pos + len - 1))) ∧
  (∀ (s : State) (base : Nat) (m : Mv), Calm s → Fires s m → ScalarUnit base →
    let pos := (s.port (base + 1)).toNat % 64
    let len := min ((s.port (base + 1)).toNat / 64 % 128) (64 - pos)
    ∃ v : Word, GivesY s base 29 m v ∧ ∀ j < 64, v.getLsbD j =
      if pos ≤ j ∧ j < pos + len then (s.port base).getLsbD (j - pos) else (moved s m).getLsbD j)

/-- SEL and MOVK of both layers (R126): in Peman fn[3:0] names SEL's predicate and fn[5:4] must be 0; natively the trigger's bit 0
is SEL's condition, and MOVK uses its low 16 bits; one MOVI and three MOVKs build the constant of R126. -/
def Obligations.SelectAndMovk : Prop :=
  (∀ (s : State) (g : Gd) (d a b : BitVec 5) (p : BitVec 4) (i : BitVec 16), Calm s → guardOn s g = true →
    Writes s (.sel g d a b p) d (if s.prd p then s.reg a else s.reg b) ∧
    Writes s (.movk g d i) d ((s.reg d).extractLsb' 0 48 ++ i)) ∧
  (∀ c ∈ [SlotClass.s0, SlotClass.s1], ∀ (g : Gd) (d a b : BitVec 5) (z : BitVec 2) (p : BitVec 4),
    decodeSlot c (g.p ++ BitVec.ofBool g.n ++ (0x1D : BitVec 6) ++ d ++ a ++ b ++ z ++ p) =
      if z = 0 then some (.sel g d a b p) else none) ∧
  (∀ (s : State) (base : Nat) (m : Mv), Calm s → Fires s m → ScalarUnit base →
    GivesY s base 30 m (if (moved s m).getLsbD 0 then s.port base else s.port (base + 1)) ∧
    GivesY s base 33 m ((s.port base).extractLsb' 0 48 ++ (moved s m).extractLsb' 0 16)) ∧
  let next : Word → BitVec 16 → Word := fun x i => x.extractLsb' 0 48 ++ i
  next (next (next ((BitVec.ofInt 16 (-25033)).signExtend 64) 0x79B9) 0x7F4A) 0x7C15 = 0x9E3779B97F4A7C15

/-- CMP of both layers under each of its ten codes; in Peman the top bit of its d must be 0; a write to p0 is ignored, and natively
.y is 1 or 0 (R127). -/
def Obligations.Compare : Prop :=
  (∀ (s : State) (g : Gd) (p : BitVec 4) (a b : BitVec 5) (c : BitVec 4), c.toNat < 10 → Calm s → guardOn s g = true →
    WritesPred s (.cmp g p a b c) p (cmpHolds (s.reg a) (s.reg b) c.toNat)) ∧
  (∀ x ∈ [SlotClass.s0, SlotClass.s1], ∀ (g : Gd) (top : BitVec 1) (p : BitVec 4) (a b : BitVec 5) (c : BitVec 4), c.toNat < 10 →
    decodeSlot x (g.p ++ BitVec.ofBool g.n ++ (0x21 : BitVec 6) ++ top ++ p ++ a ++ b ++ (0 : BitVec 2) ++ c) =
      if top = 0 then some (.cmp g p a b c) else none) ∧
  (∀ (s : State) (base c : Nat) (m : Mv), c < 10 → Calm s → Fires s m → ScalarUnit base →
    GivesY s base (34 + c) m (if cmpHolds (s.port base) (moved s m) c then 1 else 0)) ∧
  ∀ (t : Task) (b : Bool), t.setPred 0 b = t

/-- PAND, POR, PXOR and PMOV of both layers with their inverted operands: in Peman fn[0] inverts a and fn[1] inverts b, and PMOV
requires b and fn[1] to be 0; natively .c holds the two invert bits; a write to p0 is ignored (R83). -/
def Obligations.PredicateLogic : Prop :=
  (∀ (s : State) (g : Gd) (d a b : BitVec 4) (y x : Bool), Calm s → guardOn s g = true →
    WritesPred s (.pand g d a b y x) d ((s.prd a ^^ x) && (s.prd b ^^ y)) ∧
    WritesPred s (.por g d a b y x) d ((s.prd a ^^ x) || (s.prd b ^^ y)) ∧
    WritesPred s (.pxor g d a b y x) d ((s.prd a ^^ x) ^^ (s.prd b ^^ y)) ∧
    WritesPred s (.pmov g d a x) d (s.prd a ^^ x)) ∧
  (∀ c ∈ [SlotClass.s0, SlotClass.s1], ∀ (g : Gd) (d a b : BitVec 4) (y x : Bool),
    let word : BitVec 6 → BitVec 32 := fun op => g.p ++ BitVec.ofBool g.n ++ op ++ (0 : BitVec 1) ++ d ++ (0 : BitVec 1) ++ a ++
      (0 : BitVec 1) ++ b ++ (0 : BitVec 4) ++ BitVec.ofBool y ++ BitVec.ofBool x
    decodeSlot c (word 0x22) = some (.pand g d a b y x) ∧ decodeSlot c (word 0x23) = some (.por g d a b y x) ∧
    decodeSlot c (word 0x24) = some (.pxor g d a b y x) ∧
    decodeSlot c (word 0x25) = if b = 0 ∧ y = false then some (.pmov g d a x) else none) ∧
  (∀ (s : State) (base : Nat) (m : Mv), Calm s → Fires s m → ScalarUnit base →
    let p := (s.port base).getLsbD 0 ^^ (s.port (base + 2)).getLsbD 0
    let q := (moved s m).getLsbD 0 ^^ (s.port (base + 2)).getLsbD 1
    GivesY s base 44 m (if p && q then 1 else 0) ∧ GivesY s base 45 m (if p || q then 1 else 0) ∧
    GivesY s base 46 m (if p ^^ q then 1 else 0) ∧
    GivesY s base 47 m (if (moved s m).getLsbD 0 ^^ (s.port (base + 2)).getLsbD 0 then 1 else 0)) ∧
  ∀ (t : Task) (b : Bool), t.setPred 0 b = t

/-- FADD, FSUB, FMUL, FFMA, FMIN, FMAX under the rounding mode of FMT, FCVT between every two formats of R33 but D2P8, and FCMP: the
result in d zero-extended (an integer one sign-extended), the flags set at the end of the bundle (R66, R118, R128 to R130). The
arithmetic is that of R78, whose cases the next statements give. NaNs propagate in the order of the operands with their quiet bit
forced; the invalid sums and products give the canonical NaN and NV; an exact zero sum takes the sign of R61; FMIN and FMAX order −0
below +0; a comparison of NaN holds only for ne and un (R58, R61, R62, R128, R130). -/
def Obligations.FloatOperations : Prop :=
  (∀ (s : State) (g : Gd) (d a b : BitVec 5) (p : BitVec 4) (dst src c : BitVec 3), Calm s → guardOn s g = true →
     dst ≠ 7 → src ≠ 7 →
     let x := s.reg32 a
     let y := s.reg32 b
     let rm := rmOf s.task.fmt.rm
     WritesFloat s (.fadd g d a b) d (fpAdd rm x y) ∧
     WritesFloat s (.fsub g d a b) d (fpAdd rm x (if nan32 y then y else y ^^^ 0x80000000)) ∧
     WritesFloat s (.fmul g d a b) d (fpMul rm x y) ∧
     WritesFloat s (.ffma g d a b) d (fpFma rm x y (s.reg32 d)) ∧
     WritesFloat s (.fmin g d a b) d (fpMin x y, Flags.none) ∧
     WritesFloat s (.fmax g d a b) d (fpMax x y, Flags.none) ∧
     (let r := cvt x (formatOf src.toNat) (formatOf dst.toNat) rm s.task.fmt.sat
      exec (.fcvt g d a dst src) s = .next (bundled s fun t =>
        (t.put d (if dst = 5 ∨ dst = 6 then r.1.signExtend 64 else r.1.setWidth 64)).addFlags r.2)) ∧
     WritesPred s (.fcmp g p a b c) p (fpCmp c.toNat x y)) ∧
  (∀ (rm : Rm) (a b c : Lane),
     (nan32 a → fpAdd rm a b = (a ||| 0x00400000, Flags.none) ∧ fpMul rm a b = (a ||| 0x00400000, Flags.none) ∧
       fpFma rm a b c = (a ||| 0x00400000, Flags.none) ∧ fpMin a b = a ||| 0x00400000 ∧ fpMax a b = a ||| 0x00400000) ∧
     (¬ nan32 a → nan32 b → fpAdd rm a b = (b ||| 0x00400000, Flags.none) ∧ fpMul rm a b = (b ||| 0x00400000, Flags.none) ∧
       fpFma rm a b c = (b ||| 0x00400000, Flags.none) ∧ fpMin a b = b ||| 0x00400000 ∧ fpMax a b = b ||| 0x00400000) ∧
     (¬ nan32 a → ¬ nan32 b → nan32 c → fpFma rm a b c = (c ||| 0x00400000, Flags.none)) ∧
     fpAdd rm 0x7F800000 0xFF800000 = (0x7FC00000, flagNv) ∧ fpAdd rm 0xFF800000 0x7F800000 = (0x7FC00000, flagNv) ∧
     (∀ z ∈ [(0 : Lane), 0x80000000], ∀ i ∈ [(0x7F800000 : Lane), 0xFF800000],
       fpMul rm z i = (0x7FC00000, flagNv) ∧ fpMul rm i z = (0x7FC00000, flagNv) ∧
       (¬ nan32 c → fpFma rm z i c = (0x7FC00000, flagNv) ∧ fpFma rm i z c = (0x7FC00000, flagNv))) ∧
     fpAdd rm 0 0 = (0, Flags.none) ∧ fpAdd rm 0x80000000 0x80000000 = (0x80000000, Flags.none) ∧
     (a.extractLsb' 23 8 ≠ 0xFF → fpAdd rm a (a ^^^ 0x80000000) = (if rm = .rd then 0x80000000 else 0, Flags.none)) ∧
     fpMin 0 0x80000000 = 0x80000000 ∧ fpMin 0x80000000 0 = 0x80000000 ∧ fpMax 0 0x80000000 = 0 ∧ fpMax 0x80000000 0 = 0 ∧
     (nan32 a ∨ nan32 b → ∀ cc < 8, fpCmp cc a b = decide (cc = 1 ∨ cc = 6)) ∧
     (¬ nan32 a → ¬ nan32 b → fpCmp 6 a b = false ∧ fpCmp 7 a b = true ∧ fpCmp 0 a b = !fpCmp 1 a b ∧
       fpCmp 3 a b = (fpCmp 2 a b || fpCmp 0 a b) ∧ fpCmp 4 a b = fpCmp 2 b a ∧ fpCmp 5 a b = fpCmp 3 b a) ∧
     fpCmp 0 0 0x80000000 = true)

/-- The triggers of sf put their result in flight for the latch sf.y, readable from τ t + 4, with its flags; an FCVT whose format
word is not legal is refused: it delivers nothing and sets NV at the end of its τ (R116, R117, R128 to R130, R375). A result in
flight, seen over the issue of one LIW that only passes a τ (a move to ctl.nop): it stays in flight while it is not due, and it
stands in its latch with its flags set once it is (R66, R117). -/
def Obligations.FloatUnit : Prop :=
  (∀ (s : State) (m : Mv), Calm s → Fires s m →
     let x := s.port32 256
     let v := (moved s m).extractLsb' 0 32
     let rm := rmOf s.task.fmt.rm
     let later : Nat → Word → Flags → Prop := fun off w f => ∀ dst : BitVec 10, dst.toNat = 256 + off →
       exec (.liwIssue (liwOfMove dst m)) s = .next (issued s dst m fun t => t.push
         { ready := t.sq.tau + 4, dest := .latchA 259, val := w, lanes := [], mask := 0, flags := f })
     let float : Nat → Lane × Flags → Prop := fun off r => later off (r.1.setWidth 64) r.2
     float 4 (fpAdd rm x v) ∧ float 5 (fpAdd rm x (if nan32 v then v else v ^^^ 0x80000000)) ∧ float 6 (fpMul rm x v) ∧
     float 7 (fpFma rm x (s.port32 257) v) ∧ float 8 (fpMin x v, Flags.none) ∧ float 9 (fpMax x v, Flags.none) ∧
     (let w := s.port 256
      let d := (w.toNat / 8) % 8
      let r := cvt v (formatOf (w.toNat % 8)) (formatOf d) rm s.task.fmt.sat
      if w.toNat < 64 ∧ d ≠ 7 ∧ w.toNat % 8 ≠ 7 then
        later 10 (if d = 5 ∨ d = 6 then r.1.signExtend 64 else r.1.setWidth 64) r.2
      else ∀ dst : BitVec 10, dst.toNat = 266 →
        exec (.liwIssue (liwOfMove dst m)) s = .next (issued s dst m fun t => t.addFlags flagNv)) ∧
     ∀ c < 8, later (11 + c) (if fpCmp c x v then 1 else 0) Flags.none) ∧
  (∀ (s : State) (m : Mv) (port : Nat) (v : Word) (f : Flags) (k : Nat), Calm s → Fires s m → 0 < k →
     let p : Pipe := { ready := s.task.sq.tau + k, dest := .latchA port, val := v, lanes := [], mask := 0, flags := f }
     exec (.nopNative m) (s.setTask (s.task.push p)) = .next (issued s 78 m fun t =>
       if k = 1 then (t.putPort port v).addFlags f else t.push p))

/-- LD.b, LD.h, LD.w, LD.d, LD.sb, LD.sh and LD.sw: d holds the bytes at the effective address, zero- or sign-extended, and nothing
else changes (R151). ST.b, ST.h, ST.w and ST.d store the low bytes of d at the effective address; every other byte of LOCAL, every
register and the rest of the task stay as they were (R151). The scalar loads and stores of ls0 and ls1 with control word 0: a load's
value is in flight for .y, readable from τ t + 3, a store's bytes stand at the end of its τ; a control word with a reserved bit set
is refused with NV before any other check (R152 to R155, R375). -/
def Obligations.ScratchpadAccess : Prop :=
  (∀ (s : State) (g : Gd) (d b : BitVec 5) (i : BitVec 11), Calm s → guardOn s g = true →
     let load : Instr → Nat → Bool → Prop := fun x n sx => InLocal s (slotEa s.task b i n) n →
       ∃ v, Writes s x d v ∧ Loaded s (slotEa s.task b i n).toNat n sx v
     load (.ldB g d b i) 1 false ∧ load (.ldH g d b i) 2 false ∧ load (.ldW g d b i) 4 false ∧ load (.ldD g d b i) 8 false ∧
     load (.ldSb g d b i) 1 true ∧ load (.ldSh g d b i) 2 true ∧ load (.ldSw g d b i) 4 true) ∧
  (∀ (s : State) (g : Gd) (d b : BitVec 5) (i : BitVec 11), Calm s → guardOn s g = true →
     let store : Instr → Nat → Prop := fun x n => InLocal s (slotEa s.task b i n) n →
       OffControl s (slotEa s.task b i n).toNat n →
       ∃ m, exec x s = .next (bundled s fun t => { t with lmem := m }) ∧ Stored s (slotEa s.task b i n).toNat n (s.reg d) m
     store (.stB g d b i) 1 ∧ store (.stH g d b i) 2 ∧ store (.stW g d b i) 4 ∧ store (.stD g d b i) 8) ∧
  (∀ (s : State) (base : Nat) (m : Mv), Calm s → Fires s m → base = 320 ∨ base = 384 →
     let ea := s.port base + moved s m
     let load : Nat → Nat → Bool → Prop := fun off n sx => ∀ dst : BitVec 10, dst.toNat = base + off →
       s.port (base + 2) = 0 → InLocal s ea n → ∃ v, Loaded s ea.toNat n sx v ∧
         exec (.liwIssue (liwOfMove dst m)) s = .next (issued s dst m fun t => t.result 3 (base + 3) v Flags.none)
     let store : Nat → Nat → Prop := fun off n => ∀ dst : BitVec 10, dst.toNat = base + off →
       s.port (base + 2) = 0 → InLocal s ea n → OffControl s ea.toNat n → ∃ mem, Stored s ea.toNat n (s.port (base + 1)) mem ∧
         exec (.liwIssue (liwOfMove dst m)) s = .next (issued s dst m fun t => { t with lmem := mem })
     load 4 1 false ∧ load 5 2 false ∧ load 6 4 false ∧ load 7 8 false ∧ load 8 1 true ∧ load 9 2 true ∧ load 10 4 true ∧
     store 11 1 ∧ store 12 2 ∧ store 13 4 ∧ store 14 8 ∧
     ∀ dst : BitVec 10, base + 4 ≤ dst.toNat → dst.toNat ≤ base + 16 →
       2 ^ 16 ≤ (s.port (base + 2)).toNat ∨ (s.port (base + 2)).toNat % 512 ≠ 0 →
       exec (.liwIssue (liwOfMove dst m)) s = .next (issued s dst m fun t => t.addFlags flagNv))

/-- The checks of every LOCAL access of Peman, in their order: ALIGN_LOCAL for a misaligned address, ALIGN_LOCAL for a byte above
0x1F_FFFF, PROT for a byte at or above F, each with the effective address as TVAL and slot 1 as its bus; the bundle is suppressed
and the fault is taken (R79, R150, R289). -/
def Obligations.LocalChecks : Prop :=
  ∀ (s : State) (x : Instr) (b : BitVec 5) (i : BitVec 11) (n : Nat), Calm s → localForm x = some (b, i, n) →
    guardOn s (guardOf x) = true →
    let ea := slotEa s.task b i n
    (ea.toNat % n ≠ 0 → FaultsAt s x .alignLocal ea 1) ∧
    (ea.toNat % n = 0 → 0x1FFFFF < ea.toNat + n - 1 → FaultsAt s x .alignLocal ea 1) ∧
    (ea.toNat % n = 0 → ea.toNat + n - 1 ≤ 0x1FFFFF → s.task.f ≤ ea.toNat + n - 1 → FaultsAt s x .prot ea 1)

/-- VLD and VST move all 128 lanes: lane L is the 4 bytes at ea + 4L; VLD changes no other register, VST no other byte (R151). LDT
on either unit: four vector registers of one cluster are in flight, register j holding in lane i element j of row i; rows are `.a`
apart, and the clause takes rows that pass the checks of a load of their bytes; the element size, the cluster and the first register
come from .b, and .c is not looked at (the model's reading, log 45); operands of .a and .b that are not legal are refused (R156).
The loads and stores of ls0 and ls1 that convert (CV = 1), and the native vector loads and stores with CV = 0 and 1: a load converts
from its memory format to FP32 or INT32, a store back, under FMT; vectors move their active lanes alone, each element of the memory
format's size; flags are set with the result. A size that is not the format's, a sign-extending or 8-byte form with CV, format 7 and
a register number above 31 are refused with NV (R59, R60, R62, R152 to R155, R375). -/
def Obligations.VectorTransfers : Prop :=
  (∀ (s : State) (g : Gd) (v b : BitVec 5) (i : BitVec 11), Calm s → guardOn s g = true →
     let ea := slotEa s.task b i 512
     InLocal s ea 512 →
     (∃ r, exec (.vld g v b i) s = .next (bundled s fun t => { t with vregs := r }) ∧
       ∀ (w : BitVec 5) (l : Nat), l < 128 → if w = v then
           ∀ k < 4, (sget r (128 * w.toNat + l)).extractLsb' (8 * k) 8 = s.byte (ea.toNat + 4 * l + k)
         else sget r (128 * w.toNat + l) = s.task.vlane w.toNat l) ∧
     (OffControl s ea.toNat 512 →
       ∃ m, exec (.vst g v b i) s = .next (bundled s fun t => { t with lmem := m }) ∧
       (∀ l < 128, ∀ k < 4, sget m (ea.toNat + 4 * l + k) = (s.task.vlane v.toNat l).extractLsb' (8 * k) 8) ∧
       ∀ x, x < ea.toNat ∨ ea.toNat + 512 ≤ x → sget m x = s.byte x)) ∧
  (∀ (s : State) (m : Mv), Calm s → Fires s m → ∀ base ∈ [320, 384],
     let x : Instr := if base = 320 then .ldt m else .ldtLs1 m
     let dst : BitVec 10 := if base = 320 then 337 else 401
     let stride := s.port base
     let b := s.port (base + 1)
     let sz := b.toNat / 256 % 4
     let v := b.toNat % 32
     let legal := stride.toNat < 2 ^ 21 ∧ b.toNat < 2 ^ 10 ∧ sz ≠ 3 ∧ v ≤ 28
     let row : Nat → Word := fun i => moved s m + BitVec.ofNat 64 i * stride
     (legal → (∀ i < 16, InLocal s (row i) (4 * 2 ^ sz)) →
       ∃ l : Nat → List Lane, exec x s = .next (issued s dst m fun t => t.flying ((List.range 4).map fun j =>
           ⟨t.sq.tau + 3, .vreg (b.toNat / 32 % 8) (v + j), 0, l j, BitVec.allOnes 16, Flags.none⟩)) ∧
         ∀ j < 4, (l j).length = 16 ∧ ∀ i < 16, ∀ k < 4, ((l j).getD i 0).extractLsb' (8 * k) 8 =
           if k < 2 ^ sz then s.byte ((row i).toNat + j * 2 ^ sz + k) else 0) ∧
     (¬ legal → exec x s = .next (issued s dst m fun t => t.addFlags flagNv))) ∧
  (∀ (s : State) (base : Nat) (m : Mv), Calm s → Fires s m → base = 320 ∨ base = 384 →
     let w := s.port (base + 2)
     let b := s.port (base + 1)
     let ea := s.port base + moved s m
     let cv := w.getLsbD 15
     let mf := formatOf (w.extractLsb' 12 3).toNat
     let reg : Format := if isFloat mf = true then .fp32 else .int32
     let rm := rmOf s.task.fmt.rm
     let from' : Nat → Lane × Flags := fun x => cvt (BitVec.ofNat 32 x) mf reg rm s.task.fmt.sat
     let to' : Lane → Lane × Flags := fun x => cvt x reg mf rm s.task.fmt.sat
     let active : Nat → Bool := fun l => activeLane s (w.extractLsb' 9 3) l
     let legal := w.toNat < 2 ^ 16 ∧ w.toNat % 512 = 0 ∧ ¬ (cv = true ∧ w.extractLsb' 12 3 = 7)
     let n := if cv then fsize mf else 4
     let any : (Nat → Flags) → (Flags → Bool) → Bool := fun f g => (List.range 128).any fun l => active l && g (f l)
     let sums : Flags → (Nat → Flags) → Prop := fun fl f => fl.nv = any f (·.nv) ∧ fl.ovf = any f (·.ovf)
     ∀ dst : BitVec 10,
     let lone := exec (.liwIssue (liwOfMove dst m)) s
     let refused := lone = .next (issued s dst m fun t => t.addFlags flagNv)
     (base + 4 ≤ dst.toNat → dst.toNat ≤ base + 16 → ¬ legal → refused) ∧
     (legal → cv = true →
       (∀ x ∈ ([(4, 1), (5, 2), (6, 4)] : List (Nat × Nat)), dst.toNat = base + x.1 → (x.2 ≠ fsize mf → refused) ∧
         (x.2 = fsize mf → InLocal s ea x.2 → let r := from' (readLe s.task.lmem ea.toNat x.2)
           lone = .next (issued s dst m fun t => t.result 3 (base + 3)
             (if isFloat mf = true then r.1.setWidth 64 else r.1.signExtend 64) r.2))) ∧
       (∀ off ∈ [7, 8, 9, 10, 14], dst.toNat = base + off → refused) ∧
       (∀ x ∈ ([(11, 1), (12, 2), (13, 4)] : List (Nat × Nat)), dst.toNat = base + x.1 → (x.2 ≠ fsize mf → refused) ∧
         (x.2 = fsize mf → InLocal s ea x.2 → OffControl s ea.toNat x.2 → let r := to' (b.extractLsb' 0 32)
           ∃ l, Stored s ea.toNat x.2 (r.1.setWidth 64) l ∧
             lone = .next (issued s dst m fun t => ({ t with lmem := l }).addFlags r.2)))) ∧
     (legal → 32 ≤ b.toNat → dst.toNat = base + 15 ∨ dst.toNat = base + 16 → refused) ∧
     (legal → b.toNat < 32 → InLocal s ea (128 * n) →
       (dst.toNat = base + 15 →
         let r : Nat → Lane × Flags := fun l => let x := readLe s.task.lmem (ea.toNat + n * l) n
           if cv then from' x else (BitVec.ofNat 32 x, Flags.none)
         ∃ ps : List Pipe, lone = .next (issued s dst m fun t => t.flying ps) ∧
           (∀ c < 8, ∃ p ∈ ps, p.ready = s.task.sq.tau + 3 ∧ p.dest = .vreg c b.toNat ∧
             ∀ l < 16, p.mask.getLsbD l = active (16 * c + l) ∧ p.lanes[l]? = some (r (16 * c + l)).1) ∧
           (∀ p ∈ ps, p.ready = s.task.sq.tau + 3 ∧ (p.dest = .flagsOnly ∨ ∃ c < 8, p.dest = .vreg c b.toNat)) ∧
           sums (ps.foldl (fun f p => f.or p.flags) Flags.none) fun l => (r l).2) ∧
       (dst.toNat = base + 16 → OffControl s ea.toNat (128 * n) →
         let r : Nat → Lane × Flags := fun l => let x := s.task.vlane b.toNat l
           if cv then to' x else (x, Flags.none)
         ∃ (l : Sparse 8) (fl : Flags), lone = .next (issued s dst m fun t => ({ t with lmem := l }).addFlags fl) ∧
           sums fl (fun l => (r l).2) ∧
           (∀ i < 128, active i = true → ∀ k < n, sget l (ea.toNat + n * i + k) = (r i).1.extractLsb' (8 * k) 8) ∧
           ∀ x, (x < ea.toNat ∨ ea.toNat + 128 * n ≤ x ∨ active ((x - ea.toNat) / n) = false) → sget l x = s.byte x)))

/-- The class V arithmetic over the active lanes, by its fn: f32 under FMT.RM, i32 modulo 2^32, saturating .s32, u32 order; inactive
lanes and every other vector register keep their values, and only active lanes set flags (R62, R131). Every trigger of a cluster's
alu, mul and sfu in an LIW of its own: lane by lane over the cluster's 16 lanes, with .a, .b and the value moved as operands and fn
and the mask from lane 0 of .c; the result is in flight for the unit's .y, readable two, five or eight τ later, written in the
active lanes, whose flags are set with it. Comparisons, VSEL and VNFIN write every lane. A control word with a reserved bit, an fn
that the trigger does not have, and a conversion to D2P8 without its partner cluster are refused with NV (R43, R44, R116, R117,
R120, R131 to R140, R375). -/
def Obligations.VectorArithmetic : Prop :=
  (∀ (s : State) (g : Gd) (v a b : BitVec 5) (k : BitVec 3), Calm s → guardOn s g = true →
     let x := fun l => s.task.vlane a.toNat l
     let y := fun l => s.task.vlane b.toNat l
     let rm := rmOf s.task.fmt.rm
     let op2 : Instr → (Lane → Lane → Lane × Flags) → Prop := fun i f => WritesLanes s i v k fun l => f (x l) (y l)
     let int2 : Instr → (Lane → Lane → Lane) → Prop := fun i f => op2 i fun p q => (f p q, Flags.none)
     let int1 : Instr → (Lane → Lane) → Prop := fun i f => WritesLanes s i v k fun l => (f (x l), Flags.none)
     let clamp : Int → Lane := fun z => BitVec.ofInt 32 (max (-2147483648) (min 2147483647 z))
     op2 (.vadd g v a b k 0) (fpAdd rm) ∧ int2 (.vadd g v a b k 1) (fun p q => p + q) ∧
     int2 (.vadd g v a b k 2) (fun p q => clamp (p.toInt + q.toInt)) ∧
     op2 (.vsub g v a b k 0) (fun p q => fpAdd rm p (if nan32 q then q else q ^^^ 0x80000000)) ∧
     int2 (.vsub g v a b k 1) (fun p q => p - q) ∧ int2 (.vsub g v a b k 2) (fun p q => clamp (p.toInt - q.toInt)) ∧
     op2 (.vmul g v a b k 0) (fpMul rm) ∧ int2 (.vmul g v a b k 1) (fun p q => p * q) ∧
     (WritesLanes s (.vfma g v a b k) v k fun l => fpFma rm (x l) (y l) (s.task.vlane v.toNat l)) ∧
     int2 (.vmin g v a b k 0) fpMin ∧ int2 (.vmin g v a b k 1) (fun p q => if p.sle q then p else q) ∧
     int2 (.vmin g v a b k 2) (fun p q => if p.ule q then p else q) ∧
     int2 (.vmax g v a b k 0) fpMax ∧ int2 (.vmax g v a b k 1) (fun p q => if p.sle q then q else p) ∧
     int2 (.vmax g v a b k 2) (fun p q => if p.ule q then q else p) ∧
     int1 (.vabs g v a k 0) (fun p => p &&& 0x7FFFFFFF) ∧ int1 (.vabs g v a k 1) (fun p => if p.slt 0 then -p else p) ∧
     int1 (.vneg g v a k 0) (fun p => p ^^^ 0x80000000) ∧ int1 (.vneg g v a k 1) (fun p => -p) ∧
     int2 (.vand g v a b k) (fun p q => p &&& q) ∧ int2 (.vor g v a b k) (fun p q => p ||| q) ∧
     int2 (.vxor g v a b k) (fun p q => p ^^^ q) ∧
     int2 (.vshl g v a b k) (fun p q => p <<< (q.toNat % 64)) ∧ int2 (.vshr g v a b k 0) (fun p q => p >>> (q.toNat % 64)) ∧
     int2 (.vshr g v a b k 1) (fun p q => p.sshiftRight (q.toNat % 64))) ∧
  (∀ (s : State) (c : BitVec 3) (m : Mv), Calm s → FiresB s c m →
     let port : Nat → Nat → Lane := fun o l => sget s.task.ports.b (16 * (128 * c.toNat + o) + l)
     let v : Nat → Lane := fun l => (carried s m).getD l 0
     let rm := rmOf s.task.fmt.rm
     let fn : Nat → BitVec 3 := fun base => (port (base + 2) 0).extractLsb' 0 3
     let active : Nat → Nat → Bool := fun base l => activeLane s ((port (base + 2) 0).extractLsb' 3 3) (16 * c.toNat + l)
     let lanes : Nat → Nat → (Nat → Lane × Flags) → Prop := fun base off f => ∃ fl : Flags,
       GivesB s c base off m (active base) (fun l => (f l).1) fl ∧
       fl.nv = ((List.range 16).any fun l => active base l && (f l).2.nv) ∧
       fl.dz = ((List.range 16).any fun l => active base l && (f l).2.dz) ∧
       fl.ovf = ((List.range 16).any fun l => active base l && (f l).2.ovf) ∧
       fl.nf = ((List.range 16).any fun l => active base l && (f l).2.nf)
     let refused : Nat → Prop := fun off => let dst : BitVec 10 := BitVec.ofNat 10 (128 * c.toNat + off)
       exec (.liwIssue (liwOfMoveB dst m)) s = .next (issuedB s dst m fun t => t.addFlags flagNv)
     let pure : (Lane → Lane → Lane) → Lane → Lane → Lane × Flags := fun f p q => (f p q, Flags.none)
     let clamp : Int → Lane := fun z => BitVec.ofInt 32 (max (-2147483648) (min 2147483647 z))
     let two : List (Nat × Nat × BitVec 3 × (Lane → Lane → Lane × Flags)) := [
       (72, 76, 0, fpAdd rm), (72, 76, 1, pure fun p q => p + q), (72, 76, 2, pure fun p q => clamp (p.toInt + q.toInt)),
       (72, 77, 0, fun p q => fpAdd rm p (if nan32 q then q else q ^^^ 0x80000000)), (72, 77, 1, pure fun p q => p - q),
       (72, 77, 2, pure fun p q => clamp (p.toInt - q.toInt)),
       (72, 78, 0, pure fpMin), (72, 78, 1, pure fun p q => if p.sle q then p else q), (72, 78, 2, pure fun p q => if p.ule q then p else q),
       (72, 79, 0, pure fpMax), (72, 79, 1, pure fun p q => if p.sle q then q else p), (72, 79, 2, pure fun p q => if p.ule q then q else p),
       (72, 82, 0, pure fun p q => p &&& q), (72, 83, 0, pure fun p q => p ||| q), (72, 84, 0, pure fun p q => p ^^^ q),
       (72, 85, 0, pure fun p q => p <<< (q.toNat % 64)), (72, 86, 0, pure fun p q => p >>> (q.toNat % 64)),
       (72, 86, 1, pure fun p q => p.sshiftRight (q.toNat % 64)), (94, 98, 0, fpMul rm), (94, 98, 1, pure fun p q => p * q)]
     let one : List (Nat × Nat × BitVec 3 × (Lane → Lane × Flags)) := [
       (72, 80, 0, fun p => (p &&& 0x7FFFFFFF, Flags.none)), (72, 80, 1, fun p => (if p.slt 0 then -p else p, Flags.none)),
       (72, 81, 0, fun p => (p ^^^ 0x80000000, Flags.none)), (72, 81, 1, fun p => (-p, Flags.none)), (72, 90, 0, fun p => (p, Flags.none)),
       (94, 100, 0, fun p => ((cbg (s.task.sreg 6) (s.task.sreg 7) (p.setWidth 64)).extractLsb' 32 32, Flags.none)),
       (101, 105, 0, vexp2 rm), (101, 106, 0, vlog2 rm), (101, 107, 0, vrcp rm), (101, 108, 0, vrsq rm)]
     (∀ x ∈ two, (port (x.1 + 2) 0).extractLsb' 6 26 = 0 → fn x.1 = x.2.2.1 → lanes x.1 x.2.1 fun l => x.2.2.2 (port x.1 l) (v l)) ∧
     (∀ x ∈ one, (port (x.1 + 2) 0).extractLsb' 6 26 = 0 → fn x.1 = x.2.2.1 → lanes x.1 x.2.1 fun l => x.2.2.2 (v l)) ∧
     ((port 96 0).extractLsb' 6 26 = 0 → fn 94 = 0 → lanes 94 99 fun l => fpFma rm (port 94 l) (port 95 l) (v l)) ∧
     ((port 74 0).extractLsb' 6 26 = 0 →
       let all : Nat → (Nat → Lane) → Flags → Prop := fun off f fl => GivesB s c 72 off m (fun _ => true) f fl
       let icmp : Lane → Lane → Bool := fun p q => match (fn 72).toNat with
         | 0 => p == q
         | 1 => p != q
         | 2 => p.slt q
         | 3 => p.sle q
         | 4 => p.ult q
         | _ => p.ule q
       let code : Nat → Nat := fun l => (port 73 l).toNat % 8
       (all 87 (fun l => if active 72 l && fpCmp (fn 72).toNat (port 72 l) (v l) then 1 else 0) Flags.none) ∧
       ((fn 72).toNat < 6 → all 88 (fun l => if active 72 l && icmp (port 72 l) (v l) then 1 else 0) Flags.none) ∧
       (fn 72 = 0 → all 89 (fun l => if active 72 l then port 72 l else v l) Flags.none ∧
         lanes 72 91 (fun l => (BitVec.ofNat 32 (16 * c.toNat + l) + v l, Flags.none)) ∧
         let hit : Nat → Bool := fun l => active 72 l && (v l).extractLsb' 23 8 == 0xFF
         all 92 (fun l => if hit l then 1 else 0) { Flags.none with nf := (List.range 16).any hit }) ∧
       (fn 72 ≠ 7 → lanes 72 93 fun l =>
         if code l = 7 then
           let e := d2Decode ((v l).extractLsb' 0 8) ((v l).extractLsb' 8 8)
           let r := cvt e.1 .fp32 (formatOf (fn 72).toNat) rm s.task.fmt.sat
           (r.1, e.2.or r.2)
         else cvt (v l) (formatOf (code l)) (formatOf (fn 72).toNat) rm s.task.fmt.sat) ∧
       (fn 72 = 7 → refused 93)) ∧
     (∀ x ∈ ([(72, 76, 3), (72, 77, 3), (72, 78, 3), (72, 79, 3), (72, 80, 2), (72, 81, 2), (72, 82, 1), (72, 83, 1), (72, 84, 1),
         (72, 85, 1), (72, 86, 2), (72, 87, 8), (72, 88, 6), (72, 89, 1), (72, 90, 1), (72, 91, 1), (72, 92, 1), (72, 93, 8), (94, 98, 2),
         (94, 99, 1), (94, 100, 1), (101, 105, 1), (101, 106, 1), (101, 107, 1), (101, 108, 1)] : List (Nat × Nat × Nat)),
       (port (x.1 + 2) 0).extractLsb' 6 26 ≠ 0 ∨ x.2.2 ≤ (fn x.1).toNat → refused x.2.1))

/-- VCMP writes every lane of its mask: 1 where the lane is active and the relation holds; a write to k0 is ignored; VSEL writes
every lane (R132, R133). VBCAST, VPERM, VIOTA and VRNG over the active lanes; VREDADD and VREDMAX write the tree's result to every
lane; VNFIN writes no register and sets NF when an active lane is not finite (R76, R136 to R140, R143, R145). The exchanges that
need all eight clusters, in an LIW of eight moves: CPERM gives each lane the lane that its selector names among the 128; CREDADD and
CREDMAX give every lane of every cluster the tree's result over the active lanes, with its flags. In fewer clusters, or with control
words that are not legal or disagree in fn, they are refused with NV (R76, R120, R141, R143, R145, R375). -/
def Obligations.VectorSelection : Prop :=
  (∀ (s : State) (g : Gd) (v a b : BitVec 5) (k m : BitVec 3), Calm s → guardOn s g = true →
     let x := fun l => s.task.vlane a.toNat l
     let y := fun l => s.task.vlane b.toNat l
     let icmp : Nat → Lane → Lane → Bool := fun c p q => match c with
       | 0 => p == q
       | 1 => p != q
       | 2 => p.slt q
       | 3 => p.sle q
       | 4 => p.ult q
       | _ => p.ule q
     let writes : Instr → (Nat → Bool) → Prop := fun i f => ∃ r : BitVec 128,
       exec i s = .next (bundled s fun t => t.setMask m.toNat (BitVec.allOnes 128) r) ∧
       ∀ l < 128, r.getLsbD l = (activeLane s k l && f l)
     (∀ c : BitVec 3, writes (.vcmpF g m a b k c) fun l => fpCmp c.toNat (x l) (y l)) ∧
     (∀ c : BitVec 3, c.toNat < 6 → writes (.vcmpI g m a b k c) fun l => icmp c.toNat (x l) (y l)) ∧
     (∀ (t : Task) (r : BitVec 128), t.setMask 0 (BitVec.allOnes 128) r = t) ∧
     (∀ (t : Task) (j : Nat) (r : BitVec 128), j ≠ 0 → (t.setMask j (BitVec.allOnes 128) r).mask j = r) ∧
     ∃ r, exec (.vsel g v a b k) s = .next (bundled s fun t => { t with vregs := r }) ∧
       ∀ (w : BitVec 5) (l : Nat), l < 128 → sget r (128 * w.toNat + l) =
         if w = v then (if activeLane s k l then x l else y l) else s.task.vlane w.toNat l) ∧
  (∀ (s : State) (g : Gd) (v a b : BitVec 5) (k : BitVec 3), Calm s → guardOn s g = true →
     let x := fun l => s.task.vlane a.toNat l
     let y := fun l => s.task.vlane b.toNat l
     let rm := rmOf s.task.fmt.rm
     let pad : Lane → List Lane := fun z => (List.range 128).map fun l => if activeLane s k l then x l else z
     let all : Instr → Lane × Flags → Prop := fun i z => ∃ r,
       exec i s = .next (bundled s fun t => ({ t with vregs := r }).addFlags z.2) ∧
       ∀ (w : BitVec 5) (l : Nat), l < 128 → sget r (128 * w.toNat + l) = if w = v then z.1 else s.task.vlane w.toNat l
     (WritesLanes s (.vbcast g v a k) v k fun _ => (s.reg32 a, Flags.none)) ∧
     (WritesLanes s (.vperm g v a b k) v k fun l => (x ((y l).toNat % 128), Flags.none)) ∧
     (WritesLanes s (.viota g v k) v k fun l => (BitVec.ofNat 32 l, Flags.none)) ∧
     (b.toNat < 31 → WritesLanes s (.vrng g v a b k) v k fun l =>
       ((cbg (s.reg b) (s.reg (b + 1)) ((x l).setWidth 64)).extractLsb' 32 32, Flags.none)) ∧
     all (.vredadd g v a k 0) (laneTree (fpAdd rm) (pad 0x80000000)) ∧
     all (.vredadd g v a k 1) (laneTree (fun p q => (p + q, Flags.none)) (pad 0)) ∧
     all (.vredmax g v a k 0) (laneTree (fun p q => (fpMax p q, Flags.none)) (pad 0xFF800000)) ∧
     all (.vredmax g v a k 1) (laneTree (fun p q => (if p.slt q then q else p, Flags.none)) (pad 0x80000000)) ∧
     exec (.vnfin g a k) s = .next (bundled s fun t => t.addFlags
       { Flags.none with nf := (List.range 128).any fun l => activeLane s k l && (x l).extractLsb' 23 8 == 0xFF })) ∧
  (∀ (s : State) (m : BitVec 3 → Mv), Calm s → (∀ c, FiresB s c (m c)) →
     let port : Nat → Nat → Lane := fun p l => sget s.task.ports.b (16 * p + l)
     let word : BitVec 3 → Lane := fun c => port (128 * c.toNat + 111) 0
     let carries' : Nat → Lane := fun l => (carried s (m (BitVec.ofNat 3 (l / 16)))).getD (l % 16) 0
     let active : Nat → Bool := fun l => activeLane s ((word (BitVec.ofNat 3 (l / 16))).extractLsb' 3 3) l
     let rm := rmOf s.task.fmt.rm
     let pad : Lane → List Lane := fun z => (List.range 128).map fun l => if active l then carries' l else z
     let gives : Nat → (Nat → Bool) → (Nat → Lane) → Flags → Prop := fun off on f fl => ∃ p : BitVec 3 → Pipe,
       exec (.liwIssue (liwOfClusters off m)) s = .next (reached s false 0 8 false fun t =>
         (t.flying (everyCluster.map p)).goTo (t.sq.pc + BitVec.ofNat 64 (liwBytes (liwOfClusters off m)))) ∧
       ∀ c, (p c).ready = s.task.sq.tau + 4 ∧ (p c).dest = .latchB (128 * c.toNat + 112) ∧ (p c).flags = fl ∧
         ∀ l < 16, (p c).mask.getLsbD l = on (16 * c.toNat + l) ∧ (p c).lanes[l]? = some (f (16 * c.toNat + l))
     let fn := (word 0).extractLsb' 0 3
     ((∀ c, word c &&& 0xFFFFFFC7 = 0) → gives 115 active (fun l => let q := (carries' l).toNat % 128
       port (128 * (q / 16) + 109) (q % 16)) Flags.none) ∧
     ((∀ c, (word c).extractLsb' 6 26 = 0 ∧ (word c).extractLsb' 0 3 = fn) →
       (fn = 0 → let a := laneTree (fpAdd rm) (pad 0x80000000)
         let b := laneTree (fun p q => (fpMax p q, Flags.none)) (pad 0xFF800000)
         gives 116 (fun _ => true) (fun _ => a.1) a.2 ∧ gives 117 (fun _ => true) (fun _ => b.1) b.2) ∧
       (fn = 1 → let a := laneTree (fun p q => (p + q, Flags.none)) (pad 0)
         let b := laneTree (fun p q => (if p.slt q then q else p, Flags.none)) (pad 0x80000000)
         gives 116 (fun _ => true) (fun _ => a.1) a.2 ∧ gives 117 (fun _ => true) (fun _ => b.1) b.2)) ∧
     (∀ (c : BitVec 3) (off : Nat), 115 ≤ off → off ≤ 117 → let dst : BitVec 10 := BitVec.ofNat 10 (128 * c.toNat + off)
       exec (.liwIssue (liwOfMoveB dst (m c))) s = .next (issuedB s dst (m c) fun t => t.addFlags flagNv)) ∧
     ∀ off, off = 115 ∧ (∃ c, word c &&& 0xFFFFFFC7 ≠ 0) ∨
         (off = 116 ∨ off = 117) ∧ (∃ c, (word c).extractLsb' 6 26 ≠ 0 ∨ (word c).extractLsb' 0 3 ≠ fn ∨ 2 ≤ fn.toNat) →
       exec (.liwIssue (liwOfClusters off m)) s = .next (reached s false 0 8 false fun t =>
         (t.addFlags flagNv).goTo (t.sq.pc + BitVec.ofNat 64 (liwBytes (liwOfClusters off m)))))

/-- VCVT between the formats of R33: lane by lane, and from D2P8 with each lane's own scale; to D2P8 each block of 32 lanes is
encoded over its active lanes alone, and an inactive lane keeps its value (R119, R134). The elementary functions over the active
lanes, with every special input of R135. -/
def Obligations.VectorConversion : Prop :=
  (∀ (s : State) (g : Gd) (v a : BitVec 5) (src k dst : BitVec 3), Calm s → guardOn s g = true →
     let x := fun l => s.task.vlane a.toNat l
     let rm := rmOf s.task.fmt.rm
     (dst ≠ 7 → src ≠ 7 → WritesLanes s (.vcvt g v a src k dst) v k fun l =>
       cvt (x l) (formatOf src.toNat) (formatOf dst.toNat) rm s.task.fmt.sat) ∧
     (dst ≠ 7 → WritesLanes s (.vcvt g v a 7 k dst) v k fun l =>
       let e := d2Decode ((x l).extractLsb' 0 8) ((x l).extractLsb' 8 8)
       let r := cvt e.1 .fp32 (formatOf dst.toNat) rm s.task.fmt.sat
       (r.1, e.2.or r.2)) ∧
     ∃ r, exec (.vcvt g v a 0 k 7) s = .next (bundled s fun t => { t with vregs := r }) ∧
       (∀ (w : BitVec 5) (l : Nat), l < 128 → ¬ (w = v ∧ activeLane s k l = true) →
         sget r (128 * w.toNat + l) = s.task.vlane w.toNat l) ∧
       ∀ c < 4, ∀ i < 32, activeLane s k (32 * c + i) = true →
         let block := (List.range 32).filter fun j => activeLane s k (32 * c + j)
         let e := d2Block (block.map fun j => x (32 * c + j))
         sget r (128 * v.toNat + (32 * c + i)) =
           (e.2.getD ((List.range i).countP fun j => activeLane s k (32 * c + j)) 0).setWidth 32
             ||| (e.1.setWidth 32 <<< (8 : Nat))) ∧
  ((∀ (s : State) (g : Gd) (v a : BitVec 5) (k : BitVec 3), Calm s → guardOn s g = true →
     let x := fun l => s.task.vlane a.toNat l
     let rm := rmOf s.task.fmt.rm
     (WritesLanes s (.vexp2 g v a k) v k fun l => vexp2 rm (x l)) ∧ (WritesLanes s (.vlog2 g v a k) v k fun l => vlog2 rm (x l)) ∧
     (WritesLanes s (.vrcp g v a k) v k fun l => vrcp rm (x l)) ∧ WritesLanes s (.vrsq g v a k) v k fun l => vrsq rm (x l)) ∧
   ∀ rm : Rm,
     (∀ z ∈ [(0 : Lane), 0x80000000], vexp2 rm z = (0x3F800000, Flags.none) ∧ vlog2 rm z = (0xFF800000, flagDz) ∧
       vrcp rm z = (z ||| 0x7F800000, flagDz) ∧ vrsq rm z = (z ||| 0x7F800000, flagDz)) ∧
     vexp2 rm 0x7F800000 = (0x7F800000, Flags.none) ∧ vlog2 rm 0x7F800000 = (0x7F800000, Flags.none) ∧
     vrcp rm 0x7F800000 = (0, Flags.none) ∧ vrsq rm 0x7F800000 = (0, Flags.none) ∧
     vexp2 rm 0xFF800000 = (0, Flags.none) ∧ vlog2 rm 0xFF800000 = (0x7FC00000, flagNv) ∧
     vrcp rm 0xFF800000 = (0x80000000, Flags.none) ∧ vrsq rm 0xFF800000 = (0x7FC00000, flagNv) ∧
     (∀ z : Lane, z.getLsbD 31 = true → z.extractLsb' 0 31 ≠ 0 → ¬ nan32 z = true →
       vlog2 rm z = (0x7FC00000, flagNv) ∧ vrsq rm z = (0x7FC00000, flagNv)) ∧
     ∀ z : Lane, nan32 z = true → vexp2 rm z = (z ||| 0x00400000, Flags.none) ∧ vlog2 rm z = (z ||| 0x00400000, Flags.none) ∧
       vrcp rm z = (z ||| 0x00400000, Flags.none) ∧ vrsq rm z = (z ||| 0x00400000, Flags.none))

/-- BR and JMP of both layers: to a legal target the next LIW or bundle is the target, the loop levels that do not hold it are
popped, and nothing else changes; to any other target the branch raises ILLEGAL and is suppressed (R84, R85, R86). The tests of an
LIW are a decision list: the first true one takes its path and the LIW goes on at its target word, none at the next LIW; moves that
a tag gives to another path are not performed, and the others read the state at the start and write their registers and predicates
at the end (s0 and p0 excepted). A target at which no LIW begins raises ILLEGAL (R30, R39 to R41, R46). LOOP of both layers: with a
count a level is pushed with the pending configuration, with a count of 0 the body is left out; in either case the pending
configuration is reset; a sixth level open raises STACK_OVF (R87, R89). ENDL of both layers at the end of the innermost level: with
more iterations the stage predicates rotate, the strides are added and the next LIW is the start of the body; after the last the
level is popped and the next LIW is the one after its end; a move of the same LIW to a register or predicate writes after the
rotation and the additions (R91); anywhere else ENDL raises ILLEGAL (R90). -/
def Obligations.BranchesAndLoops : Prop :=
  ((∀ (s : State) (g : Gd) (o : BitVec 21) (a : BitVec 5), Calm s → guardOn s g = true →
     let go : Instr → Word → Prop := fun i t =>
       if s.isBundle t then exec i s = .next (bundledTo s t fun u => u.leave t) else FaultsAt s i .illegal 0 0
     go (.br g o) (s.task.sq.pc + o.signExtend 64 * 16) ∧ go (.jmp g a) (s.reg a)) ∧
   (∀ (s : State) (m : Mv), Calm s → Fires s m →
     let v := moved s m
     (if v.toNat % 4 = 0 ∧ s.isStart (s.task.sq.pc + v) = true then
         exec (.brNative m) s = .next (issuedTo s (s.task.sq.pc + v) fun u => u.leave (s.task.sq.pc + v))
       else FaultsAt s (.brNative m) .illegal 0 0) ∧
     if v.toNat < 2 ^ 56 ∧ s.isStart v = true then exec (.jmpNative m) s = .next (issuedTo s v fun u => u.leave v)
     else FaultsAt s (.jmpNative m) .illegal 0 0)) ∧
  (∀ (s : State) (w : Liw), Calm s → liwLegal w = true → w.hasB = false → w.maskB = 0 → w.pop = 0 →
     (∀ x ∈ w.moves, x.dst.toNat < 48) → (liwBuses w).length = w.moves.length → w.targets.length = w.nt.toNat →
     let path := (List.range w.nt.toNat).find? fun k => guardOn s (liwTest w k)
     let live := (withLongs (liwBusMoves w) w.longs).filter fun x => moveLive s.task (path.elim 5 fun k => k + 1) x.2.1.mv
     let value : Nat × Move × BitVec 32 → Word := fun x => sourceA s.task x.2.1.mv x.2.2
     let target := match path with
       | none => s.task.sq.pc + BitVec.ofNat 64 (liwBytes w)
       | some k => s.task.sq.pc + (w.targets.getD k 0).signExtend 64
     (path.isSome = true → s.isStart target = false → FaultsAt s (.liwIssue w) .illegal 0 0xFF) ∧
     ((path.isSome = true → s.isStart target = true) → ∃ u : Task,
       exec (.liwIssue w) s = .next (reached s false 0 0 path.isSome fun _ => u) ∧
       (∀ r : BitVec 5, u.sreg r.toNat = match live.find? fun x => x.2.1.dst.toNat = r.toNat with
         | some x => if r = 0 then 0 else value x
         | none => s.task.sreg r.toNat) ∧
       (∀ p : BitVec 4, u.pred p.toNat = match live.find? fun x => x.2.1.dst.toNat = 32 + p.toNat with
         | some x => if p = 0 then true else (value x).getLsbD 0
         | none => s.task.pred p.toNat) ∧
       u.sq = { s.task.sq with pc := target, loops := if path.isSome = true then (s.task.leave target).sq.loops else s.task.sq.loops } ∧
       u.fr = { s.task.fr with glob := u.fr.glob, win := u.fr.win } ∧ u = { s.task with fr := u.fr, preds := u.preds, sq := u.sq })) ∧
  (let push : Task → Loop → Task := fun t l =>
     { t with sq := { t.sq with loops := l :: t.sq.loops, cfg := LoopCfg.reset },
              preds := if t.sq.cfg.r then (t.preds &&& 0x00FF) ||| 0x0100 else t.preds }
   let skip : Task → Word → Task := fun t a =>
     ({ t with sq := { t.sq with cfg := LoopCfg.reset } } : Task).leave a
   (∀ (s : State) (g : Gd) (c : BitVec 5) (o : BitVec 16), Calm s → guardOn s g = true →
     let stop := s.task.sq.pc + o.setWidth 64 * 16
     let n := s.reg c
     s.isBundle stop = true → LoopFits s n stop →
       (n ≠ 0 → exec (.loop g c o) s = .next (bundled s fun t =>
         push t (newLevel t (t.sq.pc + 16) stop (s.following stop) n.toNat))) ∧
       (n = 0 → exec (.loop g c o) s = .next (bundledTo s (s.following stop) fun t => skip t (s.following stop)))) ∧
   (∀ (s : State) (m : Mv), Calm s → Fires s m →
     let off := s.port 64
     let stop := s.task.sq.pc + off
     let n := moved s m
     off ≠ 0 → off.toNat % 4 = 0 → off.toNat < 2 ^ 24 → s.isStart stop = true → LoopFits s n stop →
       (n ≠ 0 → exec (.loopNative m) s = .next (issued s 74 m fun t =>
         push t (newLevel t (afterRow s 74 m) stop (s.following stop) n.toNat))) ∧
       (n = 0 → exec (.loopNative m) s = .next (issuedTo s (s.following stop) fun t => skip t (s.following stop)))) ∧
   ∀ (s : State) (g : Gd) (c : BitVec 5) (o : BitVec 16), Calm s → guardOn s g = true →
     let stop := s.task.sq.pc + o.setWidth 64 * 16
     s.isBundle stop = true → (s.reg c).toNat < 2 ^ 32 → s.task.sq.cfg.r = false →
     (∀ l, s.task.sq.loops.head? = some l → l.depth = s.task.fr.depth → stop.toNat < l.stop.toNat) →
     6 ≤ s.task.sq.loops.length → FaultsAt s (.loop g c o) .stackOvf 0 0) ∧
  (let back : Task → Loop → List Loop → Task := fun t l ls =>
     let more := l.j + 1 < l.n + l.e
     let p : BitVec 16 := if l.j + 1 < l.n then 0x0100 else 0
     let t1 : Task := { t with preds := if l.r = true ∧ more then (t.preds &&& 0x00FF) ||| ((t.preds &&& 0x7F00) <<< (1 : Nat)) ||| p
                                        else t.preds }
     let t2 := if l.en0 then t1.setSReg l.reg0 (t1.fr.get l.reg0 + l.stride0) else t1
     let t3 := if l.en1 then t2.setSReg l.reg1 (t1.fr.get l.reg1 + l.stride1) else t2
     { t3 with sq := { t3.sq with loops := if more then { l with j := l.j + 1 } :: ls else ls } }
   (∀ (s : State) (l : Loop) (ls : List Loop), Still s → s.task.sq.loops = l :: ls → l.depth = s.task.fr.depth →
     l.stop = s.task.sq.pc →
     let target := if l.j + 1 < l.n + l.e then l.start else l.after
     exec .endl s = .next (bundledTo s target fun t => back t l ls) ∧
     ∀ (src : BitVec 10) (i : Bool), (i = true ∨ src = 1023 ∨ readableA src.toNat = true) →
       exec (.endlNative src i) s = .next (issuedTo s target fun t => back t l ls)) ∧
   (∀ (s : State) (l : Loop) (ls : List Loop) (m : Mv) (d : BitVec 10) (src : BitVec 10) (i : Bool), Still s → s.task.sq.loops = l :: ls →
     l.depth = s.task.fr.depth → l.stop = s.task.sq.pc → Fires s m → d.toNat < 48 → (i = true ∨ src = 1023 ∨ readableA src.toNat = true) →
     let w := liwOfTwo { dst := 75, mv := { src := src, imm := i, g := 0, n := false, tag := 0, lf := 0 } } { dst := d, mv := m }
     exec (.liwIssue w) s = .next (issuedTo s (if l.j + 1 < l.n + l.e then l.start else l.after) fun t =>
       if d.toNat < 32 then (back t l ls).setSregAt t.fr.fb d.toNat (moved s m) else (back t l ls).setPred (d.toNat - 32) ((moved s m).getLsbD 0))) ∧
   ∀ s : State, Calm s → FaultsAt s .endl .illegal 0 0 ∧
     ∀ (src : BitVec 10) (i : Bool), (i = true ∨ src = 1023 ∨ readableA src.toNat = true) → FaultsAt s (.endlNative src i) .illegal 0 0)

/-- CALL and CALLI of both layers: the call action with the form's slide, target and return address. A CALLI reads the descriptor
that its address names in the descriptor map: an address that the map does not hold, or a class other than the one it holds, raises
CALL_SIG, a read that fails its checks their fault, and an entry at which no LIW begins ILLEGAL (R46, R103, R105, R106). CALLR of
both layers: a routine of the calling object that no unit stands for runs its body, called like any procedure, and the outermost one
that restarts at its entry is remembered with the CALLR's address, s2, RB and loop levels; an ID that names nothing raises ILLEGAL;
the frame is remembered as a routine's unless a unit runs (R107, R317, R318, R320). A service called by CALLR performs its
instruction with the arguments in the callee's s8 upward and returns with the result in s8: sv.tnow the τ of the CALLR, with 0 and
TAINT at DL2; sv.qstat the queue's word; sv.qpop the head, which it advances for P = 1; sv.qwait waits in the CALLR; a fault is
raised at the CALLR with bus 0xFF, an ID that is undefined ILLEGAL; a service that holds its caller for a command goes on when the
command has been performed (R107, R311). A routine with a native unit that may stand for it: the CALLR leaves the unit to be
performed between two pre-emption points, and the unit then writes its results whole and returns to the address after the CALLR, or
reports its fault at the CALLR. Where ranges of the call overlap the body runs. mb.dot4.bf16 gives the chain of fused multiply-adds
of its eight BF16 values. An output of a NEAR unit keeps its sign, stays finite and no zero where the body's is, and moves by at
most EB units in the last place (R97, R311, R316, R318 to R320, R323). -/
def Obligations.CallsAndRoutines : Prop :=
  ((∀ (s : State) (g : Gd) (o a b : BitVec 5) (f : BitVec 16) (t : Task), Calm s → guardOn s g = true → 1 ≤ o.toNat →
     o.toNat ≤ 24 → CallFits s o.toNat t →
     let tgt := s.task.sq.pc + f.signExtend 64 * 16
     let ret := s.task.sq.pc + 16
     (s.isBundle tgt = true → exec (.call g o f) s = .next (bundledTo s tgt fun _ => t.called ret o.toNat)) ∧
     (s.isBundle tgt = false → FaultsAt s (.call g o f) .illegal 0 0) ∧
     CallsBy s (.calli g o a b) (s.reg a) ((s.reg b).extractLsb' 0 16) fun u e => bundledTo u e fun _ => t.called ret o.toNat) ∧
   (∀ (s : State) (m : Mv) (t : Task), Calm s → Fires s m → CallFits s (s.port 64).toNat t →
     let o := (s.port 64).toNat
     let v := moved s m
     let tgt := s.task.sq.pc + v
     (1 ≤ o ∧ o ≤ 24 ∧ v.toNat % 4 = 0 ∧ s.isStart tgt = true →
       exec (.callNative m) s = .next (issuedTo s tgt fun _ => t.called (afterRow s 70 m) o)) ∧
     (¬ (1 ≤ o ∧ o ≤ 24 ∧ v.toNat % 4 = 0 ∧ s.isStart tgt = true) → FaultsAt s (.callNative m) .illegal 0 0) ∧
     (1 ≤ o ∧ o ≤ 24 →
       CallsBy s (.calliNative m) v ((s.port 65).extractLsb' 0 16) fun u e => issuedTo u e fun _ => t.called (afterRow s 71 m) o))) ∧
  (let marked : State → Routine → Task → Task := fun s r u =>
     { u with
       restart := if r.restart = true ∧ s.task.restart = none then
           some { depth := s.task.fr.depth + 1, pc := s.task.sq.pc, s2 := s.task.s2, rb := s.task.fr.rb, loops := s.task.sq.loops.length }
         else s.task.restart,
       calls := if s.task.inUnit then s.task.calls
         else { depth := s.task.fr.depth + 1, entry := none, known := r.known, flags := s.task.fmt.flags, owed := s.task.eddyFlags,
                clears := (s.task.eddyFmts.filter fun x => x.2.getLsbD 15).map fun x => x.1, loads := [], bytes := [], regs := [] }
           :: s.task.calls }
   (∀ (s : State) (g : Gd) (o : BitVec 5) (i : BitVec 16) (t : Task), Calm s → guardOn s g = true → 1 ≤ o.toNat →
     o.toNat ≤ 24 → i.toNat < 0xF000 → CallFits s o.toNat t →
     match s.routineAt s.task.sq.pc i.toNat with
     | none => FaultsAt s (.callr g o i) .illegal 0 0
     | some r => r.choice s.bindLevel = none →
       exec (.callr g o i) s = .next (bundledTo s r.entry fun _ => marked s r (t.called (s.task.sq.pc + 16) o.toNat))) ∧
   (∀ (s : State) (m : Mv) (t : Task), Calm s → Fires s m → CallFits s (s.port 64).toNat t →
     let o := (s.port 64).toNat
     let v := moved s m
     1 ≤ o → o ≤ 24 →
     (2 ^ 16 ≤ v.toNat → FaultsAt s (.callrNative m) .illegal 0 0) ∧
     (v.toNat < 0xF000 → match s.routineAt s.task.sq.pc v.toNat with
       | none => FaultsAt s (.callrNative m) .illegal 0 0
       | some r => r.choice s.bindLevel = none →
         exec (.callrNative m) s = .next (issuedTo s r.entry fun _ => marked s r (t.called (afterRow s 73 m) o))))) ∧
  ((∀ (s : State) (g : Gd) (o : BitVec 5) (t : Task), Calm s → guardOn s g = true → 1 ≤ o.toNat → o.toNat ≤ 22 → CallFits s o.toNat t → t.fr.rb ≤ t.fr.fb →
     let arg : Nat → Word := fun k => t.sreg (8 + o.toNat + k)
     let call : BitVec 16 → Instr := fun id => .callr g o id
     let returns : Instr → Word → (Task → Prop) → Prop := fun i y p => ∃ u, exec i s = .next u ∧ u.task.sq.pc = s.task.sq.pc + 16 ∧
       u.cur.status = .ready ∧ u.task.fr.depth = s.task.fr.depth ∧ u.task.fr.fb = s.task.fr.fb ∧ u.task.s2 = t.s2 ∧
       u.task.sreg (8 + o.toNat) = y ∧ u.gcyc = (comeUp s).gcyc ∧ p u.task
     (s.task.tstat.dl ≠ .dl2 → returns (call 0xF01A) (BitVec.ofNat 64 s.task.sq.tau) fun u => u.tstat = s.task.tstat) ∧
     (s.task.tstat.dl = .dl2 → returns (call 0xF01A) 0 fun u => u.tstat.taint = true) ∧
     ((arg 0).toNat < 8 → returns (call 0xF014) (match t.queue? (arg 0).toNat with
       | none => 0
       | some b => BitVec.ofNat 64 (b.fill + b.head * 2 ^ 16 + b.tail * 2 ^ 32)) fun u => u.queues = s.task.queues) ∧
     (8 ≤ (arg 0).toNat → FaultsAt s (call 0xF014) .queue 0 0xFF) ∧
     (t.queue? (arg 0).toNat = none → FaultsAt s (call 0xF015) .queue 0 0xFF) ∧
     (∀ b, t.queue? (arg 0).toNat = some b →
       (arg 1 = 0 → returns (call 0xF015) (t.latch b.j) fun u => u.queues = s.task.queues) ∧
       (arg 1 ≠ 0 → b.fill = 0 → FaultsAt s (call 0xF015) .queue 0 0xFF) ∧
       (arg 1 ≠ 0 → b.fill ≠ 0 → returns (call 0xF015) (t.latch b.j) fun u => u.queues = (applyAcct s.task [(b.j, 1, 0)]).queues)) ∧
     (∀ b, (arg 0).toNat < 8 → t.queue? (arg 0).toNat = some b → 1 ≤ (arg 1).toNat → (arg 1).toNat ≤ b.depth → b.fill < (arg 1).toNat →
       exec (call 0xF013) s = .next (held (comeUp s) .qwait)) ∧
     ∀ id : BitVec 16, 0xF01C ≤ id.toNat ∧ id.toNat ≤ 0xF01F ∨ 0xF052 ≤ id.toNat ∧ id.toNat ≤ 0xF057 ∨
       0xF05A ≤ id.toNat ∧ id.toNat ≤ 0xF05F → FaultsAt s (call id) .illegal 0 0) ∧
   ∀ (s : State) (k : Nat),
     (s.cmd? k = none → (resumeCall s k).cur.status = .ready ∧ (resumeCall s k).task.sq.pc = (topLink s.task.fr).ret ∧
       (resumeCall s k).task.fr.depth = s.task.fr.depth - 1) ∧
     (∀ c, s.cmd? k = some c → lateFault s.task = none → resumeCall s k = s)) ∧
  ((∀ (s : State) (g : Gd) (o : BitVec 5) (i : BitVec 16) (t : Task) (r : Routine) (e : SubstEntry), Calm s → guardOn s g = true →
     1 ≤ o.toNat → o.toNat ≤ 24 → i.toNat < 0xF000 → CallFits s o.toNat t → s.routineAt s.task.sq.pc i.toNat = some r →
     r.choice s.bindLevel = some e →
     let u := t.called (s.task.sq.pc + 16) o.toNat
     let k : Restart := { depth := s.task.fr.depth + 1, pc := s.task.sq.pc, s2 := s.task.s2, rb := s.task.fr.rb,
                          loops := s.task.sq.loops.length }
     let w : Task := { u with restart := if r.restart = true ∧ s.task.restart = none then some k else s.task.restart }
     let b := bundledTo s r.entry fun _ => w
     (unitAllowed u e = true → e.near = false → (unitEffect e.unit.toNat).isSome = true → exec (.callr g o i) s =
       .next { b with cur := { b.cur with status := .waiting (.unit e.unit.toNat (e.na + e.nr) (unitTop e)) } }) ∧
     (unitAllowed u e = false → ∃ x, exec (.callr g o i) s = .next x ∧ x.task.sq.pc = r.entry ∧ x.task.fr = w.fr ∧
       x.task.restart = w.restart ∧ (s.task.inUnit = false → ∃ f, x.task.calls = f :: s.task.calls ∧ f.entry = none)) ∧
     (unitAllowed u e = true → (e.near = true ∨ unitEffect e.unit.toNat = none) → s.task.inUnit = false →
       ∃ x f, exec (.callr g o i) s = .next x ∧ x.task.sq.pc = r.entry ∧ x.task.fr = w.fr ∧ x.task.calls = f :: s.task.calls ∧
         f.entry = some e)) ∧
   (∀ (s : State) (n keep top : Nat) (f : State → Except Halt State), unitEffect n = some f →
     (∀ x, f s = .error (.fault x) → unitStep s n keep top = if s.loading = true then none else some (faulted s x)) ∧
     ∀ s1, f s = .ok s1 → ∃ u, unitStep s n keep top = some u ∧ u.cur.status = .ready ∧ u.task.sq.pc = (topLink s1.task.fr).ret ∧
       u.task.fr.depth = s1.task.fr.depth - 1 ∧ u.task.fmt = s1.task.fmt ∧ u.gcyc = s1.gcyc) ∧
   (∀ s : State, ∃ f, unitEffect 0x0041 = some f ∧
     let t := s.task
     let rm := rmOf t.fmt.rm
     let half : Nat → Nat → Lane := fun r k => (cvt (((t.sreg r).extractLsb' (16 * k) 16).setWidth 32) .bf16 .fp32 rm t.fmt.sat).1
     let p0 := fpMul rm (half 8 0) (half 9 0)
     let p1 := fpFma rm (half 8 1) (half 9 1) p0.1
     let p2 := fpFma rm (half 8 2) (half 9 2) p1.1
     let p3 := fpFma rm (half 8 3) (half 9 3) p2.1
     f s = .ok (s.setTask ((t.addFlags (((p0.2.or p1.2).or p2.2).or p3.2)).setSregAt t.fr.fb 10 (p3.1.setWidth 64)))) ∧
   ∀ (eb i : Nat) (x : Lane), let m := x.toNat % 2 ^ 31
     let y := nearLane eb i x
     (m = 0 ∨ 0x7F800000 ≤ m → y = x) ∧
     (m ≠ 0 → m < 0x7F800000 → y.getLsbD 31 = x.getLsbD 31 ∧ 0 < y.toNat % 2 ^ 31 ∧ y.toNat % 2 ^ 31 < 0x7F800000 ∧
       y.toNat % 2 ^ 31 ≤ m + eb ∧ m ≤ y.toNat % 2 ^ 31 + eb))

/-- RET of both layers: the loop levels of the returning depth are popped, the caller's frame is filled from its record where it is
spilled, FB and depth go back, and the next LIW or bundle is at the return address, also from the frame of a routine, whose return
leaves values open (R317); at depth 0, and to an address at which no LIW begins, it raises ILLEGAL (R46, R93, R109). The spills of a
call: none while the call fits; else the oldest frame's private entries, its return address and its entering slide go to s2 in that
order, s2 and RB advance, its link leaves the core; and no record passes BSLIM (R103, R108). A fill undoes a spill: after a spill of
the oldest frame and a fill with its slide and base, every scalar register, s2, RB and the links are as before (R108, R109). -/
def Obligations.ReturnsAndFrames : Prop :=
  (∀ (s : State) (t : Task), Calm s →
     let k := topLink s.task.fr
     (t = if needsFill s.task.fr then fillFrame s.task k.o (subFb s.task.fr.fb k.o) else s.task) →
     (needsFill s.task.fr = true → s.task.s2.toNat % 8 = 0 ∧ s.task.fr.bsbase + (8 * k.o + 16) ≤ s.task.s2.toNat) →
     let back : State → Prop := fun u => u.task.sq.pc = k.ret ∧ u.task.fr.depth = s.task.fr.depth - 1 ∧
       u.task.fr.fb = subFb s.task.fr.fb k.o ∧ u.task.s2 = t.s2 ∧ u.task.sq.loops = (t.returned k.o s.task.fr.depth).sq.loops
     (∀ g : Gd, guardOn s g = true →
       if s.task.fr.depth = 0 ∨ s.isStart k.ret = false then FaultsAt s (.ret g) .illegal 0 0
       else (∃ u, exec (.ret g) s = .next u ∧ back u) ∧ ((∀ x ∈ s.task.calls, x.depth ≠ s.task.fr.depth) →
         exec (.ret g) s = .next (bundledTo s k.ret fun u => t.returned k.o u.fr.depth))) ∧
     ∀ m : Mv, Fires s m →
       if s.task.fr.depth = 0 ∨ s.isStart k.ret = false then FaultsAt s (.retNative m) .illegal 0 0
       else (∃ u, exec (.retNative m) s = .next u ∧ back u) ∧ ((∀ x ∈ s.task.calls, x.depth ≠ s.task.fr.depth) →
         exec (.retNative m) s = .next (issuedTo s k.ret fun u => t.returned k.o u.fr.depth))) ∧
  ((∀ (t : Task) (o n : Nat),
     (t.fr.fb + o + 24 ≤ t.fr.rb + 256 ∧ t.fr.links.length + 1 ≤ 32 → planSpills o n t = some t) ∧
     (¬ (t.fr.fb + o + 24 ≤ t.fr.rb + 256 ∧ t.fr.links.length + 1 ≤ 32) →
       planSpills o (n + 1) t =
         if t.s2.toNat + (8 * oldestSlide t.fr + 16) ≤ t.fr.bslim then planSpills o n (spillOne t) else none)) ∧
   (∀ (t : Task), let o := oldestSlide t.fr
     t.s2.toNat + (8 * o + 16) < 2 ^ 64 →
     (∀ i < o, ∀ k < 8, sget (spillOne t).lmem (t.s2.toNat + 8 * i + k) =
       (sget t.fr.win ((t.fr.rb + i) % 256)).extractLsb' (8 * k) 8) ∧
     (∀ k < 8, sget (spillOne t).lmem (t.s2.toNat + 8 * o + k) =
       if t.fr.low = 0 then 0 else (oldestLink t.fr.links).ret.extractLsb' (8 * k) 8) ∧
     (∀ k < 8, sget (spillOne t).lmem (t.s2.toNat + 8 * o + 8 + k) =
       if t.fr.low = 0 then 0 else (BitVec.ofNat 64 (oldestLink t.fr.links).o).extractLsb' (8 * k) 8) ∧
     (∀ x, x < t.s2.toNat ∨ t.s2.toNat + (8 * o + 16) ≤ x → sget (spillOne t).lmem x = sget t.lmem x) ∧
     (spillOne t).s2 = t.s2 + BitVec.ofNat 64 (8 * o + 16) ∧ (spillOne t).fr.rb = t.fr.rb + o ∧
     (spillOne t).fr.links = (if t.fr.low = 0 then t.fr.links else t.fr.links.dropLast) ∧ (spillOne t).fr.low = t.fr.low + 1 ∧
     (spillOne t).fr.fb = t.fr.fb ∧ (spillOne t).fr.depth = t.fr.depth ∧ (spillOne t).fr.win = t.fr.win)) ∧
  (∀ t : Task, let o := oldestSlide t.fr
     o ≤ 24 → t.s2.toNat + (8 * o + 16) < 2 ^ 64 → t.fr.links ≠ [] → (oldestLink t.fr.links).o ≤ 24 →
     let u := fillFrame (spillOne t) o t.fr.rb
     (∀ r : SReg, u.fr.get r = t.fr.get r) ∧ u.s2 = t.s2 ∧ u.fr.rb = t.fr.rb ∧ u.fr.links = t.fr.links ∧ u.fr.low = t.fr.low ∧
       u.fr.fb = t.fr.fb ∧ u.fr.depth = t.fr.depth)

/-- LSET takes its trigger value and the two strides into the pending configuration; a reserved bit, or an enabled pair that names
s0, raises ILLEGAL (R88). SPRED writes the stage predicates under its mask (R94). A move to ctl.nop does nothing (R42). -/
def Obligations.SequencerWrites : Prop :=
  ∀ (s : State) (m : Mv), Calm s → Fires s m →
    let v := moved s m
    let reg0 := v.extractLsb' 0 5
    let reg1 := v.extractLsb' 5 5
    (if v.toNat < 2 ^ 16 ∧ ¬ (v.getLsbD 14 = true ∧ reg0 = 0) ∧ ¬ (v.getLsbD 15 = true ∧ reg1 = 0) then
      exec (.lset m) s = .next (issued s 80 m fun t => { t with sq := { t.sq with cfg :=
        { e := v.extractLsb' 10 3, r := v.getLsbD 13, reg0 := reg0, reg1 := reg1, en0 := v.getLsbD 14, en1 := v.getLsbD 15,
          stride0 := s.port 64, stride1 := s.port 65 } } })
     else FaultsAt s (.lset m) .illegal 0 0) ∧
    (if v.toNat < 2 ^ 16 then ∃ p : BitVec 16, exec (.spred m) s = .next (issued s 81 m fun t => { t with preds := p }) ∧
        ∀ j < 16, p.getLsbD j = if 8 ≤ j ∧ v.getLsbD j = true then v.getLsbD (j - 8) else s.task.preds.getLsbD j
     else FaultsAt s (.spred m) .illegal 0 0) ∧
    exec (.nopNative m) s = .next (issued s 78 m fun t => t)

/-- FMTSET of both layers: RM and SAT from the value, and CLR clears the four sticky flags; of Peman it stands for the next bundle,
natively it is pending for τ t + 4; a reserved bit raises ILLEGAL (R63, R64, R113). A FMTSET of Peman stands behind every native one
that is still pending (the model's reading, log 45). -/
def Obligations.FormatWrites : Prop :=
  (∀ (s : State) (g : Gd) (v : BitVec 16), Calm s → guardOn s g = true →
    if v.toNat / 8 % 4096 = 0 then exec (.fmtset g v) s = .next (bundled s fun t => let u := t.settleAllFmt
      { u with fmt := { rm := v.extractLsb' 0 2, sat := v.getLsbD 2, flags := if v.getLsbD 15 then Flags.none else u.fmt.flags } })
    else FaultsAt s (.fmtset g v) .illegal 0 0) ∧
  (∀ t : Task, t.fmtPend = [] → (∀ e ∈ t.eddy, ∃ p, e.val = .result p) → t.settleAllFmt = t) ∧
  (∀ (s : State) (m : Mv), Calm s → Fires s m →
    let v := moved s m
    if v.toNat < 2 ^ 16 ∧ v.toNat / 8 % 4096 = 0 then
      exec (.fmtsetNative m) s = .next (issued s 79 m fun t => { t with fmtPend := [(t.sq.tau + 4, v.setWidth 16)] })
    else FaultsAt s (.fmtsetNative m) .illegal 0 0) ∧
  ∀ (t : Task) (k : Nat) (v : BitVec 16), t.fmtPend = [(k, v)] →
    (t.sq.tau < k → t.settleFmt = t) ∧
    (k ≤ t.sq.tau → t.settleFmt = { t with fmtPend := [], fmt :=
      { rm := v.extractLsb' 0 2, sat := v.getLsbD 2, flags := if v.getLsbD 15 then Flags.none else t.fmt.flags } })

/-- TNOW answers τ. GCYRD answers the GCYC at which its LIW issues, ENRD the nanojoules that the unit and the context have drawn and
that the context has left, and its grant in microjoules (R359, R363), and CORID with 5 the physical core: at DL0 so, at DL1 and DL2
0 with TAINT set (R19, R166, R167, R270). CORID with 0 to 4 answers the unit's index, its launch's size, its logical core and die
and its launch's handle at every level. Other values raise ILLEGAL. CNTRD answers ISSUED, COMPLETED, CANCELLED or the barrier
arrivals of the object whose handle ctl.a holds, ISSUED of an object that is still open as the number of its members so far (the
model's reading, log 41); at DL1 and DL2 a read of an object that is not finished sets TAINT; a handle that names no object of the
context raises PROT (R254, R255, R270). SUBQ answers the binding of an ID at DL0: CVER, UNIT and the path a CALLR would take; 1 and
UNIT 0xFFFF for a service, 3 for an ID that names nothing; at DL1 and DL2 it answers 0 and sets TAINT; a value above 16 bits raises
ILLEGAL (R320). -/
def Obligations.SequencerReads : Prop :=
  (∀ (s : State) (m : Mv), Calm s → Fires s m →
     let v := moved s m
     let u := s.cur
     let e := s.curCtx.energy
     let real : Instr → BitVec 10 → Nat → Prop := fun i d n => exec i s = .next (issued s d m fun t =>
       if s.task.tstat.dl = .dl0 then t.putPort 67 (BitVec.ofNat 64 n) else t.setTaint.putPort 67 0)
     let fixed : Nat → Prop := fun n => exec (.corid m) s = .next (issued s 91 m fun t => t.putPort 67 (BitVec.ofNat 64 n))
     exec (.tnow m) s = .next (issued s 85 m fun t => t.putPort 67 (BitVec.ofNat 64 t.sq.tau)) ∧
     real (.gcyrd m) 86 (max s.gcyc s.cur.nextG) ∧
     (v = 0 → real (.enrd m) 106 u.energy) ∧ (v = 1 → real (.enrd m) 106 e.metered) ∧
     (v = 2 → real (.enrd m) 106 (1000 * e.grant - e.metered)) ∧ (v = 3 → real (.enrd m) 106 e.grant) ∧
     (4 ≤ v.toNat → FaultsAt s (.enrd m) .illegal 0 0) ∧
     (v = 0 → fixed u.index) ∧ (v = 1 → ∀ l, s.launchOf u = some l → fixed l.u) ∧ (v = 2 → fixed u.lcore) ∧
     (v = 3 → fixed (u.lcore / if s.task.tstat.dl = .dl2 then 80 else 96)) ∧ (v = 4 → fixed u.launch) ∧
     (v = 5 → real (.corid m) 91 u.core) ∧ (6 ≤ v.toNat → FaultsAt s (.corid m) .illegal 0 0)) ∧
  (∀ (s : State) (m : Mv), Calm s → Fires s m →
     let v := moved s m
     let h := (s.port 64).toNat
     let c := s.curCtx
     (2 ^ 32 ≤ h ∨ 4 ≤ v.toNat → FaultsAt s (.cntrd m) .illegal 0 0) ∧
     (h < 2 ^ 32 → v.toNat < 4 → match objectFinished (comeUp s) c h with
       | none => FaultsAt s (.cntrd m) .prot (s.port 64) 0
       | some fin =>
         let gives : Nat → Prop := fun n => exec (.cntrd m) s = .next (issued s 90 m fun t =>
           (if s.task.tstat.dl ≠ .dl0 ∧ fin = false then t.setTaint else t).putPort 67 (BitVec.ofNat 64 n))
         (v = 0 → gives (counters c h).2.2) ∧ (v = 1 → gives (counters c h).1) ∧ (v = 2 → gives (counters c h).2.1) ∧
         (v = 3 → ∀ l, c.launch? h = some l → gives l.arrived) ∧ (v = 3 → c.launch? h = none → gives 0)) ∧
     ∀ l, handleLevel h = 0 → c.launch? h = some l → counters c h = (l.completed, l.cancelled, l.u)) ∧
  (∀ (s : State) (m : Mv), Calm s → Fires s m →
     let v := moved s m
     let gives : Word → Prop := fun w => exec (.subq m) s = .next (issued s 98 m fun t => t.putPort 67 w)
     (2 ^ 16 ≤ v.toNat → FaultsAt s (.subq m) .illegal 0 0) ∧
     (v.toNat < 2 ^ 16 → s.task.tstat.dl ≠ .dl0 →
       exec (.subq m) s = .next (issued s 98 m fun t => t.setTaint.putPort 67 0)) ∧
     (v.toNat < 2 ^ 16 → s.task.tstat.dl = .dl0 →
       ((service? v.toNat).isSome = true → gives 0xFFFF0001) ∧
       (0xF000 ≤ v.toNat → service? v.toNat = none → gives 3) ∧
       (v.toNat < 0xF000 → match s.routineAt s.task.sq.pc v.toNat with
         | none => gives 3
         | some r => match r.nearU, r.eq with
           | some n, _ => n.near = true →
             gives (n.cver.setWidth 64 <<< (32 : Nat) ||| n.unit.setWidth 64 <<< (16 : Nat) ||| 6)
           | none, some e => e.near = false →
             gives (e.cver.setWidth 64 <<< (32 : Nat) ||| e.unit.setWidth 64 <<< (16 : Nat) ||| 1)
           | none, none => gives 0)))

/-- BUCK on a legal table takes the first bucket whose size is at least n: it goes on at the bucket's target, ctl.y holds the
difference and the size, and the chosen mask register, if any, its first n mod 128 lanes (all for a multiple of 128); with no such
bucket it falls through with ctl.y 0 (R95, R96). ICLK takes the lines of a range in ascending order: a locked one counts and uses no
room, each other one is fetched and locked while fewer than 512 are, and it stops at the first that finds no room or that its
fetch's checks refuse, PROT and KEY among them (the model's reading, log 45). The lines it adds stand behind the list in that order;
ctl.y holds how many lines of the range are locked, and the predicate that ctl.b names whether all are, which a length of 0 makes 1;
the bytes of DEVICE memory stay, the next issue comes no earlier. It is stated for a memory system without cached lines and writes
in flight, in which no fetch waits (R299). ICUL releases the lines of a range, all for a length of 0, and ctl.y holds how many (R80,
R98, R99, R100). -/
def Obligations.BucketsAndLocks : Prop :=
  (∀ (s : State) (m : Mv), Calm s → Fires s m →
     let v := moved s m
     let at' : Nat → Nat → Nat := fun o n => readLe s.task.lmem (v.toNat + o) n
     let b := at' 0 1
     let k := at' 1 1
     let size : Nat → Nat := fun i => at' (16 + 16 * i) 4
     let target : Nat → Word := fun i => s.task.sq.pc + (BitVec.ofNat 32 (at' (20 + 16 * i) 4)).signExtend 64
     let n := (s.port 64).toNat
     localFault s.task v (16 + 16 * b) 16 = none → 1 ≤ b → b ≤ 16 → k < 8 → at' 2 14 = 0 →
     (∀ i < b, at' (24 + 16 * i) 8 = 0) → (∀ i j, i < j → j < b → size i < size j) → n < 2 ^ 32 →
     ((∀ i < b, size i < n) → exec (.buck m) s = .next (issued s 82 m fun t => t.putPort 67 0)) ∧
     ∀ i < b, (∀ j < i, size j < n) → n ≤ size i →
       (s.isStart (target i) = false → FaultsAt s (.buck m) .illegal 0 0) ∧
       (s.isStart (target i) = true → ∃ mask : BitVec 128,
         exec (.buck m) s = .next (issuedTo s (target i) fun t =>
           ((if k = 0 then t else t.setMask k (BitVec.allOnes 128) mask).putPort 67 (BitVec.ofNat 64 ((size i - n) * 2 ^ 32 + size i))).leave (target i)) ∧
         ∀ j < 128, mask.getLsbD j = (decide (n % 128 = 0) || decide (j < n % 128)))) ∧
  (∀ (s : State) (m : Mv), Calm s → Fires s m →
     let ad := (s.port 64).toNat
     let n := (moved s m).toNat
     let p := ((s.port 65).extractLsb' 0 4).toNat
     let own := s.task.sq.ilocks
     let count := if n = 0 then 0 else (ad + n - 1) / 128 - ad / 128 + 1
     let line : Nat → Word := fun k => BitVec.ofNat 64 ((ad / 128 + k) * 128)
     let fresh : Nat → List Word := fun k => ((List.range k).map line).filter fun w => !own.contains w
     let lockable : Nat → Prop := fun k => (ad / 128 + k) * 128 < 2 ^ 64 ∧
       (line k ∈ own ∨ own.length + (fresh k).length < 512 ∧ ∃ d, coreAccess (comeUp s) (line k) 1 .fetch = .ok d)
     let inside : Word → Bool := fun w => 0 < n ∧ ad / 128 ≤ w.toNat / 128 ∧ w.toNat / 128 ≤ (ad + n - 1) / 128
     (own.length ≤ 512 → s.mem.l2 = [] → s.mem.writes = [] → ∀ r ≤ count, (∀ k < r, lockable k) → (r < count → ¬ lockable r) →
       let ls := own ++ fresh r
       let e := issued s 83 m fun t =>
         let t1 := { t with sq := { t.sq with ilocks := ls } }.putPort 67 (BitVec.ofNat 64 (ls.filter inside).length)
         if p = 0 then t1 else t1.setPred p (decide ((ls.filter inside).length = count))
       ∃ t, exec (.iclk m) s = .next t ∧ t = { e with mem := t.mem, cur := { e.cur with nextG := t.cur.nextG } } ∧
         e.cur.nextG ≤ t.cur.nextG ∧ (fresh r = [] → t = e) ∧ ∀ die y, sget (t.mem.view die) y = sget (s.mem.view die) y) ∧
     ∃ keep : List Word, keep = (if n = 0 then [] else own.filter fun w => !inside w) ∧
       exec (.icul m) s = .next (issued s 84 m fun t =>
         { t with sq := { t.sq with ilocks := keep } }.putPort 67 (BitVec.ofNat 64 (t.sq.ilocks.length - keep.length))))

/-- LDG of both layers to an aligned address that passes the checks: the access becomes outstanding with its hint and the writes in
flight that its address was read from (which registers and ports those are kept for is the model's choice, log 7), its destination
is pending, and the LIW or bundle goes on (R221, R222, R229). Natively the register is the one that mem.b names; a value above 31
there makes the trigger a refused one, which sets NV (R375). STG of both layers to an aligned address that passes the checks: one
write of the eight bytes enters the memory system, after what its address and data were read from (log 7) and everything that the
unit's fences order before it; nothing else changes (R223, R229). ATOM of each kind in both layers: the access becomes outstanding
with its operands and what they were read from (log 7); at its home die it reads the location and stores the sum, minimum, maximum,
or, exchange, compared exchange or FP32 sum. Natively its register is the one that mem.b names, where a value above 31 makes the
trigger a refused one, its operand the value moved to it and its comparand mem.c (R220, R225, R375). FENCE of both layers: while an
earlier access of the task is outstanding, or a write of it is not applied throughout the scope, the LIW waits and nothing of it
stands; else it goes on, and what the task has performed or read from precedes its later accesses under the scope (R226, R229). -/
def Obligations.DeviceAccesses : Prop :=
  ((∀ (s : State) (g : Gd) (d b : BitVec 5) (r : BitVec 2) (i : BitVec 9) (dpa : Nat), Calm s → guardOn s g = true →
     let va := s.reg b + i.signExtend 64 * 8
     Passes s va 8 .read dpa → ∃ m, SameBytes s.mem m ∧
       exec (.ldg g d b r i) s = .next (bundled { s with mem := m } fun t =>
         t.outstanding s.mem.nextW d.toNat (ldgReq dpa r.toNat (s.regsFrom [b])))) ∧
   ∀ (s : State) (r : BitVec 2) (m : Mv) (dpa : Nat), Calm s → Fires s m →
     let va := s.port 448 + moved s m
     let d := (s.port 449).toNat
     let dst : BitVec 10 := BitVec.ofNat 10 (452 + r.toNat)
     (2 ^ 5 ≤ d → exec (.ldgNative r m) s = .next (issued s dst m fun t => t.addFlags flagNv)) ∧
     (d < 2 ^ 5 → Passes s va 8 .read dpa → ∃ x, SameBytes s.mem x ∧
       exec (.ldgNative r m) s = .next (issued { s with mem := x } dst m fun t =>
         t.outstanding s.mem.nextW d (ldgReq dpa r.toNat (s.rowFrom 448 dst))))) ∧
  ((∀ (s : State) (g : Gd) (d b : BitVec 5) (i : BitVec 9) (dpa : Nat), Calm s → Alone s → guardOn s g = true →
     let va := s.reg b + i.signExtend 64 * 8
     Passes s va 8 .write dpa → ∃ m, SameBytes s.mem m ∧
       exec (.stg g d b i) s = .next (bundled (s.entering m (newWrite s (s.regsFrom [d, b]) dpa 8 (s.reg d))) id)) ∧
   ∀ (s : State) (m : Mv) (dpa : Nat), Calm s → Alone s → Fires s m →
     let va := s.port 448 + moved s m
     Passes s va 8 .write dpa → ∃ x, SameBytes s.mem x ∧
       exec (.stgNative m) s = .next (issued (s.entering x (newWrite s (s.rowFrom 448 456) dpa 8 (s.port 449))) 456 m id)) ∧
  ((∀ (s : State) (g : Gd) (d a b : BitVec 5) (dpa : Nat), Calm s → guardOn s g = true →
     let wait : Instr → AtomOp → Nat → Prop := fun i op n => Passes s (s.reg a) n .atomic dpa → ∃ m, SameBytes s.mem m ∧
       exec i s = .next (bundled { s with mem := m } fun t => t.outstanding s.mem.nextW d.toNat
         { ldgReq dpa 1 (s.regsFrom [d, a, b]) with size := n, atom := some op, b := s.reg b, cmp := s.reg d })
     wait (.atomAdd g d a b) .add 8 ∧ wait (.atomMin g d a b) .min 8 ∧ wait (.atomMax g d a b) .max 8 ∧
     wait (.atomOr g d a b) .or 8 ∧ wait (.atomExch g d a b) .exch 8 ∧ wait (.atomCas g d a b) .cas 8 ∧
     wait (.atomFadd g d a b) .fadd 4) ∧
   (∀ (s : State) (m : Mv) (dpa : Nat), Calm s → Fires s m → ∀ x ∈ ([(461, .add, 8), (462, .min, 8), (463, .max, 8), (464, .or, 8),
       (465, .exch, 8), (466, .cas, 8), (467, .fadd, 4)] : List (BitVec 10 × AtomOp × Nat)),
     let d := (s.port 449).toNat
     (2 ^ 5 ≤ d → exec (.liwIssue (liwOfMove x.1 m)) s = .next (issued s x.1 m fun t => t.addFlags flagNv)) ∧
     (d < 2 ^ 5 → Passes s (s.port 448) x.2.2 .atomic dpa → ∃ y, SameBytes s.mem y ∧
       exec (.liwIssue (liwOfMove x.1 m)) s = .next (issued { s with mem := y } x.1 m fun t => t.outstanding s.mem.nextW d
         { ldgReq dpa 1 (s.rowFrom 448 x.1) with size := x.2.2, atom := some x.2.1, b := moved s m, cmp := s.port 450 }))) ∧
   ∀ old b cmp : Word,
     (atomResult .add old b cmp).1 = some (old + b) ∧
     (∃ x, (atomResult .min old b cmp).1 = some x ∧ (x = old ∨ x = b) ∧ x.toInt ≤ old.toInt ∧ x.toInt ≤ b.toInt) ∧
     (∃ x, (atomResult .max old b cmp).1 = some x ∧ (x = old ∨ x = b) ∧ old.toInt ≤ x.toInt ∧ b.toInt ≤ x.toInt) ∧
     (atomResult .or old b cmp).1 = some (old ||| b) ∧ (atomResult .exch old b cmp).1 = some b ∧
     (old = cmp → (atomResult .cas old b cmp).1 = some b) ∧ (old ≠ cmp → (atomResult .cas old b cmp).1 = none) ∧
     (atomResult .fadd old b cmp).1 = some ((fpAdd .rne (old.setWidth 32) (b.setWidth 32)).1.setWidth 64)) ∧
  ((∀ (s : State) (g : Gd) (sc : BitVec 2), Calm s → guardOn s g = true →
     if writesApplied s.mem s.cur (scopeOf sc.toNat) then
       exec (.fence g sc) s = .next (bundled { s with cur := noteFence s.cur (scopeOf sc.toNat) } id)
     else exec (.fence g sc) s = .next (held (comeUp s) (.fence (scopeOf sc.toNat)))) ∧
   (∀ (s : State) (sc : BitVec 2) (m : Mv), Calm s → Fires s m →
     if writesApplied s.mem s.cur (scopeOf sc.toNat) then
       exec (.fenceNative sc m) s = .next (issued { s with cur := noteFence s.cur (scopeOf sc.toNat) }
         (BitVec.ofNat 10 (468 + sc.toNat)) m id)
     else exec (.fenceNative sc m) s = .next (held (comeUp s) (.fence (scopeOf sc.toNat)))) ∧
   (∀ (s : State) (g : Gd) (sc : BitVec 2) (m : Mv), s.on = true → (s.cur.kind = .user ∨ s.cur.kind = .handler) → s.task.cmds = [] →
     s.task.fmtPend = [] → endsAt s.task s.task.sq.pc = false → s.task.loads ≠ [] →
     (guardOn s g = true → exec (.fence g sc) s = .next (held (comeUp s) (.fence (scopeOf sc.toNat)))) ∧
     (Fires s m → (∀ r ∈ moveTouches s.task 0 { dst := BitVec.ofNat 10 (468 + sc.toNat), mv := m }, s.task.pending r = false) →
       exec (.fenceNative sc m) s = .next (held (comeUp s) (.fence (scopeOf sc.toNat))))) ∧
   ∀ (m : Memory) (u : QUnit), (writesApplied m u .pkg = true ↔ ∀ w ∈ m.writes, w.uid = some u.uid → w.homed.isSome = true ∧
     ∀ d < 4, d ∈ w.dies) ∧ (writesApplied m u .sys = writesApplied m u .pkg) ∧ (writesApplied m u .core = writesApplied m u .die) ∧
     (writesApplied m u .die = true ↔ ∀ w ∈ m.writes, w.uid = some u.uid → w.homed.isSome = true ∧ coreDie u.core ∈ w.dies))

/-- An access that fails a check raises its fault, with the address as TVAL, and changes nothing; an address that is not a multiple
of the access's size raises ALIGN_LOCAL, before its walk is made; an aligned access whose walk meets a line that no access can use
waits (R212, R222, R223, R225, R299). A PREF never faults, and changes no byte but those that its own die fetches with a line it
does not hold (R224, R230). -/
def Obligations.DeviceChecks : Prop :=
  (∀ (s : State) (g : Gd) (d b : BitVec 5) (r : BitVec 2) (i : BitVec 9) (f : FaultCode), Calm s → guardOn s g = true →
    let va := s.reg b + i.signExtend 64 * 8
    let x := s.mem
    (va.toNat % 8 ≠ 0 → FaultsAt s (.ldg g d b r i) .alignLocal va 1 ∧ FaultsAt s (.stg g d b i) .alignLocal va 1) ∧
    (∀ p, walkBlocked s va = some p → exec (.pref g b r i) s = .next (held (comeUp s) (.memory p)) ∧
      (va.toNat % 8 = 0 → ∀ op ∈ ([.ldg g d b r i, .stg g d b i] : List Instr), exec op s = .next (held (comeUp s) (.memory p)))) ∧
    (walkBlocked s va = none →
      (coreAccess s va 8 .read = .error f → FaultsAt s (.ldg g d b r i) f va 1) ∧
      (coreAccess s va 8 .write = .error f → FaultsAt s (.stg g d b i) f va 1) ∧
      (coreAccess s va 1 .read = .error f → exec (.pref g b r i) s = .next (bundled s id)) ∧
      ∃ m, exec (.pref g b r i) s = .next (bundled { s with mem := m } id) ∧ (∀ e < 4, e ≠ coreDie s.cur.core → m.view e = x.view e) ∧
        (∀ e, m.ws e = x.ws e) ∧ m.residue = x.residue ∧ m.nextW = x.nextW ∧ m.nextHome = x.nextHome ∧
        (x.writes = [] → SameBytes x m))) ∧
  (∀ (s : State) (g : Gd) (d a b : BitVec 5) (f : FaultCode), Calm s → guardOn s g = true → walkBlocked s (s.reg a) = none →
    (coreAccess s (s.reg a) 8 .atomic = .error f → ∀ x ∈ [Instr.atomAdd g d a b, .atomMin g d a b, .atomMax g d a b,
      .atomOr g d a b, .atomExch g d a b, .atomCas g d a b], FaultsAt s x f (s.reg a) 1) ∧
    (coreAccess s (s.reg a) 4 .atomic = .error f → FaultsAt s (.atomFadd g d a b) f (s.reg a) 1)) ∧
  (∀ (s : State) (g : Gd) (d a b : BitVec 5) (p : Nat), Calm s → guardOn s g = true → walkBlocked s (s.reg a) = some p →
    (s.reg a).toNat % 8 = 0 → ∀ x ∈ [Instr.atomAdd g d a b, .atomMin g d a b, .atomMax g d a b, .atomOr g d a b, .atomExch g d a b,
      .atomCas g d a b, .atomFadd g d a b], exec x s = .next (held (comeUp s) (.memory p))) ∧
  ∀ (s : State) (va : Word) (n : Nat) (k : Access), (va.toNat % n ≠ 0 → coreAccess s va n k = .error .alignLocal) ∧
    (va.toNat % n = 0 → 2 ^ 56 ≤ va.toNat → coreAccess s va n k = .error .xlate)

/-- The data of an outstanding load of the unit in focus arrives: its register holds what the unit sees of the location once its die
has the line, its own writes in flight and those it has read from before over what its die has applied, and is no longer pending; a
line that has an error as it comes in is met instead. The value that an atomic took at home arrives the same way. Until then, and
while an earlier access to its location is outstanding or what precedes it has not reached the die, nothing happens (R221, R228 to
R230, R300). LOAD_ARRIVAL completes so wherever the conditions of its clause hold. An atomic that is performed reads its location at
the home die, and the home die's view holds the stored value afterwards, or is unchanged where a compared exchange stores nothing;
the value read waits to arrive; an error that its line has is met instead (R225, R228, R300). ATOM_PERFORM completes so wherever the
conditions of its clause hold. A write in flight takes the next place in home order at its home die, whose view then holds its
bytes, once all that precedes it is applied there and no earlier access of its task to the location is outstanding; it is applied at
another die only after all that precedes it there, and is no longer in flight once applied at all four (R228 to R230).
WRITE_APPLY_HOME and WRITE_APPLY_REMOTE complete so wherever the conditions of its clause hold. -/
def Obligations.MemorySystem : Prop :=
  (∀ (s : State) (r : LoadReq), s.on = true → Alone s → r ∈ s.task.loads → (s.task.loads.map fun x => x.id).Nodup →
     let die := coreDie s.cur.core
     let m := s.fetched [(r.dpa, r.size)]
     (loadReady s s.cur r = false → exec (.loadArrival r.id) s = .next s) ∧
     (loadReady s s.cur r = true →
       (r.atom = none → lineHurt m die r.dpa = true → exec (.loadArrival r.id) s = .next { s with mem := m }) ∧
       (r.atom = none → r.old = none → lineHurt m die r.dpa = false → ∃ t, exec (.loadArrival r.id) s = .next t ∧
         (∀ d < 4, d ≠ die → t.mem.view d = s.mem.view d) ∧ (s.mem.writes = [] → t.mem.view die = s.mem.view die) ∧
         t.parked = s.parked ∧ t.ctxs = s.ctxs ∧ t.gcyc = s.gcyc ∧
         t.task.loads = s.task.loads.filter (fun x => x.id ≠ r.id) ∧ t.task.sq = s.task.sq ∧ t.task.lmem = s.task.lmem ∧
         ∀ x : SReg, t.task.fr.get x =
           if r.dest = some x ∧ x ≠ .fixed 0 then BitVec.ofNat 64 (readLe (unitView t.mem s.cur r.mark) r.dpa r.size)
           else s.task.fr.get x) ∧
       (∀ op old, r.atom = some op → r.old = some old → ∃ t, exec (.loadArrival r.id) s = .next t ∧ t.mem = s.mem ∧
         t.task.loads = s.task.loads.filter (fun x => x.id ≠ r.id) ∧
         (∀ d, r.dest = some d → d ≠ .fixed 0 → t.task.fr.get d = old) ∧
         t.task.fmt.flags = s.task.fmt.flags.or (atomResult op old r.b r.cmp).2)) ∧
     ∀ (x : Memory) (u : QUnit) (k : Nat), x.writes = [] → unitView x u k = x.view (coreDie u.core)) ∧
  (∀ (s : State) (r : LoadReq) (op : AtomOp), s.on = true → Alone s → r ∈ s.task.loads →
     (s.task.loads.map fun x => x.id).Nodup → r.atom = some op → r.old = none →
     let die := dpaDie r.dpa
     let m := l2Touch s.health s.mem die r.dpa none s.cur.ctx false
     (atomReady s s.cur r = false → exec (.atomPerform r.id) s = .next s) ∧
     (atomReady s s.cur r = true → lineHurt m die r.dpa = true → exec (.atomPerform r.id) s = .next { s with mem := m }) ∧
     (atomReady s s.cur r = true → lineHurt m die r.dpa = false → 0 < r.size → (∀ w ∈ s.mem.writes, w.id < s.mem.nextW) →
       let old := BitVec.ofNat 64 (homeLe s.mem r.dpa r.size)
       ∃ t, exec (.atomPerform r.id) s = .next t ∧
         (∃ x ∈ t.task.loads, x = { r with old := some old, deps := readIds s.mem s.cur die r.mark r.dpa r.size }) ∧
         t.task.sq = s.task.sq ∧ t.task.fr = s.task.fr ∧ t.task.lmem = s.task.lmem ∧ t.ctxs = s.ctxs ∧
         (∀ d < 4, d ≠ die → t.mem.view d = s.mem.view d) ∧
         match (atomResult op old r.b r.cmp).1 with
         | none => t.mem.view die = s.mem.view die
         | some v => t.mem.view die = ssetMany (s.mem.view die) (atAddr r.dpa (natLe r.size v.toNat)))) ∧
  (∀ (s : State) (w : DevWrite), w ∈ s.mem.writes → (s.mem.writes.map fun x => x.id).Nodup →
     (s.homeReady w = false → exec (.writeApplyHome w.id) s = .next s) ∧
     (s.homeReady w = true → w.dies.length < 3 → ∃ t, exec (.writeApplyHome w.id) s = .next t ∧
       t.mem.view w.home = ssetMany (s.mem.view w.home) w.bytes ∧ (∀ d < 4, d ≠ w.home → t.mem.view d = s.mem.view d) ∧
       t.mem.nextHome = s.mem.nextHome + 1 ∧
       { w with homed := some s.mem.nextHome, dies := w.home :: w.dies } ∈ t.mem.writes) ∧
     (s.homeReady w = true → w.homed = none ∧ (∀ d ∈ w.deps, scopeCovers d.2 w.die w.home = true → appliedAt s.mem d.1 w.home = true) ∧
       ∀ x ∈ s.mem.writes, x.uid = w.uid → x.loc = w.loc → x.id < w.id → x.homed.isSome = true) ∧
     ∀ d < 4, (remoteReady s.mem w d = false → exec (.writeApplyRemote w.id d) s = .next s) ∧
       (remoteReady s.mem w d = true → ∃ t, exec (.writeApplyRemote w.id d) s = .next t ∧
         t.mem.view d = ssetMany (s.mem.view d) w.bytes ∧ (∀ e < 4, e ≠ d → t.mem.view e = s.mem.view e) ∧
         (w.dies.length = 3 → ∀ x ∈ t.mem.writes, x.id ≠ w.id) ∧
         (w.dies.length < 3 → { w with dies := d :: w.dies } ∈ t.mem.writes)))

/-- TRAP of both layers in a task: its LIW or bundle issues, and the handler is entered with cause 0x30, the code as TVAL and 0xFF
as the bus; a code above 16 bits raises ILLEGAL (R291). In a handler it is a fault of the handler (R289, R290). SYSCALL: its LIW
issues and the core waits for SYSTEM; the answer writes ctl.y and the core resumes issue: 0 to service 0, DEV_HEALTH at DL0 to
service 1, 0 with TAINT at DL1 and DL2, all ones to any other. A service above 16 bits raises ILLEGAL (R293). SYSCALL and
SYSCALL_ANSWER complete so wherever the conditions of its clause hold. YIELD: the following LIW is its transfer's target; the unit
goes on where no unit of its core could take its place or the first-ranked one is ranked below it, else that unit takes the core
(R274). -/
def Obligations.SystemTransfers : Prop :=
  ((∀ (s : State) (g : Gd) (c : BitVec 16), Calm s → guardOn s g = true →
     let f : FaultInfo := { code := .trap, tval := c.setWidth 64, bus := 0xFF }
     (s.cur.kind = .user → exec (.trap g c) s = .next (enterHandler (bundled s id) f s.task.sq.pc)) ∧
     (s.cur.kind = .handler → exec (.trap g c) s =
       .next (takeFault ((bundled s id).mapTask fun t => t.goTo s.task.sq.pc) f))) ∧
   ∀ (s : State) (m : Mv), Calm s → Fires s m →
     let f : FaultInfo := { code := .trap, tval := moved s m, bus := 0xFF }
     (2 ^ 16 ≤ (moved s m).toNat → FaultsAt s (.trapNative m) .illegal 0 0) ∧
     ((moved s m).toNat < 2 ^ 16 → s.cur.kind = .user →
       exec (.trapNative m) s = .next (enterHandler (issued s 76 m id) f s.task.sq.pc)) ∧
     ((moved s m).toNat < 2 ^ 16 → s.cur.kind = .handler →
       exec (.trapNative m) s = .next (takeFault ((issued s 76 m id).mapTask fun t => t.goTo s.task.sq.pc) f))) ∧
  ((∀ (s : State) (m : Mv), Calm s → Fires s m → let v := moved s m
     (2 ^ 16 ≤ v.toNat → FaultsAt s (.syscall m) .illegal 0 0) ∧
     (v.toNat < 2 ^ 16 → let t := issued s 93 m id
       exec (.syscall m) s = .next { t with cur := { t.cur with status := .waiting (.syscall v.toNat) } })) ∧
   ∀ (s : State) (n : Nat), s.on = true → s.cur.status = .waiting (.syscall n) →
     ∃ t, exec .syscallAnswer s = .next t ∧ t.cur.status = .ready ∧ t.parked = s.parked ∧ t.mem = s.mem ∧ t.ctxs = s.ctxs ∧
       t.gcyc = s.gcyc ∧ t.task.sq = s.task.sq ∧ t.task.fr = s.task.fr ∧
       (n = 0 → t.task = s.task.putPort 67 0) ∧ (2 ≤ n → t.task = s.task.putPort 67 (BitVec.allOnes 64)) ∧
       (n = 1 → t.task = if s.task.tstat.dl = .dl0 then s.task.putPort 67 (healthWord s.health)
         else (s.task.putPort 67 0).setTaint)) ∧
  (∀ (s : State) (m : Mv), Calm s → Fires s m →
     let t := issuedTo s (afterRow s 92 m) fun u => u.leave (afterRow s 92 m)
     let r := bestRival (rivals t (couldIssue (comeUp s)))
     (r = none ∨ unitKey t t.cur = none → exec (.yield m) s = .next t) ∧
     ∀ k x, unitKey t t.cur = some k → r = some x →
       exec (.yield m) s = .next (if x.key.le k then switchTo t x else t))

/-- Entering the handler: the task is switched out in trap with the fault and its PC; where TVEC names a descriptor, a handler unit
of its context starts on its core at SUPERVISOR at the descriptor's entry, with the launch's record in s1, the task's s2 as its own
and as BSBASE, F as BSLIM, the cause, the PC, TVAL, T, the launch handle and the index in s8 to s13, ARG6 and ARG7 of the launch in
s14 and s15 (R258), and the task's scratchpad; else the task is terminated (R258, R281, R288, R289). RFT in a handler: RESUME and
TERMINATE return to the task or terminate it, once the handler's writes are applied at SYS scope; other values raise ILLEGAL;
outside a handler it raises PRIV. A return by RESUME brings the task back into focus, ready, with every part of its state as it was
but the scratchpad, which is as the handler left it, the queues bound to it again, and a request to yield the core that came
meanwhile; after TERMINATE neither is left (R285, R292, R302). -/
def Obligations.Handlers : Prop :=
  (∀ (s : State) (f : FaultInfo) (pc : Word), s.on = true → Alone s → s.task.loads = [] →
     (∀ entry, trapVector s s.cur.ctx = some entry →
       let t := enterHandler s f pc
       t.on = true ∧ t.cur.kind = .handler ∧ t.cur.priv = .supervisor ∧ t.cur.serves = some s.cur.uid ∧
       t.cur.uid = s.nextUid ∧ t.cur.ctx = s.cur.ctx ∧ t.cur.core = s.cur.core ∧ t.task.sq.pc = entry ∧ t.task.sq.tau = 0 ∧
       (∀ l, s.launchOf s.cur = some l → t.reg 1 = l.record) ∧ t.reg 2 = s.task.s2 ∧
       t.reg 8 = BitVec.ofNat 64 (f.code.num + 256 * f.bus.toNat) ∧ t.reg 9 = pc ∧ t.reg 10 = f.tval ∧
       t.reg 11 = BitVec.ofNat 64 s.task.sq.tau ∧ t.reg 12 = BitVec.ofNat 64 s.cur.launch ∧
       t.reg 13 = BitVec.ofNat 64 s.cur.index ∧
       (∀ l, s.launchOf s.cur = some l → l.args.length ≤ 8 → t.reg 14 = l.args.getD 6 0 ∧ t.reg 15 = l.args.getD 7 0) ∧ t.task.fr.bsbase = s.task.s2.toNat ∧ t.task.fr.bslim = s.task.f ∧
       t.task.foot = s.task.foot ∧ t.task.lmem = (writeBackAll s.task).lmem ∧ t.task.fmt = Task.reset.fmt ∧
       t.mem = s.mem ∧ t.ctxs = s.ctxs ∧
       ∃ u ∈ t.parked, u.uid = s.cur.uid ∧ u.status = .trapped ∧ u.trap = some (f, pc) ∧ u.task.fr = s.task.fr ∧
         u.task.sq = s.task.sq ∧ u.task.preds = s.task.preds ∧ u.task.vregs = s.task.vregs ∧ u.task.ports = s.task.ports) ∧
     (trapVector s s.cur.ctx = none → (enterHandler s f pc).unit? s.cur.uid = none)) ∧
  ((∀ (s : State) (m : Mv), Calm s → Fires s m →
     (s.cur.kind = .user → FaultsAt s (.rft m) .priv 0 0) ∧
     (s.cur.kind = .handler → (2 ≤ (moved s m).toNat → FaultsAt s (.rft m) .illegal 0 0) ∧
       ((moved s m).toNat < 2 → exec (.rft m) s = .next (leftAs (issued s 94 m id) (.rft (decide (moved s m = 0)))
         (handlerReturn (issued s 94 m id) (decide (moved s m = 0))))))) ∧
   ∀ (s : State) (u : QUnit), s.on = true → s.cur.kind = .handler → s.cur.serves = some u.uid → u ∈ s.parked →
     (s.units.map fun x => x.uid).Nodup →
     let t := handlerReturn s true
     t.on = true ∧ t.cur = { u with status := .ready, trap := none, preempt := u.preempt || s.cur.preempt,
                                    task := rebindAll { u.task with lmem := (writeBackAll s.task).lmem } } ∧
     (∀ x ∈ t.parked, x.uid ≠ s.cur.uid ∧ x ∈ s.parked) ∧ t.ctxs = s.ctxs ∧ t.gcyc = s.gcyc ∧ t.mem = s.mem ∧
     (handlerReturn s false).unit? u.uid = none ∧ (handlerReturn s false).unit? s.cur.uid = none)

/-- ENDT of both layers in a task: its LIW or bundle issues, and the unit ends once its writes are applied at SYS scope; in a
handler it raises ILLEGAL. A unit that ends leaves the machine, its bytes below F stay behind in its place of its core for its
context, and its launch counts it completed, with its TAINT (R163, R254, R258, R273, R292). -/
def Obligations.UnitEnds : Prop :=
  (∀ (s : State) (g : Gd), Calm s → guardOn s g = true →
    (s.cur.kind = .user → exec (.endt g) s = .next (leftAs (bundled s id) .ended (endUnit (bundled s id)))) ∧
    (s.cur.kind = .handler → FaultsAt s (.endt g) .illegal 0 0)) ∧
  (∀ (s : State) (m : Mv), Calm s → Fires s m →
    (s.cur.kind = .user → exec (.endtNative m) s = .next (leftAs (issued s 77 m id) .ended (endUnit (issued s 77 m id)))) ∧
    (s.cur.kind = .handler → FaultsAt s (.endtNative m) .illegal 0 0)) ∧
  ∀ s : State, s.on = true → Alone s → s.cur.kind = .user →
    let t := endUnit s
    t.unit? s.cur.uid = none ∧ t.parked = s.parked ∧ t.gcyc = s.gcyc ∧ t.mem.writes = s.mem.writes ∧
    (s.Canonical → ∃ r, (s.cur.core, s.cur.ctx, r) ∈ t.mem.residue ∧
      ∀ a < s.task.f, sget r (placeOf s.cur.pages a) = sget (writeBackAll s.task).lmem a) ∧
    ∀ c l, s.ctx? s.cur.ctx = some c → c.launch? s.cur.launch = some l → s.cur.index ∉ l.counted →
      ∃ c' l', t.ctx? s.cur.ctx = some c' ∧ c'.launch? s.cur.launch = some l' ∧ l'.completed = l.completed + 1 ∧
        l'.cancelled = l.cancelled ∧ s.cur.index ∈ l'.counted ∧ l'.taint = (l.taint || s.task.tstat.taint)

/-- CSRR reads FMT and TSTAT at every level, PTROOT, TVEC and DEV_HEALTH from SUPERVISOR up, ERRLOG and EINJ at SYSTEM alone: PRIV
below the level, ILLEGAL where no level reads the register (R294, R295). Stated for tasks, handlers and procedures of system cores,
the error entry among them (R303), on which PTROOT and TVEC read as 0 (the model's choice, log 20). CSRW writes PTROOT and TVEC of
the task's context from SUPERVISOR up, at the end of its LIW, and SYSTEM's registers, DEV_HEALTH, ERRLOG, EINJ, L2QUAR, PRETIRE and
CTXKILL, at SYSTEM alone: PRIV below the level; ILLEGAL for a reserved bit that is not 0 and where no level writes the register
(R294, R295). A 1 written to ERRLOG's V clears its record, and the record behind it becomes valid and starts an error entry; EINJ
without ARM holds what is written; CTXKILL leaves no unit of the context it names (R299, R300, R304). Stated for tasks, handlers and
procedures of system cores; on a system core PTROOT and TVEC change nothing (the model's choice, log 20). -/
def Obligations.ControlRegisters : Prop :=
  (∀ (s : State) (m : Mv), Rest s → Fires s m → SystemSource s m →
     let v := moved s m
     let reads : Word → Word → Prop := fun n w => v = n → exec (.csrr m) s = .next (issued s 95 m fun t => t.putPort 67 w)
     reads 0x000 s.task.fmt.word ∧ reads 0x001 s.task.tstat.word ∧
     (s.cur.priv = .user → (v = 0x011 ∨ v = 0x012 ∨ v = 0x100) → FaultsAt s (.csrr m) .priv 0 0) ∧
     (s.cur.priv ≠ .system → (v = 0x101 ∨ v = 0x102) → FaultsAt s (.csrr m) .priv 0 0) ∧
     (s.cur.priv ≠ .user → reads 0x011 (if s.cur.isFirmware then 0 else s.curCtx.ptroot) ∧
       reads 0x012 (if s.cur.isFirmware then 0 else s.curCtx.tvec) ∧
       (v = 0x100 → exec (.csrr m) s = .next (issued s 95 m fun t =>
         if s.task.tstat.dl = .dl0 then t.putPort 67 (healthWord s.health) else t.setTaint.putPort 67 0))) ∧
     (s.cur.priv = .system → reads 0x101 (errlogWord s.health) ∧ reads 0x102 s.mem.einj) ∧
     (v.toNat < 2 ^ 12 → v.toNat ∉ [0x000, 0x001, 0x011, 0x012, 0x100, 0x101, 0x102] → FaultsAt s (.csrr m) .illegal 0 0) ∧
     (s.cur.priv = .system → 2 ^ 12 ≤ v.toNat → FaultsAt s (.csrr m) .illegal 0 0)) ∧
  ((∀ (s : State) (m : Mv), Rest s → Fires s m → SystemSource s m →
     let v := moved s m
     let w := s.port 64
     let writes : Word → (Word → Bool) → (State → State) → Prop := fun n ok g => v = n →
       if ok w = true then exec (.csrw m) s = .next (issuedBy s 96 m g) else FaultsAt s (.csrw m) .illegal 0 0
     (s.cur.priv = .user → (v = 0x011 ∨ v = 0x012) → FaultsAt s (.csrw m) .priv 0 0) ∧
     (s.cur.priv ≠ .system → v.toNat ∈ [0x100, 0x101, 0x102, 0x103, 0x104, 0x105] → FaultsAt s (.csrw m) .priv 0 0) ∧
     (s.cur.priv ≠ .user →
       writes 0x012 (fun _ => true) (fun x => if x.cur.isFirmware then x else x.mapCtx x.cur.ctx fun c => { c with tvec := w }) ∧
       writes 0x011 (fun w => decide (w.toNat < 2 ^ 40 ∧ w.toNat % 2 ^ 21 = 0))
         (fun x => if x.cur.isFirmware then x else x.mapCtx x.cur.ctx fun c => { c with ptroot := w })) ∧
     (s.cur.priv = .system →
       writes 0x100 (fun w => decide (w.toNat < 2 ^ 40)) (fun x => writeDevHealth x w) ∧
       writes 0x101 (fun w => decide (w.toNat % 2 ^ 7 = 0 ∧ w.toNat / 2 ^ 40 % 2 ^ 3 = 0)) (fun x => writeErrlog x w) ∧
       writes 0x102 (fun w => decide (w.toNat < 2 ^ 42 ∧ w.toNat % 2 ^ 7 = 0)) (fun x => writeEinj x w) ∧
       writes 0x103 (fun w => decide (w.toNat < 2 ^ 16 ∧ w.toNat / 2 ^ 13 % 2 = 0 ∧ w.toNat / 2 ^ 6 % 4 = 0 ∧ w.toNat / 2 ^ 8 % 32 < 24))
         (fun x => doL2quar x w) ∧
       writes 0x104 (fun w => decide (w.toNat < 2 ^ 40 ∧ w.toNat % 2 ^ 16 = 0)) (fun x => doPretire x w) ∧
       writes 0x105 (fun w => decide (w.toNat < 2 ^ 8)) (fun x => doCtxkill x w)) ∧
     (v.toNat < 2 ^ 12 → v.toNat ∉ [0x011, 0x012, 0x100, 0x101, 0x102, 0x103, 0x104, 0x105] →
       FaultsAt s (.csrw m) .illegal 0 0)) ∧
   ∀ (s : State) (w : Word),
     (w.getLsbD 63 = false → writeErrlog s w = s) ∧
     (∀ a r, w.getLsbD 63 = true → s.health.errlog = a :: r → s.health.waiting = [] → (writeErrlog s w).health.errlog = r) ∧
     (∀ a r b q, w.getLsbD 63 = true → s.health.errlog = a :: r → s.health.waiting = b :: q →
       (writeErrlog s w).health.errlog = r ++ [b] ∧ (writeErrlog s w).health.waiting = q) ∧
     (w.getLsbD 41 = false → (writeEinj s w).mem = { s.mem with einj := w }) ∧
     ((s.ctx? w.toNat).isSome = true → ∀ u ∈ (doCtxkill s w).units, u.ctx = w.toNat → u.isFirmware = true))

/-- TLBI from SUPERVISOR up: its LIW waits while a write of the task is not applied throughout the package, an access of the
context, the read of a command among them, is outstanding, or a write of it has no place in home order; then it drops the context's
cached translations of the page of ctl.a's address, of either size, or all of them, and what the context's pending commands have
still to access is translated by the table as it then stands (the model's choice, log 24): no unit's task but those commands'
addresses changes. PRIV at USER, ILLEGAL for another scope (R296). A waiting LIW comes up for issue again, and issues, once nothing
holds it: FENCE, TLBI, QWAIT, JOIN, a barrier, ENDT, RFT and BWAIT; until then, and while the unit does not wait so, its release
changes nothing (R79, R160, R226, R271, R273, R292, R296, R337). FENCE_RELEASE, TLBI_RELEASE, QWAIT_RELEASE, JOIN_RELEASE,
BARRIER_RELEASE, BWAIT_RELEASE, BWAIT_DEADLINE, ENDT_RELEASE and RFT_RELEASE complete so wherever the conditions of its clause hold.
-/
def Obligations.WaitsAndReleases : Prop :=
  ((∀ (s : State) (m : Mv), Calm s → Fires s m →
     let v := moved s m
     let va := (s.port 64).toNat
     (s.cur.priv = .user → FaultsAt s (.tlbi m) .priv 0 0) ∧
     (s.cur.priv ≠ .user → 2 ≤ v.toNat → FaultsAt s (.tlbi m) .illegal 0 0) ∧
     (s.cur.priv ≠ .user → v.toNat < 2 →
       let quiet := writesApplied s.mem s.cur .pkg = true ∧ ctxQuiet s s.cur.ctx = true
       (¬ quiet → exec (.tlbi m) s = .next (held (comeUp s) .tlbi)) ∧
       (quiet → ∃ (l : List TlbEntry) (ps : List QUnit),
         exec (.tlbi m) s = .next (issued { s with mem := { s.mem with tlb := l }, parked := ps } 97 m id) ∧
         (∀ e, e ∈ l ↔ e ∈ s.mem.tlb ∧ ¬ (e.ctx = s.cur.ctx ∧
           (v = 1 ∨ (e.big = true ∧ e.page = va / 2 ^ 25) ∨ (e.big = false ∧ e.page = va / 2 ^ 16)))) ∧
         ps.length = s.parked.length ∧ ∀ (k : Nat) (x y : QUnit), s.parked[k]? = some x → ps[k]? = some y →
           (x.ctx ≠ s.cur.ctx → y = x) ∧ y = { x with task := { x.task with cmds := y.task.cmds } } ∧
           y.task.cmds.length = x.task.cmds.length ∧ ∀ (j : Nat) (c d : Cmd), x.task.cmds[j]? = some c → y.task.cmds[j]? = some d →
             d = { c with src := d.src, dst := d.dst } ∧ (c.up = true → c.late = false → d.src = c.src)))) ∧
   ∀ (s : State) (c : Nat), ctxQuiet s c = true → (∀ u ∈ s.units, u.ctx = c → u.task.loads = [] ∧
       (u.status = .ready → ∀ k ∈ u.task.cmds, k.up = true → k.late = true → k.fetched = true → k.src = [])) ∧
     ∀ w ∈ s.mem.writes, w.ctx = c → w.homed.isSome = true) ∧
  (∀ (s : State) (w : Wait), s.on = true → s.cur.status = .waiting w →
     let frees : Instr → Prop := fun i => (wouldWait s = true → exec i s = .next s) ∧
       (wouldWait s = false → exec i s = .next (issueHere s))
     (∀ sc, w = .fence sc → frees .fenceRelease) ∧ (w = .tlbi → frees .tlbiRelease) ∧ (w = .qwait → frees .qwaitRelease) ∧
     (w = .join → frees .joinRelease) ∧ (w = .barrier → frees .barrierRelease) ∧ (w = .endt → frees .endtRelease) ∧
     (w = .rft → frees .rftRelease) ∧
     (w = .bwait → (arrivalsShort s = false → frees .bwaitRelease ∧ exec .bwaitDeadline s = .next s) ∧
       (arrivalsShort s = true → frees .bwaitDeadline ∧ exec .bwaitRelease s = .next s)) ∧
     (w ≠ .tlbi → exec .tlbiRelease s = .next s) ∧ (w ≠ .qwait → exec .qwaitRelease s = .next s) ∧
     (w ≠ .join → exec .joinRelease s = .next s) ∧ (w ≠ .barrier → exec .barrierRelease s = .next s) ∧
     (w ≠ .endt → exec .endtRelease s = .next s) ∧ (w ≠ .rft → exec .rftRelease s = .next s))

/-- QCFG binds a latch to a control word, fresh from its geometry operand or as the control word stands, or writes a bound latch
back and unbinds it; QPUSH stores an element at the tail and advances it; QADV advances a head or a tail; QWAIT waits until enough
slots are filled, or free; QSTAT reads FILL, HEAD and TAIL. A refused operand, an unbound latch, or an advance past what is filled
or free raises QUEUE (R157, R160, R161), which a push to a full queue and an advance past what is there deliver with bus 0xFF (the
model's reading, log 48). The accounting of an advance: HEAD and TAIL move modulo the depth, FILL falls by the head advance and
rises by the tail advance, every other latch stays, and only the upper half of the control word changes, whose HEAD, TAIL and FILL
fields are the new ones and whose other bits stay; a slot that a push stores holds the low bytes of its value (R157, R158, R161).
The POP bits of an LIW advance the heads of the latches that they name, by one each; a named latch that is unbound or holds no
element raises QUEUE and the LIW is suppressed. With a QPUSH to the same queue in the LIW both are accounted against the state at
its start: a full queue takes no push and an empty one gives no pop (R37, R157, R161; the bus of the fault is the model's reading,
log 48). -/
def Obligations.ScratchpadQueues : Prop :=
  (∀ (s : State) (m : Mv), Calm s → Fires s m →
     let v := moved s m
     let w := s.port 768
     let j := (w.extractLsb' 0 3).toNat
     let n := v.toNat
     (w.toNat < 2 ^ 4 → s.task.queue? j = none → localFault s.task v 16 16 = none → (∀ b ∈ s.task.queues, b.addr ≠ n) →
       (if w.getLsbD 3 then True else match readControl s.task.lmem j n with
         | none => FaultsAt s (.qcfg m) .queue 0 0
         | some b => if b.consistent s.task.f then exec (.qcfg m) s = .next (issued s 772 m fun t => bindQueue t b [])
           else FaultsAt s (.qcfg m) .queue 0 0)) ∧
     (2 ^ 4 ≤ w.toNat → w.toNat < 2 ^ 4 + 2 ^ 3 → s.task.queue? j = none → localFault s.task v 16 16 = none →
       (∀ b ∈ s.task.queues, b.addr ≠ n) →
       match freshQueue (s.port 769) j n with
       | none => FaultsAt s (.qcfg m) .queue 0 0
       | some b => if b.consistent s.task.f then
           exec (.qcfg m) s = .next (issued s 772 m fun t => bindQueue t b (controlBytes b))
         else FaultsAt s (.qcfg m) .queue 0 0) ∧
     (w.toNat < 2 ^ 4 → w.getLsbD 3 = true → if (s.task.queue? j).isSome then
         exec (.qcfg m) s = .next (issued s 772 m fun t => unbindQueue t j)
       else FaultsAt s (.qcfg m) .queue 0 0) ∧
     (w.toNat < 2 ^ 3 → match s.task.queue? j with
       | none => FaultsAt s (.qpush m) .queue 0 0
       | some b => if b.fill < b.depth then
           exec (.qpush m) s = .next (issued s 773 m fun t => applyAcct
             (if b.esz ≤ 3 then { t with lmem := ssetMany t.lmem (atAddr (b.slot b.tail) (natLe (2 ^ b.esz) n)) } else t) [(j, 0, 1)])
         else FaultsAt s (.qpush m) .queue 0 0xFF) ∧
     (w.toNat < 2 ^ 4 → match s.task.queue? j with
       | none => FaultsAt s (.qadv m) .queue 0 0 ∧ FaultsAt s (.qwait m) .queue 0 0
       | some b =>
         (n < 1 ∨ b.depth < n → FaultsAt s (.qadv m) .queue 0 0 ∧ FaultsAt s (.qwait m) .queue 0 0) ∧
         (1 ≤ n → n ≤ b.depth →
           let there := if w.getLsbD 3 then n ≤ b.depth - b.fill else n ≤ b.fill
           (there → exec (.qadv m) s = .next (issued s 774 m fun t =>
               applyAcct t [if w.getLsbD 3 then (j, 0, n) else (j, n, 0)]) ∧ exec (.qwait m) s = .next (issued s 775 m id)) ∧
           (¬ there → FaultsAt s (.qadv m) .queue 0 0xFF ∧ exec (.qwait m) s = .next (held (comeUp s) .qwait)))) ∧
     (if n < 2 ^ 3 then exec (.qstat m) s = .next (issued s 776 m fun t => t.putPort 771 (match t.queue? n with
         | none => 0
         | some b => BitVec.ofNat 64 (b.fill + b.head * 2 ^ 16 + b.tail * 2 ^ 32)))
       else FaultsAt s (.qstat m) .queue 0 0)) ∧
  (∀ (t : Task) (b : QBind) (h k : Nat), b ∈ t.queues → (t.queues.map fun x => x.j).Nodup →
     (∀ x ∈ t.queues, x.head < x.depth ∧ x.tail < x.depth) → b.depth ≤ 4096 → h ≤ b.fill → k ≤ b.depth - b.fill → b.fill ≤ b.depth →
     let u := applyAcct t [(b.j, h, k)]
     let b' : QBind := { b with head := (b.head + h) % b.depth, tail := (b.tail + k) % b.depth, fill := b.fill - h + k }
     let high : Task → BitVec 64 := fun t => BitVec.ofNat 64 (readLe t.lmem (b.addr + 8) 8)
     u.queue? b.j = some b' ∧ (∀ i, i ≠ b.j → u.queue? i = t.queue? i) ∧
     (∀ a, a < b.addr + 8 ∨ b.addr + 16 ≤ a → sget u.lmem a = sget t.lmem a) ∧
     ((high u).extractLsb' 0 12).toNat = b'.head ∧ ((high u).extractLsb' 16 12).toNat = b'.tail ∧
     ((high u).extractLsb' 32 13).toNat = b'.fill ∧
     high u &&& ~~~ (0x1FFF0FFF0FFF : BitVec 64) = high t &&& ~~~ (0x1FFF0FFF0FFF : BitVec 64) ∧
     u.fr = t.fr ∧ u.sq = t.sq ∧ u.vregs = t.vregs ∧ u.ports = t.ports) ∧
  (∀ (s : State) (p : BitVec 8), Calm s → (s.task.queues.map fun b => b.j).Nodup →
     let there := ∀ j < 8, p.getLsbD j = true → ∃ b, s.task.queue? j = some b ∧ 1 ≤ b.fill
     let pops : Liw := { Liw.empty with pop := p }
     (there → exec (.liwIssue pops) s = .next (reached s false 0 0 false fun t => (applyAcct t (popHeads p)).goTo (t.sq.pc + 8)) ∧
       ∀ j < 8, ∀ b, s.task.queue? j = some b → (applyAcct s.task (popHeads p)).queue? j =
         some (if p.getLsbD j = true then { b with head := (b.head + 1) % b.depth, fill := b.fill - 1 } else b)) ∧
     (¬ there → FaultsAt s (.liwIssue pops) .queue 0 0xFF) ∧
     ∀ (m : Mv) (b : QBind), Fires s m → (s.port 768).toNat < 8 → s.task.queue? (s.port 768).toNat = some b →
       let both : Liw := { liwOfMove 773 m with pop := p }
       let acct := popHeads p ++ [(b.j, 0, 1)]
       (there → b.fill < b.depth → exec (.liwIssue both) s = .next (reached s false 0 1 false fun t =>
           (applyAcct (if b.esz ≤ 3 then { t with lmem := ssetMany t.lmem (atAddr (b.slot b.tail) (natLe (2 ^ b.esz) (moved s m).toNat)) }
             else t) acct).goTo (t.sq.pc + BitVec.ofNat 64 (liwBytes both))) ∧
         (p.getLsbD b.j = true → (applyAcct s.task acct).queue? b.j =
           some { b with head := (b.head + 1) % b.depth, tail := (b.tail + 1) % b.depth })) ∧
       (¬ there ∨ b.depth ≤ b.fill → FaultsAt s (.liwIssue both) .queue 0 0xFF))

/-- CPY, CPYS and WSLOAD whose operands pass every check enqueue a command, and bte.y holds its due τ: it starts at its "at" τ or at
once, and is due its latency later. SHAPE validates a record, ECHK arms or disarms a watched range, and WSREF answers the start of
the bank's refresh window, at DL0 alone (R164, R165, R169 to R173, R177, R180, R182). A command that CPYS, CPY or WSLOAD is refused
for: a reserved bit, no byte or too many, or a source in WEIGHT with a destination in DEVICE raises ALIGN_COPY with TVAL 0, a
misaligned base with that base; a range outside its space ALIGN_COPY, one that is not the task's PROT, with the base whose operand
fails, the source first (R171, R172). -/
def Obligations.EngineCommands : Prop :=
  (∀ (s : State) (m : Mv), Calm s → Fires s m →
     let v := moved s m
     let sa := s.port 704
     let da := s.port 705
     let start := if s.task.sq.tau < (s.port 706).toNat then (s.port 706).toNat else s.task.sq.tau
     let cycles : Nat → Nat → Nat := fun sc n => if sc = 0 then 12 + (n + 255) / 256 else if sc = 1 then 160 + (n + 255) / 256
       else if sc = 2 then 320 + (n + 127) / 128 else 640 + (n + 127) / 128
     let entered : Instr → BitVec 10 → CopyReq → Prop := fun i dst r => ∀ src dstRs, copySpaceFault s r = none →
       copyQueueFault s.task r = false → engineRanges s r.src .read r.srcRanges = .ok src →
       engineRanges s r.dst .write r.dstRanges = .ok dstRs → WalksFree s r.deviceRanges → ∃ (x : Memory) (k : Cmd),
       SameBytes s.mem x ∧ k.deps = s.rowFrom 704 dst ∧ k.id = s.task.nextCmd ∧ k.src = src ∧ k.dst = dstRs ∧
       k.kind = .copy r.src r.dst r.sa r.da r.sl r.dl r.q ∧ k.start = start ∧ k.due = start + cycles r.sc (layoutSize r.sl) ∧
       k.up = false ∧ k.gt = none ∧ k.late = false ∧ k.data = [] ∧ k.strict = (r.st && s.task.dl0) ∧
       exec i s = .next (issued { s with mem := x } dst m fun t => (t.enqueue k).putPort 707 (BitVec.ofNat 64 k.due))
     (let n := (v.extractLsb' 0 19).toNat
      let sc := (v.extractLsb' 35 2).toNat
      let q := v.getLsbD 38
      v.toNat < 2 ^ 40 → v.extractLsb' 19 16 = 0 → 1 ≤ n → n ≤ 262144 → n % 4 = 0 → sa.toNat % 4 = 0 →
        (if q then da.toNat < 2 ^ 3 ∧ v.getLsbD 37 = false else da.toNat % 4 = 0) → ¬ (sc = 1 ∧ v.getLsbD 37 = true) →
        entered (.cpy m) 709 { sc := sc, src := spaceOf sc, dst := if v.getLsbD 37 then .device else .local, sa := sa, da := da,
                               sl := .row n, dl := .row n, q := if q then some da.toNat else none, gt := false,
                               st := v.getLsbD 39 }) ∧
     (∀ x y : Shape, let sc := (v.extractLsb' 42 2).toNat
      let ssh := (v.extractLsb' 0 21).toNat
      let dsh := (v.extractLsb' 21 21).toNat
      v.toNat < 2 ^ 46 → ¬ (sc = 1 ∧ v.getLsbD 44 = true) → ssh % 32 = 0 → ssh < s.task.f → dsh % 32 = 0 → dsh < s.task.f →
        validShape s.task.lmem ssh = some x → validShape s.task.lmem dsh = some y → x.esz = y.esz →
        x.dims.foldl (· * ·) 1 = y.dims.foldl (· * ·) 1 → sa.toNat % 2 ^ x.esz = 0 → da.toNat % 2 ^ x.esz = 0 →
        entered (.cpys m) 710 { sc := sc, src := spaceOf sc, dst := if v.getLsbD 44 then .device else .local, sa := sa, da := da,
                                sl := .shape x, dl := .shape y, q := none, gt := false, st := v.getLsbD 45 }) ∧
     (let n := (v.extractLsb' 0 27).toNat
      let r := da.toNat / 2 ^ 26
      v.toNat < 2 ^ 28 → r < 96 → s.writeSet.getLsbD r = true → da.toNat % 4096 = 0 → n % 4096 = 0 → 1 ≤ n → n ≤ 2 ^ 26 →
        (da.toNat + n - 1) / 2 ^ 26 = r → ∀ src, engineRanges s .device .read [(sa.toNat, n)] = .ok src →
        WalksFree s [(sa.toNat, n)] → ∃ (x : Memory) (k : Cmd), SameBytes s.mem x ∧ k.deps = s.rowFrom 704 712 ∧ k.id = s.task.nextCmd ∧ k.src = src ∧ k.kind = .wsload sa da.toNat n ∧ k.start = start ∧
          k.due = start + (if v.getLsbD 27 then 640 else 320) + (n + 127) / 128 ∧ k.up = false ∧ k.gt = none ∧
          exec (.wsload m) s = .next (issued { s with mem := x } 712 m fun t => (t.enqueue k).putPort 707 (BitVec.ofNat 64 k.due))) ∧
     ((96 ≤ da.toNat / 2 ^ 26 ∨ s.writeSet.getLsbD (da.toNat / 2 ^ 26) = false) → FaultsAt s (.wsload m) .wsRo 0 0) ∧
     (localFault s.task v 32 32 = none → match readShape s.task.lmem v.toNat with
       | none => FaultsAt s (.shape m) .alignShape 0 0
       | some _ => exec (.shape m) s = .next (issued s 708 m fun t => { t with lmem := sset t.lmem (v.toNat + 3) 1 })) ∧
     (let n := (v.extractLsb' 0 22).toNat
      let i := (v.extractLsb' 22 2).toNat
      v.toNat < 2 ^ 24 → sa.toNat < 2 ^ 21 → if sa.toNat + n ≤ 0x200000 then ∃ l : List EchkRange,
          exec (.echk m) s = .next (issued s 711 m fun t => { t with echk := l }) ∧
          ∀ e, e ∈ l ↔ (e ∈ s.task.echk ∧ e.idx ≠ i) ∨ (n ≠ 0 ∧ e = { idx := i, base := sa.toNat, len := n })
        else FaultsAt s (.echk m) .alignCopy sa 0) ∧
     exec (.wsref m) s = .next (issued s 713 m fun t =>
       if s.task.tstat.dl = .dl0 then
         t.putPort 707 (BitVec.ofNat 64 (nextRefresh (max s.gcyc s.cur.nextG) (v.extractLsb' 0 4).toNat))
       else t.setTaint.putPort 707 0)) ∧
  (∀ (s : State) (m : Mv), Calm s → Fires s m →
     let v := moved s m
     let sa := s.port 704
     let da := s.port 705
     let n := (v.extractLsb' 0 19).toNat
     let sc := (v.extractLsb' 35 2).toNat
     (2 ^ 41 ≤ v.toNat ∨ v.extractLsb' 19 16 ≠ 0 ∨ n = 0 ∨ 262144 < n ∨ (sc = 1 ∧ v.getLsbD 37 = true) →
       FaultsAt s (.cpy m) .alignCopy 0 0) ∧
     (v.toNat = n → 1 ≤ n → n ≤ 262144 →
       (sa.toNat % 4 ≠ 0 → FaultsAt s (.cpy m) .alignCopy sa 0) ∧
       (sa.toNat % 4 = 0 → da.toNat % 4 ≠ 0 → FaultsAt s (.cpy m) .alignCopy da 0) ∧
       (sa.toNat % 4 = 0 → da.toNat % 4 = 0 → n % 4 ≠ 0 → FaultsAt s (.cpy m) .alignCopy 0 0) ∧
       (sa.toNat % 4 = 0 → da.toNat % 4 = 0 → n % 4 = 0 →
         (0x200000 < sa.toNat + n → FaultsAt s (.cpy m) .alignCopy sa 0) ∧
         (sa.toNat + n ≤ 0x200000 → 0x200000 < da.toNat + n → FaultsAt s (.cpy m) .alignCopy da 0) ∧
         (sa.toNat + n ≤ 0x200000 → da.toNat + n ≤ 0x200000 → s.task.f < sa.toNat + n → FaultsAt s (.cpy m) .prot sa 0) ∧
         (sa.toNat + n ≤ s.task.f → s.task.f ≤ 0x200000 → da.toNat + n ≤ 0x200000 → s.task.f < da.toNat + n →
           FaultsAt s (.cpy m) .prot da 0))) ∧
     (2 ^ 47 ≤ v.toNat → FaultsAt s (.cpys m) .alignCopy 0 0))

/-- The engine takes a command up once its start τ has come, a GT command (GT_COPY_START) once its GCYC has come; data that is not
at once in place comes in later, when its lines can be read, its bank is not under refresh and the Weir has room; and at the end of
its due τ a copy writes exactly its destination bytes, and is pending no more: to scratchpad (COPY_WRITE), as stores of the task to
DEVICE, none wider than an aligned 8-byte unit, into the slots of a queue that has room (QUEUE_COPY_COMMIT), or to the weight store
(WSLOAD_WRITE); an agent fills slots of a queue and advances its tail where there is room; the bank under refresh follows GCYC; and
a copy from LOCAL has read its source as it stood at the start of its due τ, before a store of that τ (R162, R164, R174 to R176,
R178, R180, R181, R232). ENGINE_COMMAND_START, GT_COPY_START, COPY_WRITE, LATE_DATA_ARRIVAL, QUEUE_COPY_COMMIT, WSLOAD_WRITE,
QUEUE_AGENT_ADVANCE and REFRESH_WINDOW complete so wherever the conditions of its clause hold. -/
def Obligations.EngineSteps : Prop :=
  (∀ (s : State) (c : Cmd), s.on = true → c ∈ s.task.cmds → (s.task.cmds.map fun x => x.id).Nodup →
    let done : Task → Prop := fun t => t.cmds = s.task.cmds.filter (fun x => x.id ≠ c.id) ∧ t.fr = s.task.fr ∧ t.sq = s.task.sq ∧
      t.vregs = s.task.vregs ∧ t.ports = s.task.ports ∧ t.pipe = s.task.pipe
    (∀ g, c.gt = some g → (s.clock < g → exec (.gtCopyStart c.id) s = .next s) ∧
      (g ≤ s.clock → ∃ t, exec (.gtCopyStart c.id) s = .next t ∧ t.mem = s.mem ∧ t.task.lmem = s.task.lmem ∧
        { c with gt := none, start := s.task.sq.tau, due := s.task.sq.tau + c.due } ∈ t.task.cmds)) ∧
    (c.buffered = true → c.gt = none → (s.task.sq.tau < c.start → exec (.engineCommandStart c.id) s = .next s) ∧
      (c.start ≤ s.task.sq.tau → ∃ t, exec (.engineCommandStart c.id) s = .next t ∧
        t.task.lmem = s.task.lmem ∧ t.task.sq = s.task.sq ∧ t.gcyc = s.gcyc ∧ ∃ k ∈ t.task.cmds, k.id = c.id ∧ k.up = true ∧
          k.kind = c.kind ∧ k.due = c.due ∧ (if c.fetched then k.late = true ∨ (canFetch s c = true ∧ k.data = readSource s c)
            else k.late = false ∧ k.data = c.data))) ∧
    (c.up = true → c.late = true → c.fetched = true →
      (canFetch s c = false → exec (.lateDataArrival c.id) s = .next s) ∧
      (canFetch s c = true → ∃ t, exec (.lateDataArrival c.id) s = .next t ∧ t.task.lmem = s.task.lmem ∧ t.task.sq = s.task.sq ∧
        ∃ k ∈ t.task.cmds, k = { c with late := false, data := readSource s c, deps := k.deps })) ∧
    (canFetch s c = true → (∀ r ∈ rangeLines c.src, s.mem.blocked (coreDie s.cur.core) r = false) ∧
      (∀ b, refreshBank s.gcyc = some b → c.fetched = true → ∀ r ∈ c.weightRanges, touchesBank b r.1 r.2 = false)) ∧
    (c.up = true → c.gt = none → c.late = false → c.due < s.task.sq.tau →
      (∀ sp sa da sl dl, c.kind = .copy sp .local sa da sl dl none → ∃ t, exec (.copyWrite c.id) s = .next t ∧ done t.task ∧
        t.mem = s.mem ∧ t.task.lmem = ssetMany s.task.lmem (placeRanges (layoutRanges da dl) c.data)) ∧
      (∀ sp sa da sl dl, c.kind = .copy sp .device sa da sl dl none → Alone s →
        ∃ t ws, exec (.copyWrite c.id) s = .next t ∧ done t.task ∧ t.task.lmem = s.task.lmem ∧ (∀ d, t.mem.view d = s.mem.view d) ∧
          t.mem.writes = s.mem.writes ++ ws ∧ (∀ w ∈ ws, w.uid = some s.cur.uid ∧ w.homed = none ∧ ∀ b ∈ w.bytes, b.1 / 8 = w.loc) ∧
          ∀ a, (ws.flatMap fun w => w.bytes).filter (fun b => b.1 = a) = (placeRanges c.dst c.data).filter fun b => b.1 = a) ∧
      (∀ sp ds sa da sl dl j b, c.kind = .copy sp ds sa da sl dl (some j) → s.task.queue? j = some b →
        let n := layoutSize sl / 2 ^ b.esz
        (b.depth - b.fill < n → exec (.queueCopyCommit c.id) s = .next s) ∧
        (n ≤ b.depth - b.fill → ∃ t, exec (.queueCopyCommit c.id) s = .next t ∧ done t.task ∧ t.mem = s.mem ∧
          t.task.queue? j = some (b.advance 0 n) ∧ t.task.lmem =
            writeBack (ssetMany s.task.lmem (placeRanges (queueSlots b (layoutSize sl)) c.data)) (b.advance 0 n))) ∧
      (∀ sa w n, c.kind = .wsload sa w n → s.weightDies.Nodup → (∀ d ∈ s.weightDies, d < 4) → ∃ t, exec (.wsloadWrite c.id) s = .next t ∧ done t.task ∧
        t.task.lmem = s.task.lmem ∧ (∀ d, t.mem.view d = s.mem.view d) ∧ ∀ d < 4, t.mem.ws d =
          if d ∈ s.weightDies then writeBytes (s.mem.ws d) w c.data else s.mem.ws d)) ∧
    (s.task.sq.tau ≤ c.due → exec (.copyWrite c.id) s = .next s ∧ exec (.queueCopyCommit c.id) s = .next s ∧
      exec (.wsloadWrite c.id) s = .next s)) ∧
  (∀ (s : State) (j : BitVec 3) (n : Nat) (b : QBind), s.on = true → s.task.queue? j.toNat = some b →
    (b.depth - b.fill < n → exec (.queueAgentAdvance j n) s = .next s) ∧
    (n ≤ b.depth - b.fill → ∃ t, exec (.queueAgentAdvance j n) s = .next t ∧ t.mem = s.mem ∧
      t.task.queue? j.toNat = some (b.advance 0 n))) ∧
  (∀ s : State, let bank := if s.gcyc % 4096 < 256 then some (s.gcyc / 4096 % 16) else none
    exec .refreshWindow s = .next { s with board := { s.board with refresh := bank } }) ∧
  ∀ (s : State) (c : Cmd) (ds : Space) (sa da : Nat) (sl dl : Layout) (q : Option Nat) (g : Gd) (d b : BitVec 5) (i : BitVec 11),
    s.on = true → (s.cur.kind = .user ∨ s.cur.kind = .handler) → s.task.cmds = [c] → s.task.pipe = [] → s.task.fmtPend = [] →
    s.task.loads = [] → (∀ b ∈ s.task.queues, b.head < b.depth ∧ b.tail < b.depth) → endsAt s.task s.task.sq.pc = false →
    c.kind = .copy .local ds sa da sl dl q → c.gt = none → c.late = false → c.data = [] → c.due = s.task.sq.tau →
    let ea := slotEa s.task b i 8
    guardOn s g = true → InLocal s ea 8 → OffControl s ea.toNat 8 →
    ∃ t, exec (.stD g d b i) s = .next t ∧ Stored s ea.toNat 8 (s.reg d) t.task.lmem ∧
      t.task.cmds = [{ c with data := readRanges s.task.lmem (layoutRanges sa sl) }]

/-- MCFG, MLW, MSWP, MSTR, MOP, MRD and MCLR of each array, on operands that pass every check: MCFG sets the scale and the formats
of a drained array and raises MCFG_BUSY on any other, ILLEGAL for a pair of formats without a rate; MLW, MSWP, MSTR, MOP and MRD
enqueue a command with its start and due τ, MRD with the elements it has read; MCLR clears one tile or both (R185 to R198). -/
def Obligations.MatrixCommands : Prop :=
  ∀ (s : State) (x : Bool) (m : Mv), Calm s → Fires s m →
    let arr := if x then 1 else 0
    let b := 512 + 64 * arr
    let dst : Nat → BitVec 10 := fun o => BitVec.ofNat 10 (b + o)
    let v := moved s m
    let tau := s.task.sq.tau
    let mx := s.task.mx arr
    let start := if tau < (s.port (b + 2)).toNat then (s.port (b + 2)).toNat else tau
    (let os := s.port b
     let af := formatOf (v.extractLsb' 0 3).toNat
     let wf := formatOf (v.extractLsb' 3 3).toNat
     (2 ^ 32 ≤ os.toNat ∨ 2 ^ 6 ≤ v.toNat ∨ mxRate af wf = none → FaultsAt s (.mcfg x m) .illegal 0 0) ∧
     (os.toNat < 2 ^ 32 → v.toNat < 2 ^ 6 → mxRate af wf ≠ none →
       if mx.done = 0 ∨ mx.done + 2 ≤ tau then exec (.mcfg x m) s = .next (issued s (dst 4) m fun t =>
         t.mapMx arr fun a => { a with oscale := os.extractLsb' 0 32, af := af, wf := wf })
       else FaultsAt s (.mcfg x m) .mcfgBusy 0 0)) ∧
    (let sp : Space := if v.getLsbD 0 then .local else .weight
     let sa := s.port b
     let str := s.port (b + 1)
     v.toNat < 2 ^ 2 → str.toNat < 2 ^ 32 → sa.toNat % 64 = 0 → str.toNat % 64 = 0 →
       mlwFault s sp sa (blockRanges sa.toNat str.toNat mx.wf) = none → ∃ k : Cmd, k.id = s.task.nextCmd ∧
         k.kind = .mlw arr sp sa str.toNat (v.getLsbD 1) mx.wf ∧ k.start = start ∧ k.due = start + mlwLatency sp mx.wf ∧
         k.up = false ∧ k.gt = none ∧
         exec (.mlw x m) s = .next (issued s (dst 5) m fun t => (t.enqueue k).putPort (b + 3) (BitVec.ofNat 64 k.due))) ∧
    (let at' := if tau < v.toNat then v.toNat else tau
     ∃ k : Cmd, k.id = s.task.nextCmd ∧ k.kind = .mswp arr ∧ k.start = at' ∧ k.due = at' ∧
       exec (.mswp x m) s = .next (issued s (dst 6) m fun t => t.enqueue k)) ∧
    (∀ (mop : Bool) (q : StepReq) (r : Nat), stepReq mop (s.port b) (s.port (b + 1)) v = some q → mxRate mx.af mx.wf = some r →
      ¬ (mop = true ∧ mx.wf = .d2p8) → stepAlign s.task q mx = none → ∃ k : Cmd, k.id = s.task.nextCmd ∧
        k.kind = .step arr mop q.tile q.acc q.rows q.a q.sa q.g q.sg mx.af mx.wf r ∧ k.start = start ∧
        k.due = start + 64 / r - 1 + 16 ∧ k.up = decide (start = tau) ∧
        k.cells = (if start = tau then mx.plane mx.act else []) ∧
        k.data = (if start = tau then (List.range (min q.rows r)).flatMap fun i =>
          readBytes s.task.lmem (q.a + i * q.sa) (64 * mxElem mx.af) ++
            (if mop then readBytes s.task.lmem (q.g + i * q.sg) (64 * mxElem mx.wf) else []) else []) ∧
        exec (if mop then .mop x m else .mstr x m) s = .next (issued s (dst (if mop then 8 else 7)) m fun t =>
          (t.enqueue k).putPort (b + 3) (BitVec.ofNat 64 k.due))) ∧
    (∀ w : MrdCtl, mrdCtl v (s.port b) (s.port (b + 1)) = some w →
      (w.dm = false → mrdDest s.task (s.port b).toNat (s.port (b + 1)).toNat (64 * fsize w.ofmt) w.nr = none) →
      ∃ k : Cmd, k.id = s.task.nextCmd ∧ k.kind = .mrd arr ∧ k.start = tau ∧ k.due = tau + 3 ∧ k.up = true ∧
        exec (.mrd x m) s = .next (issued s (dst 9) m fun t => t.enqueue k) ∧
        (w.dm = false → k.lanes = []) ∧ (w.dm = true → k.writes = []) ∧
        ∀ i < w.nr, ∀ j < 64,
          let e := (mrdElem mx.oscale w.ofmt w.satb (sget (mx.tile w.tile) (64 * (w.row0 + i) + j))).1
          (w.dm = true → (128 * w.vr + (64 * i + j), laneOf w.ofmt e) ∈ k.lanes) ∧
          (w.dm = false → ∀ c < fsize w.ofmt, ((s.port b).toNat + i * (s.port (b + 1)).toNat + fsize w.ofmt * j + c,
            e.extractLsb' (8 * c) 8) ∈ k.writes)) ∧
    (if v.toNat < 2 ^ 2 then exec (.mclr x m) s = .next (issued s (dst 10) m fun t => t.mapMx arr fun a =>
        let clear : Bool → Nat → MxArray → MxArray := fun c i a => if c then a.setTile i [] ⟨false, false⟩ else a
        clear (v.getLsbD 1 || v.getLsbD 0) 1 (clear (v.getLsbD 1 || !v.getLsbD 0) 0 a))
      else FaultsAt s (.mclr x m) .illegal 0 0)

/-- The arrays' commands at their τ: MLW_WRITE writes every cell of the shadow plane from its block, MSWP_INVERT inverts ACT, a step
takes the cells of the active plane at its start (ARRAY_STEP_START), unless an operand is missing, for which the next LIW raises
TIMING, and at its completion (ARRAY_STEP_COMPLETE) writes rows 0 to ROWS − 1 of its tile (all 64 for MOP) with the ordered sums of
its products, and MRD_WRITE performs what an MRD has formed; before its τ none of them does anything (R189, R190, R193, R194, R195,
R197). MLW_WRITE, MSWP_INVERT, ARRAY_STEP_START, ARRAY_STEP_COMPLETE and MRD_WRITE complete so wherever the conditions of its clause
hold. -/
def Obligations.MatrixSteps : Prop :=
  ∀ (s : State) (c : Cmd), s.on = true → c ∈ s.task.cmds → (s.task.cmds.map fun x => x.id).Nodup →
    let tau := s.task.sq.tau
    let kept : State → Prop := fun t => t.mem = s.mem ∧ t.parked = s.parked ∧ t.gcyc = s.gcyc ∧
      t.task.fr = s.task.fr ∧ t.task.sq = s.task.sq ∧ t.task.ports = s.task.ports ∧ t.task.preds = s.task.preds
    let done : State → Prop := fun t => kept t ∧ t.task.cmds = s.task.cmds.filter fun x => x.id ≠ c.id
    (∀ arr sp sa str tr wf, c.kind = .mlw arr sp sa str tr wf → (tau ≤ c.due → exec (.mlwWrite c.id) s = .next s) ∧
      (c.up = true → c.gt = none → c.late = false → c.due < tau →
      ∃ t, exec (.mlwWrite c.id) s = .next t ∧ done t ∧ t.ctxs = s.ctxs ∧ t.task.lmem = s.task.lmem ∧
        (∀ k < 64, ∀ n < 64, sget ((t.task.mx arr).plane (!(s.task.mx arr).act)) (64 * k + n) = blockCell wf tr c.data k n) ∧
        (t.task.mx arr).plane (s.task.mx arr).act = (s.task.mx arr).plane (s.task.mx arr).act ∧
        (∀ i, (t.task.mx arr).tile i = (s.task.mx arr).tile i) ∧ (t.task.mx arr).act = (s.task.mx arr).act)) ∧
    (∀ arr, c.kind = .mswp arr → (tau ≤ c.due → exec (.mswpInvert c.id) s = .next s) ∧
      (c.due < tau → ∃ t, exec (.mswpInvert c.id) s = .next t ∧ done t ∧ t.ctxs = s.ctxs ∧ t.task.lmem = s.task.lmem ∧
        t.task.mx arr = { s.task.mx arr with act := !(s.task.mx arr).act })) ∧
    (∀ arr mop tile acc rows a sa g sg af wf r, c.kind = .step arr mop tile acc rows a sa g sg af wf r →
      (c.up = false → c.gt = none → c.start ≤ tau →
        (missing s.task c.start c.spans = false → ∃ t, exec (.arrayStepStart c.id) s = .next t ∧ kept t ∧
          { c with up := true, cells := (s.task.mx arr).plane (s.task.mx arr).act } ∈ t.task.cmds) ∧
        (missing s.task c.start c.spans = true → ∃ t, exec (.arrayStepStart c.id) s = .next t ∧ kept t ∧
          { c with up := true, late := true } ∈ t.task.cmds ∧ (∃ f, lateFault t.task = some f ∧ f.code = .timing) ∧
          ((∀ k ∈ s.task.cmds, k.late = false) →
            lateFault t.task = some { code := .timing, tval := missingTval arr mop c.start, bus := 0xFF }))) ∧
      (c.up = true → c.gt = none → c.late = false → c.due < tau → ∃ t, exec (.arrayStepComplete c.id) s = .next t ∧ done t ∧
        t.ctxs = s.ctxs ∧ t.task.lmem = s.task.lmem ∧ (t.task.mx arr).done = c.due ∧
        let st := streamed mop rows af wf c.data
        let ws := if mop then st.2 else planeVals c.cells
        let old := (s.task.mx arr).tile tile
        (∀ i < (if mop then 64 else rows), ∀ n < 64, sget ((t.task.mx arr).tile tile) (64 * i + n) =
          (stepElem acc (sget old (64 * i + n)) (stepProds mop rows st.1 ws i n)).1) ∧
        (∀ k, 64 * (if mop then 64 else rows) ≤ k → sget ((t.task.mx arr).tile tile) k = sget old k))) ∧
    (∀ arr, c.kind = .mrd arr → (tau ≤ c.due → exec (.mrdWrite c.id) s = .next s) ∧
      (c.up = true → c.gt = none → c.due < tau → ∃ t, exec (.mrdWrite c.id) s = .next t ∧ done t ∧
      t.task.lmem = ssetMany s.task.lmem c.writes ∧ t.task.vregs = ssetMany s.task.vregs c.lanes ∧
      t.task.fmt.flags = s.task.fmt.flags.or c.flags))

/-- WTAG allocates the lowest free slot with its next generation, 1 to 255, or answers 0 where none is free; WREL frees a live tag's
slot and answers 1, else 0; a tag is live while its slot is allocated at its generation (R241, R242). WTAG and WREL complete so
wherever the conditions of its clause hold. WMAX, WMIN, WMED, WCLMP and WSSUM, and ADJB, on operands that pass every check of R245
or R248, each enqueue an operation that is due 4 + ⌈ROWS · IL / 64⌉ τ later, with wit.y holding that τ; a reduction writes each
result, its witness element and the descriptor's bytes 0 to 4 (R236, R244 to R249). WCLMP and WSSUM with a NaN bound or hi below lo
are refused (R375). WMAX, WMIN, WMED, WCLMP, WSSUM and ADJB complete so wherever the conditions of its clause hold. What a reduction
gives for its contributors: WMAX, WMIN and WMED the greatest, the least and the lower median in the order of R128, with the first
index that holds it, TIE where a second one does and MASK of all that do for up to 16, or the first NaN made quiet with its index;
WCLMP the value between its bounds with its class; WSSUM the ascending sum of any number of them between its bounds, with the flags
of its additions; and an operation writes what it has formed once it is due (R238, R246, R247, R249). WITNESS_COMPLETE and
ADJB_COMPLETE complete so wherever the conditions of its clause hold. -/
def Obligations.WitnessUnit : Prop :=
  ((∀ (s : State) (m : Mv), Calm s → Fires s m →
     let v := moved s m
     (∀ i < 256, s.task.tagOn.getLsbD i = false → (∀ j < i, s.task.tagOn.getLsbD j = true) →
       let g := (sget s.task.tagGen i).toNat % 255 + 1
       ∃ on gen, exec (.wtag m) s = .next (issued s 650 m fun t =>
           { t with tagOn := on, tagGen := gen }.putPort 643 (BitVec.ofNat 64 (256 * g + i))) ∧
         (∀ j < 256, on.getLsbD j = (decide (j = i) || s.task.tagOn.getLsbD j)) ∧
         ∀ j, sget gen j = if j = i then BitVec.ofNat 8 g else sget s.task.tagGen j) ∧
     ((∀ i < 256, s.task.tagOn.getLsbD i = true) → exec (.wtag m) s = .next (issued s 650 m fun t => t.putPort 643 0)) ∧
     (2 ^ 16 ≤ v.toNat → FaultsAt s (.wrel m) .illegal 0 0) ∧
     (v.toNat < 2 ^ 16 → s.task.tagLive (v.setWidth 16) = false → exec (.wrel m) s = .next (issued s 651 m fun t => t.putPort 643 0)) ∧
     (v.toNat < 2 ^ 16 → s.task.tagLive (v.setWidth 16) = true → ∃ on,
       exec (.wrel m) s = .next (issued s 651 m fun t => { t with tagOn := on }.putPort 643 1) ∧
       ∀ j < 256, on.getLsbD j = (s.task.tagOn.getLsbD j && decide (j ≠ v.toNat % 256)))) ∧
   ∀ (t : Task) (tag : BitVec 16), t.tagLive tag = true ↔ tag ≠ 0 ∧ t.tagOn.getLsbD (tag.toNat % 256) = true ∧
     (sget t.tagGen (tag.toNat % 256)).toNat = tag.toNat / 256) ∧
  (∀ (s : State) (m : Mv), Calm s → Fires s m →
     let v := moved s m
     let pa := s.port 640
     let x := (pa.extractLsb' 0 21).toNat
     let y := (pa.extractLsb' 21 21).toNat
     let at' := (v.extractLsb' 0 21).toNat
     let d := readTile s.task.lmem at'
     let lo := (s.port 641).extractLsb' 0 32
     let hi := (s.port 641).extractLsb' 32 32
     let tag := s.port 642
     let tie := if v.getLsbD 21 then 1 else 0
     let due := s.task.sq.tau + 4 + (d.rows * d.il + 63) / 64
     (∀ (k : Nat) (i : Instr) (dst : BitVec 10), (k, i, dst) ∈ [(1, Instr.wmax m, (644 : BitVec 10)), (2, .wmin m, 645),
         (3, .wmed m, 646), (4, .wclmp m, 647), (5, .wssum m, 648)] →
       (2 ^ 42 ≤ pa.toNat ∨ 2 ^ 16 ≤ tag.toNat ∨ 2 ^ 22 ≤ v.toNat ∨ (4 ≤ k ∧ tie = 1) → FaultsAt s i .illegal 0 0) ∧
       (pa.toNat < 2 ^ 42 → tag.toNat < 2 ^ 16 → v.toNat < 2 ^ 22 → (4 ≤ k → tie = 0) → witBase s.task at' x y = none →
         d.shapeOk = true → d.kindOk k tie = true →
         let ins := rowsAt x d.xs (4 * d.il) d.rows
         let outs := rowsAt y d.ys (4 * d.nc) d.rows
         rowsFault s.task (ins ++ outs ++ [d.elems at']) = none →
         (s.task.tagLive (tag.setWidth 16) = false → FaultsAt s i .witnessStale tag 0) ∧
         (s.task.tagLive (tag.setWidth 16) = true → writesControl s.task (outs ++ [d.elems at', (at', 5)]) = false →
           (4 ≤ k ∧ badBounds lo hi = true → exec i s = .next (issued s dst m fun t => t.addFlags flagNv)) ∧
           (k < 4 ∨ badBounds lo hi = false → ∃ c : Cmd, c.id = s.task.nextCmd ∧ c.kind = .wit ∧ c.due = due ∧ c.up = true ∧
             exec i s = .next (issued s dst m fun t => (t.enqueue c).putPort 643 (BitVec.ofNat 64 due)) ∧
             (∀ r < d.rows, ∀ j < d.nc,
               let cs := ((lanesOf (readBytes s.task.lmem (x + r * d.xs) (4 * d.il))).drop (j * d.s)).take d.w
               let e := reduceOne k lo hi cs
               ∀ b < 4, (y + r * d.ys + 4 * j + b, e.1.extractLsb' (8 * b) 8) ∈ c.writes ∧
                 (at' + 64 + 4 * (r * d.nc + j) + b, BitVec.ofNat 8 (e.2.1 / 2 ^ (8 * b))) ∈ c.writes) ∧
             (at', tag.setWidth 8) ∈ c.writes ∧ (at' + 1, tag.extractLsb' 8 8) ∈ c.writes ∧ (at' + 2, BitVec.ofNat 8 k) ∈ c.writes ∧
             (at' + 3, BitVec.ofNat 8 tie) ∈ c.writes ∧ (at' + 4, 0) ∈ c.writes)))) ∧
     (pa.toNat < 2 ^ 42 → v.toNat < 2 ^ 22 → witBase s.task at' x y = none → d.shapeOk = true → d.adjOk = true →
       let gs := rowsAt x d.ys (4 * d.nc) d.rows
       let dxs := rowsAt y d.xs (4 * d.il) d.rows
       rowsFault s.task (d.elems at' :: (gs ++ dxs)) = none →
       (s.task.tagLive d.tag = false → FaultsAt s (.adjb m) .witnessStale (d.tag.setWidth 64) 0) ∧
       (s.task.tagLive d.tag = true → writesControl s.task dxs = false → ∃ c : Cmd, c.id = s.task.nextCmd ∧ c.kind = .adjb ∧
         c.due = due ∧ c.up = true ∧
         exec (.adjb m) s = .next (issued s 649 m fun t => (t.enqueue c).putPort 643 (BitVec.ofNat 64 due)) ∧
         ∀ r < d.rows,
           let row := (routeRow (v.getLsbD 21) d (lanesOf (readBytes s.task.lmem (at' + 64 + 4 * d.nc * r) (4 * d.nc)))
             (lanesOf (readBytes s.task.lmem (x + r * d.ys) (4 * d.nc)))
             (lanesOf (readBytes s.task.lmem (y + r * d.xs) (4 * d.il)))).1
           ∀ p < d.il, ∀ b < 4, (y + r * d.xs + 4 * p + b, (row.getD p 0).extractLsb' (8 * b) 8) ∈ c.writes))) ∧
  ((∀ (lo hi : Lane) (cs : List Lane), cs ≠ [] → (∀ c ∈ cs, nan32 c = false) →
     (∀ k ∈ [1, 2, 3], let y := (reduceOne k lo hi cs).1
       y ∈ cs ∧ (k = 1 → ∀ c ∈ cs, orderKey c ≤ orderKey y) ∧ (k = 2 → ∀ c ∈ cs, orderKey y ≤ orderKey c) ∧
       (k = 3 → 2 * (cs.filter fun c => orderKey c < orderKey y).length ≤ cs.length - 1 ∧
         2 * (cs.filter fun c => orderKey y < orderKey c).length ≤ cs.length)) ∧
     (∀ k ∈ [1, 2, 3], cs.length ≤ 256 → let e := (reduceOne k lo hi cs).2.1
       let q := e / 2 ^ 16 % 256
       let y := (reduceOne k lo hi cs).1
       e / 2 ^ 28 = k ∧ e / 2 ^ 24 % 8 = 0 ∧ cs[q]? = some y ∧ (∀ i < q, cs[i]? ≠ some y) ∧
       (e / 2 ^ 27 % 2 = 1 ↔ ∃ i j : Nat, i ≠ j ∧ cs[i]? = some y ∧ cs[j]? = some y) ∧
       (∀ i < 16, e / 2 ^ i % 2 = 1 ↔ cs.length ≤ 16 ∧ cs[i]? = some y) ∧ (reduceOne k lo hi cs).2.2 = Flags.none) ∧
     (badBounds lo hi = false → ∀ c ∈ cs, cs = [c] →
       (orderKey c < orderKey lo → reduceOne 4 lo hi cs = (lo, 4 * 2 ^ 28 + 1, Flags.none)) ∧
       (orderKey hi < orderKey c → reduceOne 4 lo hi cs = (hi, 4 * 2 ^ 28 + 2, Flags.none)) ∧
       (orderKey lo ≤ orderKey c → orderKey c ≤ orderKey hi → reduceOne 4 lo hi cs = (c, 4 * 2 ^ 28, Flags.none)))) ∧
   (∀ (lo hi x : Lane) (cs : List Lane) (q : Nat), cs[q]? = some x → nan32 x = true →
     (∀ i < q, ∀ y, cs[i]? = some y → nan32 y = false) → ∀ k ∈ [1, 2, 3], reduceOne k lo hi cs =
       (x ||| 0x00400000, k * 2 ^ 28 + q * 2 ^ 16 + (if cs.length ≤ 16 then 2 ^ q else 0), Flags.none)) ∧
   (∀ (lo hi x : Lane), nan32 x = true → reduceOne 4 lo hi [x] = (x ||| 0x00400000, 4 * 2 ^ 28, Flags.none)) ∧
   (∀ (lo hi c : Lane) (rest : List Lane), badBounds lo hi = false →
     let sm : Lane × Flags := rest.foldl (fun p x => ((fpAdd .rne p.1 x).1, p.2.or (fpAdd .rne p.1 x).2)) (c, Flags.none)
     (nan32 sm.1 = true → reduceOne 5 lo hi (c :: rest) = (sm.1 ||| 0x00400000, 5 * 2 ^ 28, sm.2)) ∧
     (nan32 sm.1 = false →
       (orderKey hi < orderKey sm.1 → reduceOne 5 lo hi (c :: rest) = (hi, 5 * 2 ^ 28 + 1, sm.2)) ∧
       (orderKey sm.1 < orderKey lo → reduceOne 5 lo hi (c :: rest) = (lo, 5 * 2 ^ 28 + 2, sm.2)) ∧
       (orderKey lo ≤ orderKey sm.1 → orderKey sm.1 ≤ orderKey hi → reduceOne 5 lo hi (c :: rest) = (sm.1, 5 * 2 ^ 28, sm.2)))) ∧
   ∀ (s : State) (c : Cmd), s.on = true → c ∈ s.task.cmds → (s.task.cmds.map fun x => x.id).Nodup → c.up = true → c.gt = none →
     let finished : Instr → Prop := fun i => (s.task.sq.tau ≤ c.due → exec i s = .next s) ∧
       (c.due < s.task.sq.tau → ∃ t, exec i s = .next t ∧ t.mem = s.mem ∧ t.parked = s.parked ∧ t.task.fr = s.task.fr ∧
         t.task.sq = s.task.sq ∧ t.task.cmds = s.task.cmds.filter (fun x => x.id ≠ c.id) ∧
         t.task.lmem = ssetMany s.task.lmem c.writes ∧ t.task.fmt.flags = s.task.fmt.flags.or c.flags)
     (c.kind = .wit → finished (.witnessComplete c.id)) ∧ (c.kind = .adjb → finished (.adjbComplete c.id)))

/-- LAUNCH reads the record at its DEVICE address: a misaligned address, one that cannot be read, and a record that breaks a check
of R257 raise their faults, and one that meets a line no access can use now waits; else its LIW completes: it creates the record's
launch in a graph of its own, issued 1, in the phase of the running unit, and ctl.y holds the launch's handle (R254, R255, R257,
R261, R270). A launch record passes R257 and names its launch, or is refused: ILLEGAL for another version, a reserved bit, no unit
or more than 2^24, more than 8 arguments, a write set without WL or one that meets the read set; CALL_SIG where KDESC names no
descriptor; LAUNCH_FIT for a footprint R148 does not allow and for a gang beyond four units a logical core (R148, R256, R257, R262).
-/
def Obligations.Launches : Prop :=
  (∀ (s : State) (m : Mv), Calm s → Fires s m →
     let va := moved s m
     let at_ := [(va.toNat, 144)]
     (va.toNat % 16 ≠ 0 → FaultsAt s (.launch m) .alignLocal va 0) ∧
     (va.toNat % 16 = 0 → ¬ WalksFree s at_ → ∃ d, exec (.launch m) s = .next (held (comeUp s) (.memory d))) ∧
     (va.toNat % 16 = 0 → WalksFree s at_ → match engineRanges s .device .read at_ with
       | .error f => FaultsAt s (.launch m) f va 0
       | .ok rs => match s.readWaits rs with
         | some d => exec (.launch m) s = .next (held (comeUp s) (.memory d))
         | none => match checkRecord s s.curCtx (s.deviceBytes rs) va s.task.tstat.dl with
           | .error f => FaultsAt s (.launch m) f 0 0
           | .ok l => ∀ c, s.ctx? s.cur.ctx = some c →
             let h := mkHandle 0 (c.serials.1 + 1)
             let gh := mkHandle 1 (c.serials.2.1 + 1)
             (∀ g ∈ c.graphs, g.h ≠ gh) →
               ∃ c', exec (.launch m) s = .next (issued ({ s with mem := (s.fillRanges s.tick at_).fetched rs }.mapCtx s.cur.ctx
                   fun _ => c') 87 m fun t => t.putPort 67 (BitVec.ofNat 64 h)) ∧
                 c'.launches = c.launches ++ [{ l with h := h, graph := gh, entry := 0, preds := [] }] ∧
                 c'.graphs = c.graphs ++
                   [{ newGroup gh s.ownPhase 0 (some 1) 0 0 (max s.gcyc s.cur.nextG) with members := [h] }] ∧
                 (∀ p ∈ c.phases, p.h ≠ s.ownPhase → p ∈ c'.phases) ∧
                 (∀ p ∈ c.phases, p.h = s.ownPhase → { p with members := p.members ++ [gh] } ∈ c'.phases) ∧
                 c'.jobs = c.jobs ∧ c'.modules = c.modules ∧ c'.serials = (c.serials.1 + 1, c.serials.2.1 + 1, c.serials.2.2))) ∧
  (∀ (s : State) (c : Ctx) (bs : List Byte) (va : Word) (inherit : Level),
     let f := byteField bs
     let bit : Nat → Bool := fun i => (f 2 2).testBit i
     let wl := bit 5
     let rset := BitVec.ofNat 96 (f 48 12)
     let wset := BitVec.ofNat 96 (f 60 12)
     let foot : Foot := { tile := f 32 4, queue := f 36 4, wit := f 40 4, spill := f 44 4 }
     let illegal := f 0 2 ≠ 1 ∨ 64 ≤ f 2 2 ∨ f 73 7 ≠ 0 ∨ f 4 4 = 0 ∨ 2 ^ 24 < f 4 4 ∨ 8 < f 72 1 ∨ (wset ≠ 0 ∧ wl = false) ∨
       wset &&& rset ≠ 0
     let level := if bit 0 ∧ bit 1 then inherit else levelOf (f 2 2 % 4)
     let fits := (∀ n ∈ [foot.tile, foot.queue, foot.wit, foot.spill], n % 4096 = 0) ∧ 4096 ≤ foot.spill ∧
       foot.tile + foot.queue + foot.wit + foot.spill ≤ 0x200000 ∧ (bit 4 = true → f 4 4 ≤ 4 * logicalCores s c level)
     let kdesc := BitVec.ofNat 64 (f 8 8)
     let r := checkRecord s c bs va inherit
     (illegal → r = .error .illegal) ∧
     (¬ illegal → (c.desc? kdesc = none → r = .error .callSig) ∧
       (c.desc? kdesc ≠ none → (¬ fits → r = .error .launchFit) ∧
         (fits → ∃ l, r = .ok l ∧ l.u = f 4 4 ∧ l.kdesc = kdesc ∧ l.lid = f 16 4 ∧ l.est = f 20 4 ∧
           l.seed = BitVec.ofNat 64 (f 24 8) ∧ l.foot = foot ∧ l.rset = rset ∧ l.wset = wset ∧ l.wl = wl ∧ l.gang = bit 4 ∧
           l.prio = f 2 2 / 4 % 4 ∧ l.level = level ∧ l.record = va ∧ l.args.length = f 72 1 ∧
           ∀ i < f 72 1, l.args[i]? = some (BitVec.ofNat 64 (f (80 + 8 * i) 8))))))

/-- JOIN of an object: with a count it completes once so many items have come to their end, with 0 once the object is finished, and
answers COMPLETED + CANCELLED at DL0, else what it waited for; until then its LIW waits; an object that holds the running unit
raises ILLEGAL, a handle that names none PROT. The writes that cancelled units had in flight precede its later accesses. As a
barrier it completes once every unit of the gang has arrived, ended or been cancelled; until then its LIW waits with its arrival
registered (R255, R270, R271). CANCEL: its LIW cancels the object whose handle it carries and answers 1, or answers 0 where it is
finished, and that changes nothing; a handle that names none raises PROT. Cancelling a launch counts its unplaced units cancelled
and marks the running ones, which are terminated where they may be, and counted cancelled with the writes they have in flight (R255,
R270 to R272). CANCEL and UNIT_TERMINATE complete so wherever the conditions of its clause hold. -/
def Obligations.JoinsAndCancels : Prop :=
  (∀ (s : State) (m : Mv), Calm s → Fires s m →
     let v := moved s m
     let x := s.curCtx
     let h := (s.port 64).toNat
     let n := v.toNat % 2 ^ 32
     let k := counters x h
     let count := k.1 + k.2.1
     let dl0 := s.task.tstat.dl = .dl0
     (2 ^ 32 ≤ h ∨ 2 ^ 33 ≤ v.toNat → FaultsAt s (.join m) .illegal 0 0) ∧
     (h < 2 ^ 32 → v.toNat < 2 ^ 33 →
       (objectFinished (comeUp s) x h = none → FaultsAt s (.join m) .prot (s.port 64) 0) ∧
       ∀ fin, objectFinished (comeUp s) x h = some fin →
         (v.toNat < 2 ^ 32 → (h ∈ holders x s.cur.launch → FaultsAt s (.join m) .illegal 0 0) ∧
           (h ∉ holders x s.cur.launch →
             let met := (n = 0 → fin = true) ∧ (n ≠ 0 → n ≤ count)
             let gives : Nat → Prop := fun y => exec (.join m) s = .next (issued
               { s with cur := { s.cur with fenced := (lateWrites x h).map (fun i => (i, Scope.sys)) ++ s.cur.fenced } } 88 m
               fun t => t.putPort 67 (BitVec.ofNat 64 y))
             (¬ met → exec (.join m) s = .next (held (comeUp s) .join)) ∧
             (met → (dl0 → gives count) ∧ (¬ dl0 → n = 0 → gives k.2.2) ∧ (¬ dl0 → n ≠ 0 → gives n)))) ∧
         (2 ^ 32 ≤ v.toNat → (x.launch? h = none → FaultsAt s (.join m) .illegal 0 0) ∧ ∀ l, x.launch? h = some l →
           (h ≠ s.cur.launch ∨ n ≠ 0 ∨ l.gang = false → FaultsAt s (.join m) .illegal 0 0) ∧
           (h = s.cur.launch → n = 0 → l.gang = true → let r := s.task.rounds + 1
             let met := ∀ i < l.u, i = s.cur.index ∨ i ∈ l.counted ∨ (l.dead = true ∧ i ∉ l.placed) ∨ ∃ b ∈ l.barrier, b.1 = i ∧ r ≤ b.2
             (¬ met → exec (.join m) s = .next (registerArrival
               { comeUp s with cur := { (comeUp s).cur with status := .waiting .barrier } })) ∧
             (met → ∃ t, t = { (s.mapCtx s.cur.ctx fun c => c.mapLaunch h fun l =>
                 { l.register s.cur.index r with arrived := max l.arrived r }) with cur := { s.cur with barReg := false } } ∧
               exec (.join m) s = .next (issued t 88 m fun u =>
                 { u.putPort 67 (BitVec.ofNat 64 (if dl0 then l.completed + l.cancelled else r)) with rounds := r })))))) ∧
  ((∀ (s : State) (m : Mv), Calm s → Fires s m → s.cur.kind = .user → Alone s → s.cur.status ≠ .trapped →
     let v := moved s m
     (2 ^ 32 ≤ v.toNat → FaultsAt s (.cancel m) .illegal 0 0) ∧
     (v.toNat < 2 ^ 32 → match objectFinished (comeUp s) s.curCtx v.toNat with
       | none => FaultsAt s (.cancel m) .prot v 0
       | some fin => exec (.cancel m) s = .next (issued (cancelObject (comeUp s) s.cur.ctx v.toNat) 89 m fun t =>
           t.putPort 67 (if fin then 0 else 1)))) ∧
   (∀ (s : State) (cid h : Nat) (c : Ctx), s.ctx? cid = some c → objectFinished s c h = some true → cancelObject s cid h = s) ∧
   (∀ (s : State) (cid h : Nat) (c : Ctx) (l : Launch), s.ctx? cid = some c → c.launch? h = some l → l.done = false →
     l.dead = false → (s.units.map fun u => u.uid).Nodup →
     (∀ u ∈ s.units, u.ctx = cid → u.launch = h → u.status ≠ .trapped) →
       let t := cancelLaunch s cid h
       (∃ c', t.ctx? cid = some c' ∧
         c'.launch? h = some { l with dead := true, cancelled := l.cancelled + (l.u - l.placed.length) }) ∧
       t.units = s.units.map fun u => if u.ctx = cid ∧ u.launch = h ∧ u.kind = .user then { u with cancel := true } else u) ∧
   ∀ (s : State) (u : QUnit), s.unit? u.uid = some u →
     (terminable u = false → exec (.unitTerminate u.uid) s = .next s) ∧
     (terminable u = true → ∃ t, exec (.unitTerminate u.uid) s = .next t ∧ t.unit? u.uid = none ∧
       (u.kind = .user → ∀ c l, s.ctx? u.ctx = some c → c.launch? u.launch = some l → u.index ∉ l.counted →
         ∃ c' l', t.ctx? u.ctx = some c' ∧ c'.launch? u.launch = some l' ∧ l'.cancelled = l.cancelled + 1 ∧
           l'.completed = l.completed ∧ u.index ∈ l'.counted ∧ ∀ w ∈ s.mem.writes, w.uid = some u.uid → w.id ∈ l'.late)))

/-- The launch at the head of a context's requests is granted once every region it names allows it on every die of the context and
its energy fits the grant, or nothing is committed yet; the grant takes its regions, commits its energy and dates the launch. No
other launch is granted (R179, R264, R361). LAUNCH_GRANT completes so wherever the conditions of its clause hold. Confluence places
the first-ranked candidate for a core, none where there is none. A unit that is placed starts on its core at its descriptor's entry,
with the record in s1, the top of its backing store in s2, its arguments from s8 on, every other register 0 and the bytes that its
context left in its place in the core's scratchpad; what else was left there is gone. That the place is any set of free pages of 4
KiB, and that a context finds what it left page by page, is the model's choice (log 9) (R101, R149, R258, R266). UNIT_PLACEMENT
completes so wherever the conditions of its clause hold. -/
def Obligations.Placement : Prop :=
  (∀ (s : State) (c : Ctx) (l : Launch), s.ctx? c.id = some c → c.headRequest = some l → (c.launches.map fun x => x.h).Nodup →
     c.dies.Nodup →
     let free : Nat → Nat → Prop := fun d r => regionState s.mem d r = .free
     let allowed := (c.energy.committed = 0 ∨ c.energy.committed + l.u * l.est ≤ c.energy.grant) ∧ ∀ d ∈ c.dies, ∀ r < 96,
       (l.rset.getLsbD r = true → free d r ∨ ∃ n, regionState s.mem d r = .read n) ∧ (l.wset.getLsbD r = true → free d r)
     (∀ h, h ≠ l.h → exec (.launchGrant c.id h) s = .next s) ∧ (¬ allowed → exec (.launchGrant c.id l.h) s = .next s) ∧
     (allowed → l.rset &&& l.wset = 0 → ∃ t c', exec (.launchGrant c.id l.h) s = .next t ∧ t.cur = s.cur ∧ t.parked = s.parked ∧
       t.ctx? c.id = some c' ∧ c'.launch? l.h = some { l with granted := some s.gcyc } ∧
       c'.energy = { c.energy with committed := c.energy.committed + l.u * l.est } ∧
       (∀ x ∈ c.launches, x.h ≠ l.h → x ∈ c'.launches) ∧
       ∀ d r, r < 96 → regionState t.mem d r =
         if d ∈ c.dies ∧ l.wset.getLsbD r = true then .write
         else if d ∈ c.dies ∧ l.rset.getLsbD r = true then (match regionState s.mem d r with
           | .read n => .read (n + 1)
           | _ => .read 1)
         else regionState s.mem d r)) ∧
  ((∀ (s : State) (core : Nat), let s1 := compete s
     (candidates s1 core = [] → exec (.unitPlacement core) s = .next s1) ∧
     (candidates s1 core ≠ [] → (∀ c ∈ s.ctxs, 0 < c.share) → (s.ctxs.map fun c => c.id).Nodup →
       ∃ x ∈ candidates s1 core, (∀ y ∈ candidates s1 core, x.key.le y.key = true) ∧
         exec (.unitPlacement core) s = .next (compete (placeCand s1 x)))) ∧
   ∀ (s : State) (c : Ctx) (l : Launch) (d : Desc) (i core : Nat), s.ctx? c.id = some c → c.desc? l.kdesc = some d →
     l.args.length ≤ 8 →
     let t := placeUnit s c.id l i core
     ∃ u, t.parked = s.parked ++ [u] ∧ t.cur = s.cur ∧ t.on = s.on ∧ t.gcyc = s.gcyc ∧ u.uid = s.nextUid ∧ t.nextUid = s.nextUid + 1 ∧
       u.ctx = c.id ∧ u.launch = l.h ∧ u.index = i ∧ u.core = core ∧ u.kind = .user ∧ u.priv = .user ∧
       u.status = (if coreBusy s core then .out none else .ready) ∧ u.task.sq = { Task.reset.sq with pc := d.entry } ∧
       u.task.foot = l.foot ∧ u.task.fr.bsbase = l.foot.size - l.foot.spill ∧ u.task.fr.bslim = l.foot.size ∧
       u.task.fr.depth = 0 ∧ u.task.fr.links = [] ∧ u.task.preds = 0 ∧ u.task.vregs = [] ∧ u.task.masks = [] ∧
       u.task.tstat = { taint := false, gang := l.gang, prio := BitVec.ofNat 2 l.prio, wl := l.wl, dl := l.level } ∧
       (∀ k < 32, u.task.sreg k = if k = 1 then l.record else if k = 2 then BitVec.ofNat 64 (l.foot.size - l.foot.spill)
         else if 8 ≤ k then l.args.getD (k - 8) 0 else 0) ∧
       (∀ k < l.foot.size, sget u.task.lmem k = sget (residueOf s.mem core c.id) (placeOf u.pages k)) ∧
       (l.foot.size ≤ 4096 * (freePages s core).length → ∀ k < l.foot.size, placeOf u.pages k / 4096 ∈ freePages s core) ∧
       ∀ d e x, ((∃ k < l.foot.size, d = core ∧ placeOf u.pages k = x) → sget (residueOf t.mem d e) x = 0) ∧
         (¬ (∃ k < l.foot.size, d = core ∧ placeOf u.pages k = x) → sget (residueOf t.mem d e) x = sget (residueOf s.mem d e) x))

/-- Each 2^20 GCYC after its grant a launch with units to place rises one level, down to 0, behind the gangs whose reservations
stand, and a gang at level 0 reserves its dies; a request marks its unit; the unit leaves its core at a point, or where it waits and
another unit could issue, or between the LIWs of a unit of a CALLR, with its state captured, what is in flight in the Eddy at its τ,
what was fetched to be fetched again; a unit switched out resumes, queues bound again, on a healthy free core, its own or one that
its image may be restored on; the Eddy's entries whose τ has come go back first (R24, R267, R268, R275, R280 to R283, R285). Which
such core takes it is free (log 9). PRIORITY_AGING, GANG_RESERVATION, PREEMPTION_REQUEST, SWITCH_OUT, UNIT_RESUME and EDDY_WRITE
complete so wherever the conditions of its clause hold. -/
def Obligations.Scheduling : Prop :=
  (∀ (s : State) (c : Ctx) (l : Launch), s.ctx? c.id = some c → c.launch? l.h = some l →
    let aged : Nat → Prop := fun n => ∃ g, l.granted = some g ∧ n * 2 ^ 20 ≤ s.gcyc - g
    (∃ t c', exec (.priorityAging c.id l.h) s = .next t ∧ t.ctx? c.id = some c' ∧ t.mem = s.mem ∧ t.cur = s.cur ∧
      t.parked = s.parked ∧ ∃ l', c'.launch? l.h = some l' ∧ l'.placed = l.placed ∧
        (aged (l.boost + 1) → l.dead = false → l.placed.length < l.u → l'.effPrio = l.effPrio - 1 ∧
          (0 < l.effPrio → ∀ x ∈ s.ctxs, ∀ g ∈ x.launches, g.reserves = true → (x.id, g.h) ∈ l'.behind)) ∧
        (¬ aged (l.boost + 1) → l' = l)) ∧
    ∃ t c', exec (.gangReservation c.id l.h) s = .next t ∧ t.ctx? c.id = some c' ∧ t.mem = s.mem ∧ t.cur = s.cur ∧
      t.parked = s.parked ∧ ∃ l', c'.launch? l.h = some l' ∧
        (l.gang = true → l.dead = false → l.placed = [] → l.effPrio = 0 → aged 1 → l' = { l with reserve := true }) ∧
        (l.gang = false ∨ ¬ aged 1 → l' = l)) ∧
  (∀ (s : State) (n : Nat), ∃ t, exec (.preemptionRequest n) s = .next t ∧ t.mem = s.mem ∧ t.ctxs = s.ctxs ∧
    t.units = s.units.map fun u => if u.uid = n then { u with preempt := true } else u) ∧
  (∀ s : State, s.on = true → s.cur.isFirmware = false → s.task.loads = [] → s.cur.lag = 0 → endsDue s.task = false →
    let leaves : UnitStatus → Prop := fun st => ∃ t u, exec .switchOut s = .next t ∧ t.on = false ∧ t.parked = s.parked ++ [u] ∧
      t.mem = s.mem ∧ t.ctxs = s.ctxs ∧ t.gcyc = s.gcyc ∧ u.uid = s.cur.uid ∧ u.core = s.cur.core ∧ u.status = st ∧
      u.preempt = false ∧ u.task.fr = s.task.fr ∧ u.task.sq = s.task.sq ∧ u.task.preds = s.task.preds ∧
      u.task.vregs = s.task.vregs ∧ u.task.ports = s.task.ports ∧ u.task.lmem = (writeBackAll s.task).lmem ∧
      (u.task.cmds = s.task.cmds.map fun k => if k.up && k.fetched then { k with late := true, data := [] } else k) ∧
      u.task.pipe = [] ∧ ∀ p ∈ s.task.pipe, { ready := p.ready, val := .result p } ∈ u.task.eddy
    (s.cur.status = .ready → s.cur.preempt = true → s.cur.atPoint = true → leaves (.out none)) ∧
    (∀ n k i, s.cur.status = .waiting (.unit n k i) → s.cur.preempt = true → s.cur.atPoint = true →
      leaves (.out (some (.unit n k i)))) ∧
    ∀ w ∈ ([.join, .barrier, .qwait, .bwait] : List Wait), s.cur.status = .waiting w →
      (∃ x ∈ s.parked, x.core = s.cur.core ∧ x.uid ≠ s.cur.uid ∧ ∃ y, x.status = .out y) → leaves (.out (some w))) ∧
  (∀ s : State, switchPoint s = none → exec .switchOut s = .next s) ∧
  (∀ (s : State) (u : QUnit), u ∈ s.parked → (s.units.map fun x => x.uid).Nodup →
    let goesOn : UnitStatus → UnitStatus := fun st => match st with
      | .out (some (.unit n k i)) => .waiting (.unit n k i)
      | _ => .ready
    (resumeCores s u = [] → exec (.unitResume u.uid) s = .next s) ∧
    (resumeCores s u ≠ [] → ∃ k ∈ resumeCores s u, ∃ t v, exec (.unitResume u.uid) s = .next t ∧ t.ctxs = s.ctxs ∧ t.gcyc = s.gcyc ∧
      t.unit? u.uid = some v ∧ v.core = k ∧ v.status = goesOn u.status ∧ v.task = rebindAll u.task ∧
      (k = u.core → t.mem = s.mem ∧ t.units = s.units.map fun x =>
        if x.uid = u.uid then { x with status := goesOn x.status, task := rebindAll x.task } else x)) ∧
    (∀ k ∈ resumeCores s u, (∃ w, u.status = .out w) ∧ u.cancel = false ∧ coreHealthy s k = true ∧ coreBusy s k = false) ∧
    (∀ w, u.status = .out w → u.cancel = false → coreHealthy s u.core = true → coreBusy s u.core = false → u.core ∈ resumeCores s u)) ∧
  ∀ s : State, s.on = true → ∃ t, exec .eddyWrite s = .next t ∧ t.mem = s.mem ∧ t.ctxs = s.ctxs ∧ t.parked = s.parked ∧
    t.task.fr = s.task.fr ∧ t.task.sq = s.task.sq ∧
    t.task.eddy = s.task.eddy.filter (fun e => s.task.sq.tau + 1 < e.ready) ∧
    (∀ p, p ∈ t.task.pipe ↔ p ∈ s.task.pipe ∨ ∃ e ∈ s.task.eddy, e.ready ≤ s.task.sq.tau + 1 ∧ e.val = .result p) ∧
    ∀ n v, (n, v) ∈ t.task.fmtPend ↔ (n, v) ∈ s.task.fmtPend ∨ ∃ e ∈ s.task.eddy, e.ready ≤ s.task.sq.tau + 1 ∧ e.ready = n ∧ e.val = .fmt v

/-- A packet at the head of a context's ring is taken into work by the step of its TYPE and no other: one of an unknown TYPE or with
a reserved byte that is not 0 is done with ILLEGAL; DETLEVEL sets the context's level; CANCEL cancels its object; PHASE creates a
phase, and its job for 0; PHASE_END fixes what the phase, and where it says so its job, issues and is done when the phase is
finished; SIGNAL waits for its turn; GRAPH needs a phase, and one of 0 or more than 4096 launches is ILLEGAL; LOAD hands its object
to the Stitcher. That PHASE_END is done only when its phase is finished, and 0x17 for a misaligned GRAPH record, are log 37's
readings (R114, R254, R260, R261, R265, R272, R344). GRAPH, DETLEVEL, CANCEL_PACKET, PHASE, PHASE_END, SIGNAL and LOAD complete so
wherever the conditions of its clause hold. A signal whose earlier packets' work is finished stores its value at SYS scope; a packet
whose work is finished leaves with its completion word written: STATUS, TAINT and handle (R259, R260). SIGNAL and PACKET_COMPLETION
complete so wherever the conditions of its clause hold. -/
def Obligations.Packets : Prop :=
  (∀ (s : State) (c : Ctx) (bs : List Byte), s.ctx? c.id = some c → headPacket s c = some bs →
     let f := byteField bs
     let does : Instr → State → PacketWork → Prop := fun i u w => exec i s = .next (u.mapCtx c.id fun c =>
       { c with rings := { c.rings with cqHead := (c.rings.cqHead + 1) % c.rings.cqSize },
                packets := c.packets ++ [{ cpl := BitVec.ofNat 64 (f 8 8), work := w }] })
     let steps : List (Nat × Instr) := [(1, .graph c.id), (2, .detlevel c.id), (3, .cancelPacket c.id), (4, .phase c.id),
       (5, .phaseEnd c.id), (6, .signal c.id), (7, .load c.id)]
     let h := f 16 4
     (∀ x ∈ steps, readySignal s c = none →
       (1 ≤ f 0 2 ∧ f 0 2 ≤ 7 → f 0 2 ≠ x.1 → exec x.2 s = .next s) ∧
       (f 0 2 = x.1 → f 2 6 ≠ 0 → does x.2 s (.done 0x10 0))) ∧
     (f 0 2 = 0 ∨ 7 < f 0 2 → does (.graph c.id) s (.done 0x10 0)) ∧
     (f 2 6 = 0 →
       handleStatus c c.phases 2 0 false = some 0x10 ∧
       (f 0 2 = 1 → (∀ st, handleStatus c c.phases 2 (f 24 4) false = some st → does (.graph c.id) s (.done st 0)) ∧
         (handleStatus c c.phases 2 (f 24 4) false = none →
           (∀ st, handleStatus c c.phases 2 (f 28 4) true = some st → does (.graph c.id) s (.done st 0)) ∧
           (handleStatus c c.phases 2 (f 28 4) true = none →
             (∀ e, ctxRead s c (f 16 8) 8 = .error e → does (.graph c.id) s (.done e.num 0)) ∧
             ∀ hd, ctxRead s c (f 16 8) 8 = .ok hd → let n := leNat hd
               (n = 0 ∨ 4096 < n → does (.graph c.id) s (.done 0x10 0)) ∧
               (1 ≤ n → n ≤ 4096 →
                 (∀ st, graphEntries s c (f 16 8) n = .error st → does (.graph c.id) s (.done st 0)) ∧
                 ∀ es, graphEntries s c (f 16 8) n = .ok es →
                   let g := createGraph c (f 24 4) (f 28 4) s.gcyc
                   let r := admitEntries s g.2 es [] g.1
                   does (.graph c.id) ((s.mapCtx c.id fun _ => closeGraph r.1 g.2).settle c.id) (match r.2 with
                     | some st => .done st 0
                     | none => .object g.2))))) ∧
       (f 0 2 = 2 → (f 16 1 ≤ 2 → does (.detlevel c.id) (s.mapCtx c.id fun c => { c with level := levelOf (f 16 1) }) (.done 0 0)) ∧
         (2 < f 16 1 → does (.detlevel c.id) s (.done 0x10 0))) ∧
       (f 0 2 = 3 → (objectFinished s c h = none → does (.cancelPacket c.id) s (.done 0x19 0)) ∧
         (objectFinished s c h ≠ none → does (.cancelPacket c.id) (cancelObject s c.id h) (.done 0 h))) ∧
       (f 0 2 = 4 → h = 0 → ∃ c', let ph := mkHandle 2 (c.serials.2.2.1 + 1)
         let jh := mkHandle 3 (c.serials.2.2.2 + 1)
         does (.phase c.id) (s.mapCtx c.id fun _ => c') (.done 0 ph) ∧
         c'.phases = c.phases ++ [newGroup ph jh 0 none (BitVec.ofNat 64 (f 20 8)) (BitVec.ofNat 64 (f 28 8)) s.gcyc] ∧
         ((∀ g ∈ c.jobs, g.h ≠ jh) → c'.jobs = c.jobs ++ [{ newGroup jh 0 0 none 0 0 s.gcyc with members := [ph] }]) ∧
         c'.launches = c.launches ∧ c'.graphs = c.graphs ∧
         c'.serials = (c.serials.1, c.serials.2.1, c.serials.2.2.1 + 1, c.serials.2.2.2 + 1)) ∧
       (f 0 2 = 4 → h ≠ 0 → (∀ st, handleStatus c c.jobs 3 h true = some st → does (.phase c.id) s (.done st 0)) ∧
         (handleStatus c c.jobs 3 h true = none → ∀ j, group? c.jobs h = some j →
           (j.issued.isSome = true → does (.phase c.id) s (.done 0x10 0)) ∧
           (j.issued = none → ∃ c', let ph := mkHandle 2 (c.serials.2.2.1 + 1)
             does (.phase c.id) (s.mapCtx c.id fun _ => c') (.done 0 ph) ∧
             c'.phases = c.phases ++ [newGroup ph h 0 none (BitVec.ofNat 64 (f 20 8)) (BitVec.ofNat 64 (f 28 8)) s.gcyc] ∧
             c'.jobs = (c.jobs.map fun g => if g.h = h then { g with members := g.members ++ [ph] } else g) ∧
             c'.serials = (c.serials.1, c.serials.2.1, c.serials.2.2.1 + 1, c.serials.2.2.2)))) ∧
       (f 0 2 = 5 → (1 < f 20 1 ∨ f 21 3 ≠ 0 → does (.phaseEnd c.id) s (.done 0x10 0)) ∧
         (f 20 1 ≤ 1 → f 21 3 = 0 → (∀ st, handleStatus c c.phases 2 h false = some st → does (.phaseEnd c.id) s (.done st 0)) ∧
           (handleStatus c c.phases 2 h false = none → ∀ p, group? c.phases h = some p →
             let close : Group → Group := fun g => { g with issued := some (g.issued.getD g.members.length) }
             does (.phaseEnd c.id) ((s.mapCtx c.id fun c =>
               { c with phases := c.phases.map fun g => if g.h = h then close g else g,
                        jobs := if f 20 1 = 1 then c.jobs.map fun g => if g.h = p.parent then close g else g else c.jobs }).settle c.id)
               (.object h)))) ∧
       (f 0 2 = 6 → readySignal s c = none →
         does (.signal c.id) s (.signal (BitVec.ofNat 64 (f 16 8)) (BitVec.ofNat 64 (f 24 8)))) ∧
       (f 0 2 = 7 → does (.load c.id) (loadObject s c (f 16 8)).1 (loadObject s c (f 16 8)).2))) ∧
  ((∀ (s : State) (c : Ctx) (i : Nat) (cpl a v : Word), s.ctx? c.id = some c → readySignal s c = some i →
     c.packets[i]? = some { cpl := cpl, work := .signal a v } → ∃ t c', exec (.signal c.id) s = .next t ∧ t.cur = s.cur ∧
       t.parked = s.parked ∧ t.ctx? c.id = some c' ∧
       (∀ j, j ≠ i → c'.packets[j]? = c.packets[j]?) ∧ (∃ st, c'.packets[i]? = some { cpl := cpl, work := .done st 0 } ∧
         (∀ f, ctxRanges s c a.toNat 8 .write = .error f → st = f.num ∧ t.mem = s.mem) ∧
         ∀ rs, ctxRanges s c a.toNat 8 .write = .ok rs → st = 0 ∧
           t.mem = agentWrite s.health (agentWalked s c [(a.toNat, 8)]) c.id (placeRanges rs (natLe 8 v.toNat)))) ∧
   ∀ (s : State) (c : Ctx) (i : Nat) (p : Packet), (s.settle c.id).ctx? c.id = some c → c.packets[i]? = some p →
     (packetReady s c p = false → exec (.packetCompletion c.id i) s = .next s) ∧
     (packetReady s c p = true → ∃ t c', exec (.packetCompletion c.id i) s = .next t ∧ t.cur = s.cur ∧ t.parked = s.parked ∧
       t.ctx? c.id = some c' ∧ c'.packets = c.packets.eraseIdx i ∧
       (p.cpl = 0 → t.mem = s.mem) ∧
       (p.cpl ≠ 0 → ∀ rs, ctxRanges (s.settle c.id) c p.cpl.toNat 8 .write = .ok rs →
         t.mem = agentWrite s.health (agentWalked s c [(p.cpl.toNat, 8)]) c.id (placeRanges rs (natLe 8 (completionWord c p.work)))) ∧
       (∀ st h, p.work = .done st h → completionWord c p.work = st + h * 2 ^ 32) ∧
       ∀ h, p.work = .object h → completionWord c p.work =
         objectStatus c h + (if objectTaint c h then 256 else 0) + h * 2 ^ 32))

/-- Publication makes a linked module's entries live at one instant and finishes its LOAD; an unload request marks a live module,
and it is removed once no task of its context refers to its code; a substitution table is installed as a whole with its version, and
one that fails a condition of R315 leaves the installed one in force (R114, R115, R315). MODULE_PUBLICATION, MODULE_UNLOAD_REQUEST,
MODULE_REMOVE and SUBST_TABLE_INSTALL complete so wherever the conditions of its clause hold. -/
def Obligations.Modules : Prop :=
  (∀ (s : State) (c : Ctx) (m : Nat), s.ctx? c.id = some c →
    (∃ t c', exec (.modulePublication c.id m) s = .next t ∧ t.ctx? c.id = some c' ∧ t.cur = s.cur ∧ t.mem = s.mem ∧
      (∀ x ∈ c.modules, x.id = m → { x with live := true } ∈ c'.modules) ∧ (∀ x ∈ c.modules, x.id ≠ m → x ∈ c'.modules) ∧
      (∀ p ∈ c.packets, p.work = .loading m → { p with work := .done 0 0 } ∈ c'.packets) ∧
      ∀ p ∈ c.packets, p.work ≠ .loading m → p ∈ c'.packets) ∧
    (∃ t c', exec (.moduleUnloadRequest c.id m) s = .next t ∧ t.ctx? c.id = some c' ∧ t.cur = s.cur ∧ t.mem = s.mem ∧
      (∀ x ∈ c.modules, x.id = m → x.live = true → { x with unload := true } ∈ c'.modules) ∧
      ∀ x ∈ c.modules, x.id ≠ m ∨ x.live = false → x ∈ c'.modules) ∧
    ∀ x, c.modules.find? (fun x => x.id = m) = some x →
      (x.unload = false ∨ referenced s c.id x = true → exec (.moduleRemove c.id m) s = .next s) ∧
      (x.unload = true → referenced s c.id x = false → ∃ t c', exec (.moduleRemove c.id m) s = .next t ∧
        t.ctx? c.id = some c' ∧ t.cur = s.cur ∧ t.mem = s.mem ∧ ∀ y, y ∈ c'.modules ↔ y ∈ c.modules ∧ y.id ≠ m)) ∧
  ∀ (s : State) (bs : List Byte),
    (∃ es : List SubstEntry, es.length = byteField bs 12 4 ∧ exec (.substTableInstall bs) s = .next
      (if tableOk s.board.table.1 bs = true then { s with board := { s.board with table := (byteField bs 8 4, es) } } else s)) ∧
    (tableOk s.board.table.1 bs = true → s.board.table.1 < byteField bs 8 4 ∧ byteField bs 12 4 ≤ 4096 ∧
      bs.take 4 = [0x42, 0x53, 0x54, 0x31] ∧ byteField bs 4 2 = 1 ∧ byteField bs 6 2 = 0x0009 ∧ byteField bs 24 40 = 0 ∧
      Config.signatureOk (bs.take (64 + 64 * byteField bs 12 4)) (bs.drop (64 + 64 * byteField bs 12 4)) = true)

/-- CXC and CBCAST of a lone cluster: each lane takes the operand lane its selector names, or lane l of the named cluster, and 0
from a cluster outside the LIW; the result is readable four τ later with the lanes of the mask register marked written. An illegal
control word delivers nothing and sets NV (R120, R121, R141, R142, R144, R375). BSEND, BFETCH, BRED, BGRAD and BSUB read their
command block and check it in the order of R331; a command that passes is enqueued with its "at" τ as its start, a LOCAL source read
at once where it starts at once, and a BRED is numbered with its round at its trigger (log 34) (R23, R329 to R332, R339). BEXP sets
an entry that no unit of the core holds, for a source and tag no unit of its context watches; raises the expected count of its own
entry for the same pair; drops its own entry; and answers 1, or 0 and changes nothing. BWAIT answers 0 once no entry it names is
short, and waits until its deadline, after which it answers the short ones, with TAINT at DL1 and DL2 (R334, R336, R337). -/
def Obligations.BraidCommands : Prop :=
  (∀ (s : State) (c : BitVec 3) (m : Mv), Calm s → FiresB s c m →
     let port : Nat → Nat → Lane := fun o l => sget s.task.ports.b (16 * (128 * c.toNat + o) + l)
     let w := port 111 0
     let x := carried s m
     let dst : Nat → BitVec 10 := fun o => BitVec.ofNat 10 (128 * c.toNat + o)
     let gives : Instr → Nat → (Nat → Lane) → Prop := fun i o f => ∃ p : Pipe,
       exec i s = .next (issuedB s (dst o) m fun t => t.flying [p]) ∧ p.ready = s.task.sq.tau + 4 ∧
       p.dest = .latchB (128 * c.toNat + 112) ∧ p.flags = Flags.none ∧ p.lanes.length = 16 ∧
       ∀ l < 16, p.mask.getLsbD l = activeLane s (w.extractLsb' 3 3) (16 * c.toNat + l) ∧ p.lanes[l]? = some (f l)
     let legal := w.extractLsb' 6 26 = 0 ∧ w.extractLsb' 0 3 = 0
     (legal → gives (.cxc c m) 113 (fun l => let q := (x.getD l 0).toNat % 128
         if q / 16 = c.toNat then port 109 (q % 16) else 0) ∧
       gives (.cbcast c m) 114 fun l => if (x.getD 0 0).toNat % 8 = c.toNat then port 109 l else 0) ∧
     (¬ legal → let refused : Nat → State := fun o => issuedB s (dst o) m fun t => t.addFlags ⟨true, false, false, false⟩
       exec (.cxc c m) s = .next (refused 113) ∧ exec (.cbcast c m) s = .next (refused 114))) ∧
  (∀ (s : State) (m : Mv), Calm s → Fires s m →
     ∀ x ∈ ([(0, .bsend m, 99), (1, .bfetch m, 100), (2, .bred m, 101), (3, .bgrad m, 104), (4, .bsub m, 105)] :
       List (Nat × Instr × BitVec 10)),
     let v := moved s m
     let c := s.curCtx
     let at' : Nat → Nat → Nat := fun o n => readLe s.task.lmem (v.toNat + o) n
     let b := readBlock s.task.lmem x.1 v.toNat
     let la := b.la.toNat
     let bad := at' 54 10 ≠ 0 ∨ b.zeros = false ∨ b.countOk c = false ∨ b.cpl.toNat % 8 ≠ 0
     let rs := if b.bytes = 0 then [] else [(la, b.bytes)]
     let mem := if b.dev then engineRanges s .device (if x.1 = 1 then .write else .read) rs else .ok []
     let cpl := if b.cpl = 0 then .ok [] else engineRanges s .device .write [(b.cpl.toNat, 8)]
     let faults : FaultCode → Word → Prop := fun f tv => FaultsAt s x.2.1 f tv 0
     (2 ^ 21 ≤ v.toNat → faults .illegal 0) ∧
     (v.toNat < 2 ^ 21 → (∀ f, localFault s.task v 64 64 = some f → faults f.1 f.2) ∧
       (localFault s.task v 64 64 = none → (bad → faults .illegal 0) ∧
         (¬ bad → (la % b.align ≠ 0 ∨ (b.dev = false ∧ b.bytes ≠ 0 ∧ 0x200000 < la + b.bytes) → faults .alignCopy b.la) ∧
           (la % b.align = 0 → (b.dev = false → b.bytes ≠ 0 → la + b.bytes ≤ 0x200000) →
             (b.dev = false ∧ b.bytes ≠ 0 ∧ s.task.f < la + b.bytes → faults .prot b.la) ∧
             ((b.dev = false → b.bytes ≠ 0 → la + b.bytes ≤ s.task.f) →
               (∀ f, engineFault mem cpl b.la b.cpl = some f → faults f.1 f.2) ∧
               (engineFault mem cpl b.la b.cpl = none → (∀ n, b.fabricFault s c = some n → faults .fabric (BitVec.ofNat 64 n)) ∧
                 (b.fabricFault s c = none → (x.1 = 1 ∧ b.dev = false ∧ hitsControl s.task la b.n = true → faults .queue 0) ∧
                   (¬ (x.1 = 1 ∧ b.dev = false ∧ hitsControl s.task la b.n = true) →
                     let at0 := (BitVec.ofNat 64 (at' 0 8)).toNat
                     let start := if s.task.sq.tau < at0 then at0 else s.task.sq.tau
                     let r := (c.rounds.find? fun r => r.1 = b.rank && r.2.1 = b.tag.toNat).elim 1 fun r => r.2.2 + 1
                     let next : List (Nat × Nat × Nat) → List (Nat × Nat × Nat) := fun l =>
                       (b.rank, b.tag.toNat, r) :: l.filter fun r => !(r.1 = b.rank && r.2.1 = b.tag.toNat)
                     let t : State := if x.1 = 2 then s.mapCtx c.id fun y => { y with rounds := next y.rounds } else s
                     ∃ k : Cmd, k.id = s.task.nextCmd ∧ k.late = false ∧ k.kind = .braid (if x.1 = 2 then { b with round := r } else b) ∧
                       k.start = start ∧ k.due = start ∧ k.up = false ∧ k.gt = none ∧ k.src = mem.toOption.getD [] ∧
                       (start = s.task.sq.tau → b.dev = false → x.1 ∈ [0, 2, 3] → k.data = readBytes s.task.lmem la b.bytes) ∧
                       exec x.2.1 s = .next (issued t x.2.2 m fun u => u.enqueue k)))))))))) ∧
  (∀ (s : State) (m : Mv), Calm s → Fires s m →
     let v := moved s m
     let p := s.port 64
     let src := p.extractLsb' 0 32
     let tag := p.extractLsb' 32 16
     let count := v.extractLsb' 0 32
     let e := (v.extractLsb' 32 6).toNat
     let mine := s.task.arrivals
     let unused := (∀ u ∈ s.units, u.core = s.cur.core → ∀ x ∈ u.task.arrivals, x.e ≠ e) ∧
       ∀ u ∈ s.units, u.ctx = s.cur.ctx → ∀ x ∈ u.task.arrivals, ¬ (x.src = src ∧ x.tag = tag)
     let gives : (Task → Task) → Word → Prop := fun f y => exec (.bexp m) s = .next (issued s 102 m fun t => (f t).putPort 67 y)
     (2 ^ 48 ≤ p.toNat ∨ 16384 ≤ src.toNat ∨ 2 ^ 39 ≤ v.toNat → FaultsAt s (.bexp m) .illegal 0 0) ∧
     (p.toNat < 2 ^ 48 → src.toNat < 16384 → v.toNat < 2 ^ 39 →
       (v.getLsbD 38 = true → ((∃ x ∈ mine, x.e = e) → gives (fun t => { t with arrivals := mine.filter fun x => x.e ≠ e }) 1) ∧
         ((∀ x ∈ mine, x.e ≠ e) → gives id 0)) ∧
       (v.getLsbD 38 = false → (unused → gives (fun t => { t with arrivals := mine ++ [⟨e, src, tag, count, 0⟩] }) 1) ∧
         (¬ unused → (∀ x, mine.find? (fun x => x.e = e) = some x →
             (x.src = src → x.tag = tag → x.exp.toNat + count.toNat < 2 ^ 32 →
               let raised := mine.map fun y => if y.e = e then { y with exp := y.exp + count } else y
               gives (fun t => { t with arrivals := raised }) 1) ∧
             (¬ (x.src = src ∧ x.tag = tag) ∨ 2 ^ 32 ≤ x.exp.toNat + count.toNat → gives id 0)) ∧
           ((∀ x ∈ mine, x.e ≠ e) → gives id 0)))) ∧
     let short : Arrival → Prop := fun x => v.getLsbD x.e = true ∧ x.arr.toNat < x.exp.toNat
     let now := max s.gcyc s.cur.nextG
     let late := p ≠ 0 ∧ s.cur.since.getD now + p.toNat ≤ now
     ((∀ x ∈ mine, ¬ short x) → exec (.bwait m) s = .next (issued s 103 m fun t => t.putPort 67 0)) ∧
     ((∃ x ∈ mine, short x) → (mine.map fun x => x.e).Nodup → (∀ x ∈ mine, x.e < 64) →
       (¬ late → exec (.bwait m) s = .next (held (comeUp s) .bwait)) ∧
       (late → ∃ y : Word, (∀ i < 64, y.getLsbD i = true ↔ ∃ x ∈ mine, x.e = i ∧ short x) ∧
         exec (.bwait m) s = .next (issued s 103 m fun t =>
           (if s.task.tstat.dl = .dl0 then t else t.setTaint).putPort 67 y))))

/-- At its start a BSEND, BRED or BGRAD takes its snapshot and leaves its unit, a BFETCH into LOCAL stays pending under its number;
the message goes to its destination, its shard's promoted mirror, or its sender hears UNREACH where none is left (log 36), and is
kept until it has a status; a put waits for the unit's earlier puts to its window; what follows a command to be resent goes with it.
A status writes the completion word, STATUS with NV and OF, and ends the keeping; an OK subscription is known to its context (R332,
R333, R342, R344, R346). One message is one flit's (log 22); the receiver's context has the sender's number (log 35). BRAID_SNAPSHOT
and BRAID_STATUS complete so wherever the conditions of its clause hold. A put into a region window is written at base + DOFF, and
once its bytes are applied it is counted in the entry of its source and tag and its sender hears OK; without an entry it is refused
and comes again 4,096 GCYC later; one beyond the window, or for no window, or on a page that refuses it is told 5, 6 or 10. A
BFETCH's bytes are read so, sent back, and land under the same entry rule (R328, R332, R333, R335, R338). PUT_APPLY, ARRIVAL_RETRY,
BFETCH_SERVE and BFETCH_LANDING complete so wherever the conditions of its clause hold. A port trains to the highest version both
ends support, or is down with an alert, and what waited for a route that carries it leaves (log 28); a flit whose CRC fails or that
has been received already is dropped, the next one of its source is delivered, but for a STEP notice of a failed package (log 36),
an early one is held; an idle port sends a keepalive (log 51); a package that has delivered no flit for 2^24 GCYC is declared
failed, once; then a shard goes to its live mirror, and a command that cannot reach the package is told UNREACH (log 36) (R326,
R327, R342, R346, R368). BRAID_LINK_TRAIN, FLIT_RECEIVE, KEEPALIVE, PACKAGE_FAILURE and FAILURE_NOTICE complete so wherever the
conditions of its clause hold. -/
def Obligations.FabricTransfers : Prop :=
  ((∀ (s : State) (c : Cmd) (b : Block) (x : Ctx), s.on = true → c ∈ s.task.cmds → (s.task.cmds.map fun k => k.id).Nodup →
     c.kind = .braid b → c.up = false → c.gt = none → c.start ≤ s.task.sq.tau → s.ctx? s.cur.ctx = some x → b.kind < 4 →
     (b.kind ≠ 1 → sourceBlocked s c = false) →
     let o : Origin := { rank := x.tab.rank, ctx := s.cur.ctx, task := s.cur.uid, id := x.nextMsg, cpl := b.cpl }
     let raw := blockMsg x o s.cur.uid b (if c.data ≠ [] then c.data else if b.kind = 1 then []
       else if b.dev then s.deviceBytes c.src else readBytes s.task.lmem b.la.toNat b.bytes)
     let lost := s.lost x.tab (msgTarget raw) = true
     let msg := if lost then retarget (s.knowing x) raw else raw
     let same : Cmd → Prop := fun k => k.id < c.id ∧ k.putsTo b.rank b.win = true
     let behind := b.kind = 0 ∧ ((∃ k ∈ s.task.cmds, same k) ∨ (∃ y ∈ s.fabric.owed, y.1.uid = s.cur.uid ∧ same y.2) ∨
       ∃ y ∈ s.fabric.behind, y.1 = s.cur.uid ∧ y.2.1 < c.id ∧ msgPutsTo b.rank b.win y.2.2.2 = true)
     ∃ u t : State, exec (.braidSnapshot c.id) s = .next t ∧ u.fabric = s.fabric ∧
       u.mem = (if b.kind = 1 then s.mem else s.fetched c.src) ∧ u.parked = s.parked ∧
       u.task.fr = s.task.fr ∧ u.task.sq = s.task.sq ∧ u.task.lmem = s.task.lmem ∧
       (∃ x', u.ctx? s.cur.ctx = some x' ∧ x'.resend = (if behind then x.resend else x.resend ++ [msg]) ∧ x'.nextMsg = x.nextMsg + 1 ∧
         x'.braid = x.braid) ∧
       u.task.cmds = (if b.kind = 1 ∧ b.dev = false then s.task.cmds.map fun k =>
           if k.id = c.id then { k with up := true, kind := .bfetch o.id b.la.toNat b.n } else k
         else s.task.cmds.filter fun k => k.id ≠ c.id) ∧
       if behind then t = { u with fabric := { s.fabric with behind := s.fabric.behind ++ [(s.cur.uid, c.id, o, raw)] } }
       else if (needs msg).any (s.lost x.tab) = true then Tells u t x.tab o 8
       else if lost ∧ ∃ k ∈ x.resend, (needs k).any (s.lost x.tab) = true then t = u
       else Sends u t o.ctx x.tab (msgTarget msg) msg) ∧
   (∀ s : State, s.fabric.owed = [] → (∀ y ∈ s.fabric.behind, putHeld s y.1 y.2.1 y.2.2.2 = true) → fabricOwn s = none) ∧
   ∀ (s : State) (i : Nat) (o : Origin) (code again : Nat) (nv ovf : Bool) (bg : Option (List Nat × Bool)) (x : Ctx) (cmd : Msg),
     s.msg? i = some { msg := .status o code nv ovf, again := again, begun := bg } → s.ctx? o.ctx = some x →
     x.resend.find? (msgIsOf o) = some cmd → (∀ o' d w a n g l p u, cmd ≠ .fetch o' d w a n g l p u) →
     let word := code + (if nv then 256 else 0) + if ovf then 512 else 0
     ∃ t x', exec (.braidStatus i) s = .next t ∧ t.cur = s.cur ∧ t.parked = s.parked ∧ t.fabric = (s.takeMsg i).fabric ∧
       t.ctx? o.ctx = some x' ∧ x'.resend = x.resend.filter (fun m => !msgIsOf o m) ∧
       (∀ o' d n a w f q g t' r, cmd = .subscribe o' d n a w f q g t' r → code = 1 → x'.subs = x.subs ++ [(a, w, q)]) ∧
       (o.cpl = 0 → t.mem = s.mem) ∧
       (o.cpl ≠ 0 → ∀ rs, ctxRanges s x o.cpl.toNat 8 .write = .ok rs →
         t.mem = agentWrite s.health (agentWalked s x [(o.cpl.toNat, 8)]) x.id (placeRanges rs (natLe 8 word)))) ∧
  ((∀ (s : State) (i : Nat) (o : Origin) (dst win again : Nat) (doff : Word) (tag : BitVec 16) (bytes : List Byte)
     (bg : Option (List Nat × Bool)) (c : Ctx),
     s.msg? i = some { msg := .put o dst win doff tag bytes, again := again, begun := bg } → s.ctx? o.ctx = some c →
     (∀ core j, c.window? win ≠ some (.queue core j)) →
     let due := again = 0 ∨ again ≤ s.gcyc
     let step : Instr := if again = 0 then .putApply i else .arrivalRetry i
     let told : Nat → Prop := fun st => ∃ t, exec step s = .next t ∧ Tells (s.takeMsg i) t c.tab o st
     (¬ due → exec (.putApply i) s = .next s ∧ exec (.arrivalRetry i) s = .next s) ∧
     (due → bg = none → (c.window? win = none → told 6) ∧
       ∀ base size, c.window? win = some (.region base size) → (size < doff.toNat + bytes.length → told 5) ∧
         (doff.toNat + bytes.length ≤ size →
           (∀ f, ctxRanges s c (base.toNat + doff.toNat) bytes.length .write = .error f → told 10) ∧
           ∀ rs, ctxRanges s c (base.toNat + doff.toNat) bytes.length .write = .ok rs →
             (hasEntry s c.id o.rank tag = false → exec step s = .next (s.refuseMsg i)) ∧
             (hasEntry s c.id o.rank tag = true →
                let p := agentStore s.health (agentWalked s c [(base.toNat + doff.toNat, bytes.length)]) c.id [] (placeRanges rs bytes)
               exec step s = .next ({ s with mem := p.1 }.beginMsg i p.2 true)))) ∧
     (due → ∀ ids, bg = some (ids, true) →
       ((∃ w ∈ s.mem.writes, w.id ∈ ids) → exec step s = .next s) ∧
       ((∀ w ∈ s.mem.writes, w.id ∉ ids) → ∃ t, exec step s = .next t ∧
         Tells ((countArrival s o.ctx o.rank tag).takeMsg i) t c.tab o 1))) ∧
   (∀ (s : State) (i : Nat) (o : Origin) (dst win n unit again : Nat) (doff la : Word) (tag : BitVec 16) (toLocal : Bool)
     (bg : Option (List Nat × Bool)) (c : Ctx),
     s.msg? i = some { msg := .fetch o dst win doff n tag toLocal la unit, again := again, begun := bg } → s.ctx? o.ctx = some c →
     let told : Nat → Prop := fun st => ∃ t, exec (.bfetchServe i) s = .next t ∧ Tells (s.takeMsg i) t c.tab o st
     ((∀ base size, c.window? win ≠ some (.region base size)) → told 6) ∧
     ∀ base size, c.window? win = some (.region base size) → (size < doff.toNat + n → told 5) ∧
       (doff.toNat + n ≤ size → (∀ f, ctxRanges s c (base.toNat + doff.toNat) n .read = .error f → told 10) ∧
         ∀ rs, ctxRanges s c (base.toNat + doff.toNat) n .read = .ok rs → ∃ t m, exec (.bfetchServe i) s = .next t ∧ SameBytes s.mem m ∧
           Sends { s.takeMsg i with mem := m } t o.ctx c.tab o.rank (.fetched o dst tag toLocal la unit (homeRanges s.mem rs)))) ∧
   ∀ (s : State) (i : Nat) (o : Origin) (src : Nat) (tag : BitVec 16) (toLocal : Bool) (la : Word) (unit : Nat) (bytes : List Byte)
     (bg : Option (List Nat × Bool)) (c : Ctx),
     s.msg? i = some { msg := .fetched o src tag toLocal la unit bytes, again := 0, begun := bg } → s.ctx? o.ctx = some c →
     let refused := hasEntry s o.ctx src tag = false → exec (.bfetchLanding i) s = .next (s.refuseMsg i)
     (toLocal = true → bg = none → ∀ k, s.on = true → s.cur.uid = unit → s.cur.active = true → s.cur.fetching o.id = some k →
       refused ∧ (hasEntry s o.ctx src tag = true → ∃ t, exec (.bfetchLanding i) s = .next t ∧
         t.task.lmem = writeBytes s.task.lmem la.toNat bytes ∧ t.task.cmds = s.task.cmds.filter (fun x => x.id ≠ k.id) ∧
         t.task.fr = s.task.fr ∧ t.task.sq = s.task.sq ∧ t.fabric = (s.takeMsg i).fabric ∧
         (s.cur.ctx = o.ctx → t.task.arrivals = s.task.arrivals.map fun a =>
           if a.src.toNat = src && a.tag = tag then { a with arr := a.arr + 1 } else a))) ∧
     (toLocal = false → bg = none → refused ∧ (hasEntry s o.ctx src tag = true →
       ∀ rs, ctxRanges s c la.toNat bytes.length .write = .ok rs →
          let p := agentStore s.health (agentWalked s c [(la.toNat, bytes.length)]) c.id [] (placeRanges rs bytes)
         exec (.bfetchLanding i) s = .next ({ s with mem := p.1 }.beginMsg i p.2 true))) ∧
     ∀ ids k, bg = some (ids, k) → ((∃ w ∈ s.mem.writes, w.id ∈ ids) → exec (.bfetchLanding i) s = .next s) ∧
       ((∀ w ∈ s.mem.writes, w.id ∉ ids) →
         exec (.bfetchLanding i) s = .next (finishCommand (countArrival (s.takeMsg i) o.ctx src tag) o 1))) ∧
  ((∀ (s : State) (port peer : Nat), (16 ≤ port → exec (.braidLinkTrain port peer) s = .next s) ∧
     (port < 16 → ∃ t, exec (.braidLinkTrain port peer) s = .next t ∧ t.cur = s.cur ∧ (peer = 0 → ∃ w, .alert w ∈ t.board.reports) ∧
       (∀ p v, (p, v) ∈ t.fabric.ports ↔ (p ≠ port ∧ (p, v) ∈ s.fabric.ports) ∨ (p = port ∧ 0 < peer ∧ v = min 3 peer)) ∧
       (0 < peer → t.mem = s.mem) ∧
       (s.fabric.stuck = [] → t.fabric.outbox = s.fabric.outbox ∧ t.fabric.inbox = s.fabric.inbox ∧ (0 < peer → t.ctxs = s.ctxs)) ∧
       ∀ cid dst m c, 0 < peer → s.fabric.stuck = [(cid, dst, m)] → s.ctx? cid = some c →
         Sends { s with fabric := { s.fabric with ports := t.fabric.ports, stuck := [] } } t cid c.tab dst m)) ∧
   (∀ (s : State) (x : Flit), let want := nextSeq s.fabric x.src
     let f : Fabric := { s.fabric with heard := (x.src, s.gcyc) :: s.fabric.heard.filter fun y => y.1 ≠ x.src }
     want < 2 ^ 32 → (∀ y ∈ s.fabric.held, y.src = x.src → y.seq ≠ x.seq ∧ y.seq.toNat ≠ want ∧ y.seq.toNat ≠ (want + 1) % 2 ^ 32) →
     (x.crcOk = false → exec (.flitReceive x) s = .next s) ∧
     (x.crcOk = true → 2 ^ 31 ≤ (x.seq.toNat + 2 ^ 32 - want) % 2 ^ 32 → exec (.flitReceive x) s = .next { s with fabric := f }) ∧
     (x.crcOk = true → x.seq.toNat = want → ∃ t, exec (.flitReceive x) s = .next t ∧ nextSeq t.fabric x.src = (want + 1) % 2 ^ 32 ∧
       t.fabric.held = s.fabric.held ∧ t.fabric.heard = f.heard ∧ t.mem = s.mem ∧ t.cur = s.cur ∧
       t.fabric.inbox = s.fabric.inbox ++ (match x.msg with
         | some (.stepNotice d c sid bs) =>
           if x.src ∈ s.fabric.failed then [] else [{ msg := .stepNotice d c sid bs, again := 0, begun := none }]
         | some m => [{ msg := m, again := 0, begun := none }]
         | none => [])) ∧
     (x.crcOk = true → x.seq.toNat ≠ want → (x.seq.toNat + 2 ^ 32 - want) % 2 ^ 32 < 2 ^ 31 →
       exec (.flitReceive x) s = .next { s with fabric := { f with held := s.fabric.held ++ [x] } })) ∧
   (∀ (s : State) (port : Nat), ∃ t, exec (.keepalive port) s = .next t ∧ t.fabric.keepalives = s.fabric.keepalives + 1 ∧
     t.fabric.inbox = s.fabric.inbox ∧ t.mem = s.mem ∧ t.cur = s.cur ∧ t.ctxs = s.ctxs) ∧
   (∀ (s : State) (pkg : Nat),
     let last := match s.fabric.heard.find? fun x => x.1 = pkg with
       | some x => x.2
       | none => 0
     (s.gcyc < last + 2 ^ 24 ∨ pkg ∈ s.fabric.failed → exec (.packageFailure pkg) s = .next s) ∧
     (last + 2 ^ 24 ≤ s.gcyc → pkg ∉ s.fabric.failed →
       exec (.packageFailure pkg) s = .next { s with fabric := { s.fabric with failed := pkg :: s.fabric.failed } })) ∧
   ∀ (s : State) (pkg : Nat) (c : Ctx) (o : Origin) (dst win : Nat) (doff : Word) (tag : BitVec 16) (bytes : List Byte),
     s.ctxs = [c] → s.fabric.shards = [] → c.resend = [.put o dst win doff tag bytes] → c.tab.here dst = false →
     c.tab.pkg dst = some pkg → o.ctx = c.id → ∃ u t x, exec (.failureNotice pkg) s = .next t ∧ Tells u t c.tab o 8 ∧
       u.mem = s.mem ∧ u.cur = s.cur ∧ u.parked = s.parked ∧ pkg ∈ u.fabric.failed ∧ u.ctxs = [x] ∧ x.resend = c.resend ∧
       ∀ sid sh, c.shard? sid = some sh → ∃ sh', x.shard? sid = some sh' ∧
         (s.lost c.tab sh.pri = false → c.tab.pkg sh.pri ≠ some pkg → sh'.pri = sh.pri) ∧
         (c.tab.here sh.pri = false → c.tab.pkg sh.pri = some pkg → sh.mir ≠ noMirror → s.lost c.tab sh.mir = false →
           c.tab.pkg sh.mir ≠ some pkg → sh'.pri = sh.mir ∧ sh'.mir = noMirror))

/-- BRED folds the members' snapshots element by element in ascending rank, whatever the order in which they arrive: FP32 sums under
RNE with their flags, sums modulo 2^32, or the pair rule of R250. The contribution that completes a round of two members or more
sends the result to the lowest member, or to every member for ALL; contributions that disagree are all told 7 and nothing is
delivered. A delivery is one arrival with source m0; once all have ended every member hears OK, or the status of the failing one of
lowest rank, with the fold's flags (R250, R328, R333, R339). BRED_CONTRIBUTION completes so wherever the conditions of its clause
hold. -/
def Obligations.Reductions : Prop :=
  (∀ (op : Nat) (cs : List Word) (x : Word), foldElem op [x] = (x, Flags.none) ∧ (cs ≠ [] →
    let r := foldElem op cs
    let v := foldElem op (cs ++ [x])
    let lo : Word → Lane := fun w => w.extractLsb' 0 32
    let id : Word → Nat := fun w => (w.extractLsb' 32 32).toNat
    let key : Lane → Int := fun y => if y.getLsbD 31 = true then -((y.extractLsb' 0 31).toNat : Int) - 1 else (y.extractLsb' 0 31).toNat
    let lower := if id r.1 ≤ id x then r.1 else x
    (op = 0 → let y := fpAdd .rne (lo r.1) (lo x)
      v = (y.1.setWidth 64, r.2.or y.2)) ∧
    (op = 1 → v.1.toNat = (r.1.toNat + x.toNat) % 2 ^ 32 ∧ v.2 = r.2) ∧
    (op = 2 ∨ op = 3 → v.2 = r.2 ∧
      (nan32 (lo r.1) = true → nan32 (lo x) = true → v.1 = lower) ∧ (nan32 (lo r.1) = true → nan32 (lo x) = false → v.1 = r.1) ∧
      (nan32 (lo r.1) = false → nan32 (lo x) = true → v.1 = x) ∧
      (nan32 (lo r.1) = false → nan32 (lo x) = false → (lo r.1 = lo x → v.1 = lower) ∧
        (key (lo x) < key (lo r.1) → v.1 = if op = 2 then r.1 else x) ∧
        (key (lo r.1) < key (lo x) → v.1 = if op = 2 then x else r.1))))) ∧
  (∀ (op n : Nat) (snaps : List (List Byte)), op < 4 → snaps ≠ [] →
    let z := if 2 ≤ op then 8 else 4
    (∀ b ∈ snaps, b.length = z * n) →
    let r : Nat → Word × Flags := fun i => foldElem op (snaps.map fun b => BitVec.ofNat 64 (leNat ((b.drop (z * i)).take z)))
    let all := foldAll op n snaps
    all.1.length = z * n ∧ (∀ i < n, (all.1.drop (z * i)).take z = natLe z (r i).1.toNat) ∧
      all.2.nv = ((List.range n).any fun i => (r i).2.nv) ∧ all.2.ovf = ((List.range n).any fun i => (r i).2.ovf)) ∧
  (∀ (s : State) (i g k again : Nat) (tag : BitVec 16) (ms : List Nat) (c : Contribution) (bg : Option (List Nat × Bool)) (x : Ctx),
    s.msg? i = some { msg := c.msg g k tag ms, again := again, begun := bg } → s.ctx? c.o.ctx = some x → 2 ≤ ms.length →
    ms.Pairwise (· < ·) →
    let s1 := s.takeMsg i
    let mine : List Round := s.fabric.rounds.filter fun r => r.is c.o.ctx g k tag
    (mine = [] → exec (.bredContribution i) s = .next { s1 with fabric := { s1.fabric with rounds := s1.fabric.rounds ++
      [{ group := g, ctx := c.o.ctx, tag := tag, round := k, got := [c.msg g k tag ms], flags := Flags.none, left := [],
         fails := [] }] } }) ∧
    ∀ (r : Round) (cs : List Contribution), mine = [r] → r.got = cs.map (fun y => y.msg g k tag ms) → (∀ y ∈ cs, y.o.ctx = c.o.ctx) →
      let r1 : Round := { r with got := r.got ++ [c.msg g k tag ms] }
      let os := (cs ++ [c]).map fun y => y.o
      ((∃ q ∈ ms, ∀ o ∈ os, o.rank ≠ q) → exec (.bredContribution i) s = .next (s1.mapRound c.o.ctx g k tag fun _ => r1)) ∧
      ((∀ q ∈ ms, ∃ o ∈ os, o.rank = q) →
        ((∃ y ∈ cs, ¬ y.agrees c) → ∃ t, exec (.bredContribution i) s = .next t ∧
          TellsAll (s1.dropRound c.o.ctx g k tag) t c.o.ctx x.tab os 7 Flags.none) ∧
        ((∀ y ∈ cs, y.agrees c) → ∀ snap : Nat → List Byte, (∀ y ∈ cs ++ [c], snap y.o.rank = y.bytes) →
          let f := foldAll c.op c.n (ms.map snap)
          let m0 := ms.headD 0
          let dests := if c.all then ms else [m0]
          ∃ t, exec (.bredContribution i) s = .next t ∧ SendsAll c.o.ctx x.tab
            (dests.map fun d => (d, .deliver d m0 c.o.ctx g k c.win c.doff tag f.1))
            (s1.mapRound c.o.ctx g k tag fun _ => { r1 with flags := f.2, left := dests }) t))) ∧
  (∀ (s : State) (i dst m0 ctx g k win : Nat) (doff : Word) (tag : BitVec 16) (bytes : List Byte) (bg : Option (List Nat × Bool)) (c : Ctx),
    s.msg? i = some { msg := .deliver dst m0 ctx g k win doff tag bytes, again := 0, begun := bg } → s.ctx? ctx = some c →
    let ends : State → Nat → Prop := fun u code => ∃ t, exec (.putApply i) s = .next t ∧
      Sends u t ctx c.tab m0 (.delivered m0 dst ctx g k tag code)
    (bg = none → ((∀ base size, c.window? win ≠ some (.region base size)) → ends (s.takeMsg i) 6) ∧
      ∀ base size, c.window? win = some (.region base size) → (size < doff.toNat + bytes.length → ends (s.takeMsg i) 5) ∧
        (doff.toNat + bytes.length ≤ size → let va := base.toNat + doff.toNat
          (∀ f, ctxRanges s c va bytes.length .write = .error f → ends (s.takeMsg i) 10) ∧
          ∀ rs, ctxRanges s c va bytes.length .write = .ok rs →
            (hasEntry s c.id m0 tag = false → exec (.putApply i) s = .next (s.refuseMsg i)) ∧
            (hasEntry s c.id m0 tag = true →
              let p := agentStore s.health (agentWalked s c [(va, bytes.length)]) c.id [] (placeRanges rs bytes)
              exec (.putApply i) s = .next ({ s with mem := p.1 }.beginMsg i p.2 true)))) ∧
    ∀ ids, bg = some (ids, true) → ((∃ w ∈ s.mem.writes, w.id ∈ ids) → exec (.putApply i) s = .next s) ∧
      ((∀ w ∈ s.mem.writes, w.id ∉ ids) → ends ((countArrival s ctx m0 tag).takeMsg i) 1)) ∧
  ∀ (s : State) (i m0 src ctx g k code again : Nat) (tag : BitVec 16) (bg : Option (List Nat × Bool)) (r : Round) (x : Ctx),
    s.msg? i = some { msg := .delivered m0 src ctx g k tag code, again := again, begun := bg } → s.ctx? ctx = some x →
    s.fabric.rounds.filter (fun r => r.is ctx g k tag) = [r] → (∀ o ∈ r.origins, o.ctx = ctx) →
    let fails := if code = 1 then r.fails else r.fails ++ [(src, code)]
    ((∃ q ∈ r.left, q ≠ src) → exec (.bredContribution i) s = .next ((s.takeMsg i).mapRound ctx g k tag fun _ =>
      { r with left := r.left.filter (fun m => m ≠ src), fails := fails })) ∧
    ((∀ q ∈ r.left, q = src) → ∀ st, (fails = [] → st = 1) →
      ((fails.map fun y => y.1).Nodup) → (∀ y ∈ fails, (∀ z ∈ fails, y.1 ≤ z.1) → st = y.2) →
      ∃ t, exec (.bredContribution i) s = .next t ∧
        TellsAll ((s.takeMsg i).dropRound ctx g k tag) t ctx x.tab r.origins st r.flags)

/-- A primary decides a contribution: known ones are told 2, those of another rank 4, of no block 5, of a step that is over 3; one
that comes early is refused and told nothing until the step's notice, on which its source sends it again; the others are held, and
the last one of a block starts its rule with the sum of the block's contributions in the order of the source list. A mirror decides
nothing, and a contribution waits there until it is promoted (log 29); it applies a forwarded block, confirming one it has applied
already; a confirmed block is told OK. DUP for a contribution that is resent, and a mirror that is primary without a mirror, are log
36's readings (R340, R342, R343, R345, R346). BGRAD_RECEIVE, MIRROR_APPLY, MIRROR_CONFIRM and STEP_NOTICE complete so wherever the
conditions of its clause hold. The update rules as R341 writes them: SGD with momentum and decay, AdamW and Lion, with each
operation rounded to nearest even; a Mboand rule is applied to its block at once, whatever body a table might give it (log 23), and
its three arrays are written back (R341, R343). A subscription is registered at the node that serves its shard and forwarded to a
mirror, and the last node to hold it tells OK; at a mirror that is not promoted it waits (log 29); a mirror whose primary is lost
becomes the primary without a mirror (log 36); a phase whose deadline passes with a condition of its block (log 27) unmet finishes
INCOMPLETE (R344, R345, R346, R350). BSUB_REGISTER, MIRROR_PROMOTION and PHASE_DEADLINE complete so wherever the conditions of its
clause hold. -/
def Obligations.Parameters : Prop :=
  ((∀ (s : State) (i : Nat) (o : Origin) (dst sid step blk again : Nat) (g : List Lane)
     (bg : Option (List Nat × Bool)) (c : Ctx), s.msg? i = some { msg := .grad o dst sid step blk g, again := again, begun := bg } → s.ctx? o.ctx = some c →
     let told : Nat → Prop := fun st => ∃ t, exec (.bgradReceive i) s = .next t ∧ Tells (s.takeMsg i) t c.tab o st
     (s.served? o.ctx sid = none → told 11) ∧
     ∀ n d, s.served? o.ctx sid = some n → readDesc s c n = some d → (n.mirror = true → exec (.bgradReceive i) s = .next s) ∧
       (n.mirror = false →
         let known := (∃ x ∈ n.held, x.src = o.rank ∧ x.step = step ∧ x.blk = blk) ∨ ((step, blk) ∈ n.done ∧ o.rank ∈ d.srcl)
         (known → told 2) ∧ (¬ known → (o.rank ∉ d.srcl → told 4) ∧ (o.rank ∈ d.srcl →
           (d.e / d.b ≤ blk → told 5) ∧ (blk < d.e / d.b → (step ≤ d.last → told 3) ∧
             (d.last + 1 < step → exec (.bgradReceive i) s = .next ((s.takeMsg i).mapShard n.ctx n.sid fun x =>
               { x with refused := x.refused ++ [(o.rank, step, blk)] })) ∧
             (step = d.last + 1 → (∃ r ∈ d.srcl, r ≠ o.rank ∧ ∀ x ∈ n.held, ¬ (x.src = r ∧ x.step = step ∧ x.blk = blk)) →
               exec (.bgradReceive i) s = .next ((s.takeMsg i).mapShard n.ctx n.sid fun _ =>
                 { n with held := n.held ++ [⟨o.rank, o, step, blk, g⟩] })) ∧
             (step = d.last + 1 → (step, blk) ∉ n.started →
               (∀ r ∈ d.srcl, r = o.rank ∨ ∃ x ∈ n.held, x.src = r ∧ x.step = step ∧ x.blk = blk) →
               ∀ (gs : Nat → List Lane) (r0 : Nat) (rs : List Nat) (hyp : List Byte) (hs : List (Nat × List Byte)),
               gs o.rank = g → (∀ x ∈ n.held, x.step = step → x.blk = blk → gs x.src = x.g) → d.srcl = r0 :: rs →
               ((n.hyp.find? fun h => h.1 = step) = none ∧ ctxRead s c d.hyp 64 = .ok hyp ∧ hs = (step, hyp) :: n.hyp ∨
                 (n.hyp.find? fun h => h.1 = step) = some (step, hyp) ∧ hs = n.hyp) →
               let sum := rs.foldl (fun acc r => (acc.zip (gs r)).map fun p => (fpAdd .rne p.1 p.2).1) (gs r0)
               let n' := { n with held := n.held ++ [⟨o.rank, o, step, blk, g⟩], hyp := hs }
               exec (.bgradReceive i) s = .next (startBlock ((s.takeMsg i).mapShard n.ctx n.sid fun _ => n') c n' step blk sum hyp))))))) ∧
   (∀ (s : State) (i dst src ctx sid step blk again : Nat) (g : List Lane) (hyp : List Byte)
     (bg : Option (List Nat × Bool)) (c : Ctx) (n : Shard),
     s.msg? i = some { msg := .forward dst src ctx sid step blk g hyp, again := again, begun := bg } → s.ctx? ctx = some c →
     s.served? ctx sid = some n →
     ((step, blk) ∈ n.done → ∃ t, exec (.mirrorApply i) s = .next t ∧ Sends (s.takeMsg i) t ctx c.tab src (.confirm src ctx sid step blk)) ∧
     ((step, blk) ∉ n.done → (step, blk) ∈ n.started → exec (.mirrorApply i) s = .next (s.takeMsg i)) ∧
     ((step, blk) ∉ n.done → (step, blk) ∉ n.started → n.hyp = [] → let n' := { n with hyp := [(step, hyp)] }
       exec (.mirrorApply i) s = .next (startBlock ((s.takeMsg i).mapShard ctx sid fun _ => n') c n' step blk g hyp))) ∧
   (∀ (s : State) (i dst ctx sid step blk again : Nat) (bg : Option (List Nat × Bool)) (c : Ctx) (n : Shard) (d : ShardDesc)
     (x : Held), s.msg? i = some { msg := .confirm dst ctx sid step blk, again := again, begun := bg } → s.ctx? ctx = some c → s.served? ctx sid = some n →
     n.ctx = ctx → n.sid = sid → readDesc s c n = some d → x.o.ctx = ctx → x.step = step → x.blk = blk →
     ((step, blk) ∉ n.done → exec (.mirrorConfirm i) s = .next (s.takeMsg i)) ∧
     ((step, blk) ∈ n.done → (step, blk) ∉ n.confirmed → n.held = [x] → n.subs = [] → step ≠ d.last + 1 →
       ∃ t, exec (.mirrorConfirm i) s = .next t ∧ Tells ((s.takeMsg i).mapShard ctx sid fun _ =>
         { n with held := [], confirmed := (step, blk) :: n.confirmed }) t c.tab x.o 1)) ∧
   ∀ (s : State) (i dst ctx sid again : Nat) (bs : List (Nat × Nat)) (bg : Option (List Nat × Bool)) (c : Ctx) (x : Msg),
     s.msg? i = some { msg := .stepNotice dst ctx sid bs, again := again, begun := bg } → s.ctx? ctx = some c → c.resend = [x] →
     (∀ o d st b g, x = .grad o d sid st b g → (st, b) ∈ bs → ∃ t, exec (.stepNotice i) s = .next t ∧ Sends (s.takeMsg i) t ctx c.tab d x) ∧
     ((∀ o d st b g, x = .grad o d sid st b g → (st, b) ∉ bs) → exec (.stepNotice i) s = .next (s.takeMsg i))) ∧
  ((∀ (h : Nat → Lane) (step : Nat) (g w m v : Lane), ∃ f, mboandRule 0x0301 h step = some f ∧
     let u := f g w m v
     let m' := (fpFma .rne (h 1) m (fpFma .rne (h 2) w g).1).1
     u.m = m' ∧ u.w = (fpFma .rne (negate32 (h 0)) m' w).1 ∧ u.v = v) ∧
   (∀ (h : Nat → Lane) (step : Nat) (g w m v : Lane), ∃ f, mboandRule 0x0302 h step = some f ∧
     let u := f g w m v
     let c := (fpFma .rne (h 1) m (fpMul .rne (h 2) g).1).1
     let sign : Lane := if nan32 c = true ∨ c.extractLsb' 0 31 = 0 then c else if c.getLsbD 31 = true then 0xBF800000 else 0x3F800000
     u.m = (fpFma .rne (h 3) m (fpMul .rne (h 4) g).1).1 ∧ u.w = (fpFma .rne (negate32 (h 0)) (fpFma .rne (h 5) w sign).1 w).1 ∧
     u.v = v) ∧
   (∀ (h : Nat → Lane) (step : Nat) (g w m v : Lane), ∃ f, mboandRule 0x0300 h step = some f ∧
     let u := f g w m v
     let add : Lane → Lane → Lane := fun x y => (fpAdd .rne x y).1
     let mul : Lane → Lane → Lane := fun x y => (fpMul .rne x y).1
     let fma : Lane → Lane → Lane → Lane := fun x y z => (fpFma .rne x y z).1
     let rcp : Lane → Lane := fun x => (vrcp .rne x).1
     let m' := fma (h 1) m (mul (h 2) g)
     let v' := fma (h 3) v (mul (h 4) (mul g g))
     let q := (cvt (BitVec.ofNat 32 (min step (2 ^ 24))) .int32 .fp32 .rne false).1
     let bk : Lane → Lane := fun base => add 0x3F800000 (negate32 (vexp2 .rne (mul q (vlog2 .rne base).1)).1)
     let d := add (rcp (vrsq .rne (mul v' (rcp (bk (h 3))))).1) (h 5)
     u.m = m' ∧ u.v = v' ∧
       u.w = fma (negate32 (h 0)) (fma (mul m' (rcp (bk (h 1)))) (rcp d) (mul (h 6) w)) w) ∧
   ∀ (s : State) (c : Ctx) (n : Shard) (d : ShardDesc) (step blk : Nat) (g : List Lane) (hyp w m v : List Byte)
     (f : Lane → Lane → Lane → Lane → Updated), readDesc s c n = some d →
     let at' : Nat → Nat := fun base => base + 4 * d.b * blk
     ctxRead s c (at' d.wb) (4 * d.b) = .ok w → ctxRead s c (at' d.mb) (4 * d.b) = .ok m → ctxRead s c (at' d.vb) (4 * d.b) = .ok v →
     mboandRule d.rule (fun k => BitVec.ofNat 32 (leNat ((hyp.drop (4 * k)).take 4))) step = some f →
     let n' := { n with started := (step, blk) :: n.started }
     let us := applyRule f g (lanesOf w) (lanesOf m) (lanesOf v)
     (∃ x, SameBytes s.mem x ∧ startBlock s c n step blk g hyp =
       completeBlock ({ s with mem := x }.mapShard n.ctx n.sid fun _ => n') c n' step blk us g) ∧
     us.length = min g.length (min (lanesOf w).length (min (lanesOf m).length (lanesOf v).length)) ∧
     ∀ i < us.length, us[i]? = some (f (g.getD i 0) ((lanesOf w).getD i 0) ((lanesOf m).getD i 0) ((lanesOf v).getD i 0))) ∧
  ((∀ (s : State) (i : Nat) (o : Origin) (dst node sid win stepOff fmt again : Nat) (doff : Word) (tag : BitVec 16) (mirror : Bool)
     (bg : Option (List Nat × Bool)) (c : Ctx),
     s.msg? i = some { msg := .subscribe o dst node sid win doff stepOff fmt tag mirror, again := again, begun := bg } → s.ctx? o.ctx = some c →
     (s.served? o.ctx sid = none → ∃ t, exec (.bsubRegister i) s = .next t ∧ Tells (s.takeMsg i) t c.tab o 11) ∧
     ∀ n d, s.served? o.ctx sid = some n → readDesc s c n = some d →
       let x : Subscr := { o := o, win := win, doff := doff, stepOff := stepOff, fmt := fmt, tag := tag, node := node }
       let u := if x ∈ n.subs then s.takeMsg i else (s.takeMsg i).mapShard o.ctx sid fun y => { y with subs := y.subs ++ [x] }
       (mirror = false → n.mirror = true → exec (.bsubRegister i) s = .next s) ∧
       (mirror = true ∨ (n.mirror = false ∧ d.mir = noMirror) → ∃ t, exec (.bsubRegister i) s = .next t ∧ Tells u t c.tab o 1) ∧
       (mirror = false → n.mirror = false → d.mir ≠ noMirror → ∃ t, exec (.bsubRegister i) s = .next t ∧
         Sends u t o.ctx c.tab d.mir (.subscribe o d.mir node sid win doff stepOff fmt tag true))) ∧
   (∀ (s : State) (n : Shard) (c : Ctx) (d : ShardDesc), s.fabric.shards = [n] → s.ctx? n.ctx = some c → readDesc s c n = some d →
     (n.mirror = false ∨ s.lost c.tab d.pri = false → exec (.mirrorPromotion n.sid) s = .next s) ∧
     (n.mirror = true → s.lost c.tab d.pri = true → ∃ t n', exec (.mirrorPromotion n.sid) s = .next t ∧ t.fabric.shards = [n'] ∧
       n'.mirror = false ∧ n'.confirmed = n.done ∧ n'.held = n.held ∧ n'.subs = n.subs ∧ t.cur = s.cur ∧ t.parked = s.parked)) ∧
   ∀ (s : State) (c : Ctx) (g : Group), s.ctx? c.id = some c → group? c.phases g.h = some g →
     (phaseDue s c g = false → exec (.phaseDeadline c.id g.h) s = .next s) ∧
     (phaseDue s c g = true → phaseFinished s c g = false ∧ ∃ t c' g', exec (.phaseDeadline c.id g.h) s = .next t ∧
       t.ctx? c.id = some c' ∧ group? c'.phases g.h = some g' ∧ g'.incomplete = true ∧ phaseFinished t c' g' = true ∧
       (handleLevel g.h = 2 → objectStatus c' g.h = 2)))

/-- A single-bit error is corrected and sets CE_SEEN. An uncorrectable error in a clean line drops it, in a dirty line poisons it,
in the copy that bears it, else at home, else in a replica (which copy is the model's choice, log 42); in DRAM it bars its word, by
a line of the model's own form (log 24); each has its record, which stays in the line while 16 records are held (log 24). ICACHE_UE
completes with no effect. An armed injection corrupts its line where that stands in its home L2 (R297 to R300). CORRECTED_ERROR,
CLEAN_LINE_UE, DIRTY_LINE_UE, DRAM_UE, ICACHE_UE and EINJ_INJECT complete so wherever the conditions of its clause hold. An error in
a weight store poisons its region, and one in a core's state leaves it; either way its record is logged and the context of the unit
ends: no unit of it stays but firmware; a procedure of a system core has no context (log 20), so that its record has no owner and no
context ends; while 16 records are held the detection waits (R290, R298, R300). The line that the record names is the model's free
value (log 20; R300 gives none): the statement names none. WEIGHT_STORE_UE and CORE_STATE_UE complete so wherever the conditions of
its clause hold. -/
def Obligations.Errors : Prop :=
  (let record : Nat → Nat → Nat → Nat → Nat → Word := fun kind struct owner way dpa =>
     (1 : BitVec 1) ++ BitVec.ofNat 3 kind ++ BitVec.ofNat 4 struct ++ BitVec.ofNat 8 owner ++ BitVec.ofNat 5 way ++ (0 : BitVec 3) ++
       BitVec.ofNat 33 (dpa / 128) ++ (0 : BitVec 7)
   let kept : State → State → Prop := fun s t => t.ctxs = s.ctxs ∧ t.on = s.on ∧ t.gcyc = s.gcyc ∧
     ((s.units.map fun u => u.uid).Nodup → (∀ u ∈ s.units, u.isFirmware = false → u ∈ t.units) ∧
       (s.on = true → s.cur.isFirmware = false → t.cur = s.cur))
   let logs : State → State → Word → Prop := fun s t r => t.health.ueSeen = true ∧ t.health.errlog = s.health.errlog ++ [r]
   let same : L2Line → L2Line → Bool := fun x l => x.die = l.die && x.line = l.line && x.way = l.way
   (∀ s : State, match s.mem.l2.find? fun l => l.hurt = some false with
     | some l => exec .correctedError s = .next { s with
         health := { s.health with ceSeen := true },
         mem := { s.mem with l2 := s.mem.l2.map fun x => if same x l then { x with hurt := none, leaving := false } else x } }
     | none => exec .correctedError s = .next { s with health := { s.health with ceSeen := true } }) ∧
   (∀ (s : State) (line : Nat) (dirty : Bool) (l : L2Line),
     let i : Instr := if dirty then .dirtyLineUe line else .cleanLineUe line
     let cs := s.mem.l2.filter fun x => x.line = line && x.dirty = dirty && !x.poison && x.way < 24
     (cs = [] → exec i s = .next s) ∧
     ((cs.find? fun x => x.hurt = some true).or ((cs.find? fun x => x.die = dpaDie (128 * line)).or cs.head?) = some l →
       (16 ≤ s.health.errlog.length → exec i s = .next { s with mem := { s.mem with
         l2 := s.mem.l2.map fun x => if same x l then { x with hurt := some true } else x } }) ∧
       (s.health.errlog.length < 16 → l.owner < 256 → ∃ t, exec i s = .next t ∧ kept s t ∧
         logs s t (record (if dirty then 3 else 2) 1 l.owner l.way (128 * line)) ∧
         t.mem.l2 = if dirty then (s.mem.l2.map fun x => if same x l then { x with poison := true, hurt := none, leaving := false } else x)
           else s.mem.l2.filter fun x => !same x l))) ∧
   (∀ (s : State) (dpa : Nat), ∃ t, exec (.dramUe dpa) s = .next t ∧ kept s t ∧ linePoisoned t.mem dpa = true ∧
     (s.health.errlog.length < 16 → logs s t (record 4 0 0xFF 0 dpa)) ∧
     (16 ≤ s.health.errlog.length → t.health = { s.health with waiting := s.health.waiting ++ [record 4 0 0xFF 0 dpa] })) ∧
   (∀ (s : State) (core line : Nat), exec (.icacheUe core line) s = .next s) ∧
   ∀ s : State, let line := (s.mem.einj.extractLsb' 7 33).toNat
     let there := s.mem.einj.getLsbD 41 = true ∧ ∃ l ∈ s.mem.l2, l.line = line ∧ l.die = dpaDie (128 * line)
     (¬ there → exec .einjInject s = .next s) ∧
     (there → ∃ e : Word, e.getLsbD 41 = false ∧ (∀ i < 64, i ≠ 41 → e.getLsbD i = s.mem.einj.getLsbD i) ∧
       exec .einjInject s = .next { s with mem := { s.mem with
         einj := e
         l2 := s.mem.l2.map fun l => if l.die = dpaDie (128 * line) && l.line = line then
           { l with hurt := some (s.mem.einj.getLsbD 40) } else l } })) ∧
  (∀ (s : State) (x : QUnit), s.unit? x.uid = some x →
     let names : Word → Nat → Nat → Prop := fun r kind owner =>
       r.getLsbD 63 = true ∧ r.extractLsb' 60 3 = BitVec.ofNat 3 kind ∧ r.extractLsb' 48 8 = BitVec.ofNat 8 owner
     let ends : State → Nat → Prop := fun t kind => (∀ u ∈ t.units, u.ctx = x.ctx → u.isFirmware = true) ∧ t.gcyc = s.gcyc ∧
       t.health.ueSeen = true ∧ ∃ r : Word, t.health.errlog = s.health.errlog ++ [r] ∧ names r kind x.ctx
     (16 ≤ s.health.errlog.length → (∀ die off, exec (.weightStoreUe die off x.uid) s = .next s) ∧ exec (.coreStateUe x.uid) s = .next s) ∧
     (s.health.errlog.length < 16 → x.isFirmware = true → ∃ t, exec (.coreStateUe x.uid) s = .next t ∧ t.ctxs = s.ctxs ∧
       t.health.wsPoison = s.health.wsPoison ∧ t.gcyc = s.gcyc ∧ ((s.units.map fun u => u.uid).Nodup → ∀ u ∈ s.units, u.isFirmware = false → u ∈ t.units) ∧
       t.health.ueSeen = true ∧ ∃ r : Word, t.health.errlog = s.health.errlog ++ [r] ∧ names r 6 0xFF) ∧
     (s.health.errlog.length < 16 → x.isFirmware = false → (s.ctx? x.ctx).isSome = true → x.ctx < 256 →
       (∀ die off, ∃ t, exec (.weightStoreUe die off x.uid) s = .next t ∧ ends t 5 ∧
         (∀ d r, (d, r) ∈ t.health.wsPoison ↔ (d, r) ∈ s.health.wsPoison ∨ (d = die ∧ r = off / 2 ^ 26))) ∧
       ∃ t, exec (.coreStateUe x.uid) s = .next t ∧ ends t 6 ∧ t.health.wsPoison = s.health.wsPoison))

/-- SYSTEM's writes: V to ERRLOG drops the record, and the next one becomes valid; DEV_HEALTH's UE_SEEN and CE_SEEN are cleared by
1; L2QUAR quarantines a way, whose lines leave it, a poisoned one discarded with what DRAM kept of it, a dirty one with an error
poisoned outside any way (log 24); PRETIRE retires a frame, each counted once; EINJ is written; CTXKILL ends the context whose
number it carries and those with an access stalled on a poisoned line of it; a value with a reserved bit changes nothing (R218,
R219, R294, R295, R299, R300). ERRLOG_CLEAR, DEV_HEALTH_CLEAR, L2QUAR, PRETIRE, EINJ and CTXKILL complete so wherever the conditions
of its clause hold. A core is retired once: it is counted, the part is to be replaced, an alert is raised, every unit there is asked
to leave at its next point, and none is placed or resumed there any more; a die too, and it leaves the partitions that held it. Rows
that fail go onto spare ones, and a fifth failed row retires the core (R25, R202, R280, R286, R301). CORE_RETIRE, DIE_RETIRE and
ROW_REPAIR complete so wherever the conditions of its clause hold. -/
def Obligations.SystemWrites : Prop :=
  (∀ (s : State) (v : Word),
     let kept : State → Prop := fun t => t.ctxs = s.ctxs ∧ t.gcyc = s.gcyc ∧ t.on = s.on ∧
       ((s.units.map fun u => u.uid).Nodup → ∀ u ∈ s.units, u.isFirmware = false → u ∈ t.units)
     (errlogOk v = false ∨ v.getLsbD 63 = false ∨ s.health.errlog = [] → exec (.errlogClear v) s = .next s) ∧
     (errlogOk v = true → v.getLsbD 63 = true → ∀ r rs, s.health.errlog = r :: rs → ∃ t, exec (.errlogClear v) s = .next t ∧ kept t ∧
       t.mem = s.mem ∧ t.health.errlog = rs ++ s.health.waiting.take 1 ∧ t.health.waiting = s.health.waiting.drop 1) ∧
     (2 ^ 40 ≤ v.toNat → exec (.devHealthClear v) s = .next s) ∧
     (v.toNat < 2 ^ 40 → exec (.devHealthClear v) s = .next { s with health := { s.health with
       ueSeen := s.health.ueSeen && !v.getLsbD 2, ceSeen := s.health.ceSeen && !v.getLsbD 1 } }) ∧
     (let grp := v.toNat % 64
      let way := v.toNat / 256 % 32
      let die := v.toNat / 2 ^ 14
      let ok := v.toNat < 2 ^ 16 ∧ v.toNat / 64 % 4 = 0 ∧ v.toNat / 2 ^ 13 % 2 = 0 ∧ way < 24
      (¬ ok → exec (.l2quar v) s = .next s) ∧
      (ok → ∃ t, exec (.l2quar v) s = .next t ∧ kept t ∧ (die, grp, way) ∈ t.health.quar ∧
        t.health.qways = s.health.qways + (if (die, grp, way) ∈ s.health.quar then 0 else 1) ∧
        (∀ l ∈ t.mem.l2, ¬ (l.die = die ∧ l.way = way ∧ l2Set l.line / 4096 = grp)) ∧
        (let there : L2Line → Bool := fun l => l.die = die && (l.way = way || l.way = 32 + way) && l2Set l.line / 4096 = grp
         ((∀ l ∈ s.mem.l2, there l = true → l.poison = false ∧ l.hurt = none) →
           t.mem = { s.mem with l2 := s.mem.l2.filter fun l => !there l }) ∧
         ∀ l, s.mem.l2.filter there = [l] → (l.poison = true → (∀ x ∈ t.mem.l2, x.line ≠ l.line) ∧
             ∀ d < 4, t.mem.view d = ssetMany (s.mem.view d) l.dram) ∧
           (l.poison = false → l.hurt = some true → l.dirty = true → l.way = way →
             { l with poison := true, hurt := none, leaving := false, way := 32 + way } ∈ t.mem.l2 ∧ linePoisoned t.mem (128 * l.line) = true)))) ∧
     (let ok := v.toNat < 2 ^ 40 ∧ v.toNat % 2 ^ 16 = 0
      (¬ ok → exec (.pretire v) s = .next s) ∧
      (ok → ∃ t, exec (.pretire v) s = .next t ∧ kept t ∧ t.mem = s.mem ∧ v.toNat / 2 ^ 16 ∈ t.health.frames ∧
        t.health.pages = s.health.pages + (if v.toNat / 2 ^ 16 ∈ s.health.frames then 0 else 1))) ∧
     (einjOk v = false → exec (.einj v) s = .next s) ∧
     (einjOk v = true → v.getLsbD 41 = false → exec (.einj v) s = .next { s with mem := { s.mem with einj := v } }) ∧
     (einjOk v = true → v.getLsbD 41 = true → exec (.einj v) s = exec .einjInject { s with mem := { s.mem with einj := v } }) ∧
     (2 ^ 8 ≤ v.toNat → exec (.ctxkill v) s = .next s) ∧
     (v.toNat < 2 ^ 8 → ∃ t, exec (.ctxkill v) s = .next t ∧ t.gcyc = s.gcyc ∧
       let gone : Nat → Prop := fun c => ∀ u ∈ t.units, u.ctx = c → u.isFirmware = true
       (s.ctx? v.toNat = none → s.mem.l2 = [] → t = s) ∧ ((s.ctx? v.toNat).isSome = true → gone v.toNat) ∧
       ∀ l ∈ s.mem.l2, l.poison = true → l.owner = v.toNat →
         (∀ u ∈ s.units, u.isFirmware = false → stalledOn u l.line = true → (s.ctx? u.ctx).isSome = true → gone u.ctx) ∧
         ∀ c ∈ stalledCtxs s l.line, (s.ctx? c).isSome = true → gone c)) ∧
  (∀ s : State, (s.units.map fun u => u.uid).Nodup →
     let retired : State → (Nat → Prop) → Prop := fun t p => (∀ u ∈ t.units, p u.core → u.preempt = true) ∧
       ∀ k, p k → (∀ u, k ∉ resumeCores t u) ∧ ∀ c l i, hostsUnit t c l i k = false
     (∀ core, (384 ≤ core ∨ core ∈ s.health.badCores → exec (.coreRetire core) s = .next s) ∧
       (core < 384 → core ∉ s.health.badCores → ∃ t, exec (.coreRetire core) s = .next t ∧ t.gcyc = s.gcyc ∧
         t.health = { s.health with badCores := core :: s.health.badCores, replace := true } ∧ retired t (fun k => k = core) ∧
         ∃ w, .alert w ∈ t.board.reports)) ∧
     (∀ die, (4 ≤ die ∨ die ∈ s.health.badDies → exec (.dieRetire die) s = .next s) ∧
       (die < 4 → die ∉ s.health.badDies → ∃ t, exec (.dieRetire die) s = .next t ∧ t.gcyc = s.gcyc ∧
         t.health = { s.health with badDies := die :: s.health.badDies, replace := true } ∧
         retired t (fun k => k < 384 ∧ coreDie k = die) ∧ (∀ c ∈ t.ctxs, die ∉ c.dies) ∧ ∃ w, .alert w ∈ t.board.reports)) ∧
     ∀ core arr rows, core < 384 → arr < 2 → rows.Nodup → (∀ r ∈ rows, r < 68) → s.health.repairs = [] → core ∉ s.health.badCores →
       s.health.replace = false → ∃ t, exec (.rowRepair core arr rows) s = .next t ∧ t.health.repairs = [(core, arr, rows)] ∧
         (rows.length ≤ 4 → t.cur = s.cur ∧ t.parked = s.parked ∧ t.mem = s.mem ∧ t.health.badCores = s.health.badCores) ∧
         (4 < rows.length → t.health.badCores = core :: s.health.badCores ∧ retired t fun k => k = core))

/-- The registers of a virtual function: a doorbell takes a tail below its ring's size; a base or size is written while its ring is
empty, sizes the powers of two from 16 to 65,536; EV_HEAD takes an index of its ring; every other offset and every other value
changes nothing, nor does a write change another context; a write-only register reads as 0, the others as they stand; an interface
in RUN without an IDE stream takes nothing (R6, R354, R357; a value that a register cannot hold is the model's choice, log 31).
CQ_DOORBELL, XFER_DOORBELL and VF_REGISTER_WRITE complete so wherever the conditions of its clause hold. A link trains to the
highest generation and width both ends support, generation 5 and width 4 at least, or is down with an alert. A transfer of the ring
moves its bytes between host memory and DEVICE, or ends with 0x10 for a length or direction R355 does not allow and 0x13 for a page
it may not use; its completion word is written and the head advances. Writing 1 to the commit register registers the Braid tables
(R328, R353, R354, R355, R368). PCIE_LINK_TRAIN, TRANSFER_DESCRIPTOR and BRAID_COMMIT complete so wherever the conditions of its
clause hold. -/
def Obligations.Host : Prop :=
  (∀ (s : State) (c : Ctx), s.ctx? c.id = some c →
     let r := c.rings
     let sets : Instr → Rings → Prop := fun i r' => ∃ t, exec i s = .next t ∧ t.cur = s.cur ∧ t.mem = s.mem ∧ t.parked = s.parked ∧
       t.ctx? c.id = some { c with rings := r' } ∧ ∀ x ∈ s.ctxs, x.id ≠ c.id → x ∈ t.ctxs
     let size : Nat → Prop := fun n => ∃ k, 4 ≤ k ∧ k ≤ 16 ∧ n = 2 ^ k
     (s.unprotected c.id = true → ∀ tail off v, ∀ i ∈ ([.cqDoorbell c.id tail, .xferDoorbell c.id tail, .vfRegisterWrite c.id off v] :
       List Instr), exec i s = .next s) ∧
     (∀ off, ∀ v : Word, (off, v) ∈ ([(0x000, r.cqBase), (0x008, BitVec.ofNat 64 r.cqSize), (0x00C, 0), (0x010, r.evBase),
         (0x018, BitVec.ofNat 64 r.evSize), (0x01C, BitVec.ofNat 64 r.evHead), (0x020, BitVec.ofNat 64 r.evTail),
         (0x024, BitVec.ofNat 64 (r.evLost % 2 ^ 32)), (0x028, r.braidTab),
         (0x030, r.xfBase), (0x038, 0), (0x03C, 0), (0x040, BitVec.ofNat 64 r.xfSize), (0x044, BitVec.ofNat 64 r.xfHead)] :
         List (Nat × Word)) → s.unprotected c.id = false →
       hostOp (.readRegister c.id off) s = { s with board := { s.board with reports := s.board.reports ++ [.register c.id off v] } }) ∧
     (s.unprotected c.id = false →
     (∀ tail : BitVec 32, (tail.toNat < r.cqSize → sets (.cqDoorbell c.id tail) { r with cqTail := tail.toNat }) ∧
       (r.cqSize ≤ tail.toNat → sets (.cqDoorbell c.id tail) r) ∧
       (tail.toNat < r.xfSize → sets (.xferDoorbell c.id tail) { r with xfTail := tail.toNat }) ∧
       (r.xfSize ≤ tail.toNat → sets (.xferDoorbell c.id tail) r)) ∧
       ∀ v : Word, let n := v.toNat % 2 ^ 32
       let writes : Nat → Rings → Prop := fun off r' => sets (.vfRegisterWrite c.id off v) r'
       (r.cqHead = r.cqTail → v.toNat % 4096 = 0 → writes 0x000 { r with cqBase := v }) ∧
       (r.cqHead ≠ r.cqTail ∨ v.toNat % 4096 ≠ 0 → writes 0x000 r) ∧
       (r.cqHead = r.cqTail → size n → writes 0x008 { r with cqSize := n, cqHead := r.cqHead % n, cqTail := r.cqTail % n }) ∧
       (r.cqHead ≠ r.cqTail ∨ ¬ size n → writes 0x008 r) ∧
       (writes 0x010 (if r.evHead = r.evTail then { r with evBase := v } else r)) ∧
       (r.evHead = r.evTail → size n → writes 0x018 { r with evSize := n, evHead := r.evHead % n, evTail := r.evTail % n }) ∧
       (r.evHead ≠ r.evTail ∨ ¬ size n → writes 0x018 r) ∧
       (writes 0x01C (if n < r.evSize then { r with evHead := n } else r)) ∧ (writes 0x028 { r with braidTab := v }) ∧
       (r.xfHead = r.xfTail → v.toNat % 4096 = 0 → writes 0x030 { r with xfBase := v }) ∧
       (r.xfHead ≠ r.xfTail ∨ v.toNat % 4096 ≠ 0 → writes 0x030 r) ∧
       (r.xfHead = r.xfTail → size n → writes 0x040 { r with xfSize := n, xfHead := r.xfHead % n, xfTail := r.xfTail % n }) ∧
       (r.xfHead ≠ r.xfTail ∨ ¬ size n → writes 0x040 r) ∧
       ∀ off, off ∉ [0x000, 0x008, 0x010, 0x018, 0x01C, 0x028, 0x030, 0x040] → writes off r)) ∧
  ((∀ (s : State) (link gen width : Nat), (2 ≤ link → exec (.pcieLinkTrain link gen width) s = .next s) ∧
     (link < 2 → ∃ t, exec (.pcieLinkTrain link gen width) s = .next t ∧ t.cur = s.cur ∧ t.parked = s.parked ∧
       (∀ x ∈ s.board.links, x.1 ≠ link → x ∈ t.board.links) ∧
       (5 ≤ gen → 4 ≤ width → (∃ w, (link, min gen 7, w) ∈ t.board.links ∧ w ∈ [4, 8, 16] ∧ w ≤ width ∧ width < 2 * w ∨
         (link, min gen 7, 16) ∈ t.board.links ∧ 16 ≤ width) ∧ t.mem = s.mem ∧ t.ctxs = s.ctxs) ∧
       (gen < 5 ∨ width < 4 → linkTrained t link = false ∧ ∃ w, .alert w ∈ t.board.reports))) ∧
   (∀ (s : State) (c : Ctx) (ok : Bool), s.ctx? c.id = some c →
     (nextTransfer s c = none → exec (.transferDescriptor c.id ok) s = .next s) ∧
     ∀ bs, nextTransfer s c = some bs → let f := byteField bs
       let n := f 16 4
       let cpl := f 24 8
       let next : State → State := fun u => u.mapRings c.id fun r => { r with xfHead := (r.xfHead + 1) % r.xfSize }
       let ends : State → Nat → Prop := fun u st => exec (.transferDescriptor c.id ok) s = .next (next (writeWord u c cpl st))
       (cpl % 8 ≠ 0 → exec (.transferDescriptor c.id ok) s = .next (next s)) ∧
       (cpl % 8 = 0 → (n % 4 ≠ 0 ∨ n < 4 ∨ 2 ^ 24 < n ∨ 1 < f 20 4 → ends s 0x10) ∧
         (n % 4 = 0 → 4 ≤ n → n ≤ 2 ^ 24 →
           (f 20 4 = 1 → (∀ e, ctxRanges s c (f 8 8) n .read = .error e → ends s 0x13) ∧
             ∀ rs, ctxRanges s c (f 8 8) n .read = .ok rs → (ok = false → ends s 0x13) ∧
               (ok = true → ∃ m, SameBytes s.mem m ∧ ends { s with mem := m, board := { s.board with
                 host := writeBytes s.board.host (f 0 8) (homeRanges s.mem rs) } } 0)) ∧
           (f 20 4 = 0 → (∀ e, ctxRanges s c (f 8 8) n .write = .error e → ends s 0x13) ∧
             ∀ rs, ctxRanges s c (f 8 8) n .write = .ok rs → (ok = false → ends s 0x13) ∧
               (ok = true → ends { s with mem := agentWrite s.health (agentWalked s c [(f 8 8, n)]) c.id (placeRanges rs (readBytes s.board.host (f 0 8) n)) } 0))))) ∧
   ∀ (s : State) (c : Ctx) (v : BitVec 32), s.ctx? c.id = some c → (v ≠ 1 → exec (.braidCommit c.id v) s = .next s) ∧
     (v = 1 → s.unprotected c.id = false → ∀ bs, ctxRead s c c.rings.braidTab.toNat 40 = .ok bs → ∃ t x b, exec (.braidCommit c.id v) s = .next t ∧
       t.cur = s.cur ∧ t.mem = s.mem ∧ t.ctx? c.id = some x ∧ x.braid = some b ∧ b.rank = byteField bs 0 4 ∧ b.ranks = byteField bs 4 4 ∧
       x.launches = c.launches ∧ x.resend = c.resend ∧ ∀ n ∈ s.fabric.shards, n.ctx ≠ c.id → n ∈ t.fabric.shards))

/-- CONTEXT_CREATE makes a context once its link is trained, on a partition that no context's dies meet, else on one's that has its
own; a partition that R22 allows is given to contexts that are not in use, unless it cuts another's; a key slot is loaded for the
contexts named and for no other, and clearing it ends every context that holds a page under it; in RUN a context's slots are its
own, and leaving RUN ends its units and clears them (R22, R213, R353, R357, R366; a partition in use is refused by the model's
choice, log 11, and entry while slots are shared, log 33). CONTEXT_CREATE, PARTITION_ASSIGNMENT, KEY_SLOT_LOAD, KEY_SLOT_CLEAR,
TDISP_ENTER_RUN and TDISP_LEAVE_RUN complete so wherever the conditions of its clause hold. -/
def Obligations.Contexts : Prop :=
  (∀ (s : State) (n : Nat), (256 ≤ n ∨ linkTrained s (n / 128) = false ∨ (∃ c, s.ctx? n = some c) → exec (.contextCreate n) s = .next s) ∧
    (n < 256 → linkTrained s (n / 128) = true → s.ctx? n = none → ∃ t c, exec (.contextCreate n) s = .next t ∧
      t.ctxs = s.ctxs ++ [c] ∧ c.id = n ∧ c.launches = [] ∧
      (((∀ x ∈ s.ctxs, ∀ d ∈ c.dies, d ∉ x.dies) ∧ ∃ p ∈ [[0, 1, 2, 3], [0, 1], [2, 3], [0], [1], [2], [3]],
        c.dies = p.filter fun d => d < 4 ∧ d ∉ s.health.badDies) ∨ ∃ x ∈ s.ctxs, c.dies = x.dies) ∧
      c.modules = [] ∧ c.rings = Rings.reset ∧ t.cur = s.cur ∧ t.parked = s.parked ∧ t.mem = s.mem)) ∧
  (∀ (s : State) (ids dies : List Nat), let new := dies.filter fun d => d < 4 ∧ d ∉ s.health.badDies
    ((∃ c ∈ s.ctxs, c.id ∉ ids ∧ c.dies ≠ new ∧ ∃ d ∈ c.dies, d ∈ new) → exec (.partitionAssignment ids dies) s = .next s) ∧
    (dies ∉ [[0, 1, 2, 3], [0, 1], [2, 3], [0], [1], [2], [3]] → exec (.partitionAssignment ids dies) s = .next s) ∧
    (dies ∈ [[0, 1, 2, 3], [0, 1], [2, 3], [0], [1], [2], [3]] → (∀ i ∈ ids, ∃ c, s.ctx? i = some c) →
      (∀ c ∈ s.ctxs, c.id ∈ ids → c.launches = [] ∧ ∀ u ∈ s.units, u.ctx = c.id → u.isFirmware = true) →
      (∀ c ∈ s.ctxs, c.id ∉ ids → c.dies = new ∨ ∀ d ∈ c.dies, d ∉ new) →
      ∃ t, exec (.partitionAssignment ids dies) s = .next t ∧ t.cur = s.cur ∧ t.mem = s.mem ∧ t.ctxs = s.ctxs.map fun c =>
        if c.id ∈ ids then { c with dies := new } else c)) ∧
  (∀ (s : State) (slot : BitVec 8) (ids : List Nat), let k := slot.toNat
    let run := ∃ c ∈ s.ctxs, c.tdisp = true ∧ (k ∈ c.keys ∨ c.id ∈ ids) ∧ ∃ i ∈ ids, i ≠ c.id
    (run → exec (.keySlotLoad slot ids) s = .next s) ∧
    (¬ run → ∃ t, exec (.keySlotLoad slot ids) s = .next t ∧ t.cur = s.cur ∧ t.mem = s.mem ∧ k ∈ t.board.slots ∧
      (∀ x, x ≠ k → (x ∈ t.board.slots ↔ x ∈ s.board.slots)) ∧ (∀ c ∈ t.ctxs, k ∈ c.keys ↔ c.id ∈ ids)) ∧
    ∃ t, exec (.keySlotClear slot) s = .next t ∧ k ∉ t.board.slots ∧ (∀ x, x ≠ k → (x ∈ t.board.slots ↔ x ∈ s.board.slots)) ∧
      (∀ c ∈ t.ctxs, k ∉ c.keys) ∧ ∀ c ∈ s.ctxs, s.ctx? c.id = some c → holdsPage s.mem c k = true →
        ∀ u ∈ t.units, u.ctx = c.id → u.isFirmware = true) ∧
  ∀ (s : State) (c : Ctx), s.ctx? c.id = some c →
    let shared := ∃ x ∈ s.ctxs, x.id ≠ c.id ∧ ∃ k ∈ x.keys, k ∈ c.keys
    (shared → exec (.tdispEnterRun c.id) s = .next s) ∧
    (¬ shared → exec (.tdispEnterRun c.id) s = .next (s.mapCtx c.id fun x => { x with tdisp := true })) ∧
    (c.tdisp = false → exec (.tdispLeaveRun c.id) s = .next s) ∧
    (c.tdisp = true → ∃ t x, exec (.tdispLeaveRun c.id) s = .next t ∧ t.ctx? c.id = some x ∧ x.tdisp = false ∧
      (∀ k ∈ c.keys, k ∉ t.board.slots ∧ k ∉ x.keys) ∧ ∀ u ∈ t.units, u.ctx = c.id → u.isFirmware = true)

/-- ENREQ posts one request of a context at a time to its event ring and answers 1 at DL0; while one stands unanswered it answers 0;
an amount above 32 bits raises ILLEGAL (R358, R363). An interval resets what contexts have committed and used and puts new grants in
force; a grant within the budget and with a share from 1 to 65,535 is set; the budget may be set up to its default, is lowered above
105 °C, and at 115 °C the module stops with an alert; management reads DEV_HEALTH, the temperature last reached and the power, free
values where nothing has set them (log 26). SPDM answers with the version in use, the measurements and its signature over them and
the nonce, packed so (version byte first) by the model's choice (log 17) (R266, R360, R363, R365, R368). ENERGY_INTERVAL, GRANT_SET,
BUDGET_SET, THERMAL_LIMIT and SPDM_REQUEST complete so wherever the conditions of its clause hold. -/
def Obligations.Energy : Prop :=
  (∀ (s : State) (m : Mv), Calm s → Fires s m →
     let v := moved s m
     let u := s.cur
     (2 ^ 32 ≤ v.toNat → FaultsAt s (.enreq m) .illegal 0 0) ∧
     (v.toNat < 2 ^ 32 →
       (s.curCtx.energy.asked = true → exec (.enreq m) s = .next (issued s 107 m fun t => t.putPort 67 0)) ∧
       (s.curCtx.energy.asked = false → exec (.enreq m) s = .next (issued (postEvent
         (s.mapCtx u.ctx fun x => { x with energy := { x.energy with asked := true } }) u.ctx
         (natLe 2 3 ++ natLe 2 0 ++ natLe 4 0 ++ natLe 4 u.launch ++ natLe 4 u.index ++ natLe 8 0 ++ natLe 8 v.toNat)) 107 m
           fun t => t.putPort 67 (if s.task.tstat.dl = .dl0 then 1 else 0))))) ∧
  ((∀ s : State, ∃ t, exec .energyInterval s = .next t ∧ t.cur = s.cur ∧ t.mem = s.mem ∧ t.board.interval = s.gcyc / 1600000 ∧
     t.ctxs = s.ctxs.map fun c => { c with energy := { c.energy with committed := 0, metered := 0, grant := c.energy.nextGrant } }) ∧
   (∀ (s : State) (c : Ctx) (g w : Nat), s.ctxs = [c] →
     (s.board.budget < g ∨ w = 0 ∨ 65535 < w → exec (.grantSet c.id g w) s = .next s) ∧
     (g ≤ s.board.budget → 1 ≤ w → w ≤ 65535 → exec (.grantSet c.id g w) s = .next { s with ctxs :=
       [{ c with share := w, energy := { c.energy with nextGrant := g, asked := false } }] })) ∧
   (∀ (s : State) (b : Nat), (b ≤ 2250000 → exec (.budgetSet b) s = .next { s with board := { s.board with budget := b } }) ∧
     (2250000 < b → exec (.budgetSet b) s = .next s)) ∧
   (∀ (s : State) (deg b : Nat), ∃ t, exec (.thermalLimit deg b) s = .next t ∧ t.cur = s.cur ∧ t.parked = s.parked ∧
     t.board.celsius = some deg ∧
     (deg ≤ 105 → t = { s with board := { s.board with celsius := some deg } }) ∧ (105 < deg → t.board.budget = min s.board.budget b) ∧ (deg < 115 → t.mem = s.mem ∧ t.ctxs = s.ctxs) ∧
     (115 ≤ deg → t.board.stopped = true ∧ (∃ w, .alert w ∈ t.board.reports) ∧ (t.inbox = [] → step t = .fault .moduleStopped))) ∧
   (∀ s : State, ∃ deg watts, (∀ d, s.board.celsius = some d → deg = d) ∧ watts ≤ 2400 ∧ hostOp .readModule s = { s with
     tick := s.tick + 1, board := { s.board with reports := s.board.reports ++ [.module (healthWord s.health) deg watts] } }) ∧
   ∀ (s : State) (nonce : Word), ∃ m, exec (.spdmRequest nonce) s = .next { s with board := { s.board with reports :=
       s.board.reports ++ [.spdm (m ++ Config.deviceSign (m ++ natLe 8 nonce.toNat))] } } ∧
     m = [BitVec.ofNat 8 s.board.spdm] ++ sha256Bytes (firmwareBytes s) ++ natLe 4 s.board.table.1 ++ natLe 32 Config.stitcherHash.toNat ++
       s.board.links.flatMap fun x => [BitVec.ofNat 8 x.1, if ∃ c ∈ s.board.ide, c / 128 = x.1 then 1 else 0])

/-- MODULE_RESET: GCYC 0, no context, no unit, the registers of R300 and the budget at their reset values, the repair map kept; the
firmware runs from the system cores' scratchpads where the boot ROM accepts every image (one image after another from firmware LOCAL
0 on every system core by the model's choice, log 20), else the module is in recovery, where its physical function alone answers and
time passes (R13, R300, R303, R364, R368). MODULE_RESET completes so wherever the conditions of its clause hold. -/
def Obligations.ModuleReset : Prop :=
  ∀ (s : State) (images : List FwImage), ∃ t, exec (.moduleReset images) s = .next t ∧ t.gcyc = 0 ∧ t.ctxs = [] ∧ t.units = [] ∧
    t.health = { State.reset.health with repairs := s.health.repairs } ∧ t.health.errlog = [] ∧ t.mem.einj = 0 ∧
    t.health.pages = 0 ∧ t.health.qways = 0 ∧ t.health.ueSeen = false ∧ t.health.ceSeen = false ∧ t.health.replace = false ∧
    t.board.budget = 2250000 ∧ t.board.stopped = false ∧ t.board.slots = [] ∧
    let accepted := ∀ x ∈ images, x.keyHash = Config.fusedKeyHash ∧ Config.signatureOk x.bytes x.signature = true ∧
      Config.fusedRollback ≤ x.version
    (accepted → t.board.recovery = false ∧ ∀ d < 4, ∀ k ∈ [systemCore d, systemCore d + 1], ∀ i,
      sget (fwLocalOf t k) i = (images.flatMap fun x => x.bytes).getD i 0) ∧
    (¬ accepted → t.board.recovery = true ∧ (t.inbox = [] → step t = .next { t with gcyc := t.gcyc + 1 }))
end

