-- ==== Sys2Proof/Laws/State.lean ====
section
/-! SUPPORT. What each update of the state and of a task leaves in each field, so that no later proof unfolds a record
update. -/

namespace Sys2Proof.Machine

variable (s : State) (t : Task)

/-! ### Replacing the task in focus -/

@[simp] theorem State.setTask_on : (s.setTask t).on = s.on := rfl
@[simp] theorem State.setTask_cur : (s.setTask t).cur = { s.cur with task := t } := rfl
@[simp] theorem State.setTask_parked : (s.setTask t).parked = s.parked := rfl
@[simp] theorem State.setTask_nextUid : (s.setTask t).nextUid = s.nextUid := rfl
@[simp] theorem State.setTask_ctxs : (s.setTask t).ctxs = s.ctxs := rfl
@[simp] theorem State.setTask_mem : (s.setTask t).mem = s.mem := rfl
@[simp] theorem State.setTask_health : (s.setTask t).health = s.health := rfl
@[simp] theorem State.setTask_fabric : (s.setTask t).fabric = s.fabric := rfl
@[simp] theorem State.setTask_board : (s.setTask t).board = s.board := rfl
@[simp] theorem State.setTask_gcyc : (s.setTask t).gcyc = s.gcyc := rfl
@[simp] theorem State.setTask_tick : (s.setTask t).tick = s.tick := rfl
@[simp] theorem State.setTask_inbox : (s.setTask t).inbox = s.inbox := rfl

@[simp] theorem State.setTask_task : (s.setTask t).task = t := rfl
@[simp] theorem State.setTask_setTask (u : Task) : (s.setTask t).setTask u = s.setTask u := rfl

/-! ### Changing the task in focus -/

@[simp] theorem State.mapTask_on (f : Task → Task) : (s.mapTask f).on = s.on := rfl
@[simp] theorem State.mapTask_cur (f : Task → Task) : (s.mapTask f).cur = { s.cur with task := f s.task } := rfl
@[simp] theorem State.mapTask_parked (f : Task → Task) : (s.mapTask f).parked = s.parked := rfl
@[simp] theorem State.mapTask_nextUid (f : Task → Task) : (s.mapTask f).nextUid = s.nextUid := rfl
@[simp] theorem State.mapTask_ctxs (f : Task → Task) : (s.mapTask f).ctxs = s.ctxs := rfl
@[simp] theorem State.mapTask_mem (f : Task → Task) : (s.mapTask f).mem = s.mem := rfl
@[simp] theorem State.mapTask_health (f : Task → Task) : (s.mapTask f).health = s.health := rfl
@[simp] theorem State.mapTask_fabric (f : Task → Task) : (s.mapTask f).fabric = s.fabric := rfl
@[simp] theorem State.mapTask_board (f : Task → Task) : (s.mapTask f).board = s.board := rfl
@[simp] theorem State.mapTask_gcyc (f : Task → Task) : (s.mapTask f).gcyc = s.gcyc := rfl
@[simp] theorem State.mapTask_tick (f : Task → Task) : (s.mapTask f).tick = s.tick := rfl
@[simp] theorem State.mapTask_inbox (f : Task → Task) : (s.mapTask f).inbox = s.inbox := rfl

@[simp] theorem State.mapTask_task (f : Task → Task) : (s.mapTask f).task = f s.task := rfl

/-! ### Writing a scalar register -/

@[simp] theorem Task.setSregAt_fr (fb i : Nat) (v : Word) : (t.setSregAt fb i v).fr = t.fr.set (sregAt fb i) v := rfl
@[simp] theorem Task.setSregAt_sq (fb i : Nat) (v : Word) : (t.setSregAt fb i v).sq = t.sq := rfl
@[simp] theorem Task.setSregAt_preds (fb i : Nat) (v : Word) : (t.setSregAt fb i v).preds = t.preds := rfl
@[simp] theorem Task.setSregAt_masks (fb i : Nat) (v : Word) : (t.setSregAt fb i v).masks = t.masks := rfl
@[simp] theorem Task.setSregAt_vregs (fb i : Nat) (v : Word) : (t.setSregAt fb i v).vregs = t.vregs := rfl
@[simp] theorem Task.setSregAt_ports (fb i : Nat) (v : Word) : (t.setSregAt fb i v).ports = t.ports := rfl
@[simp] theorem Task.setSregAt_pipe (fb i : Nat) (v : Word) : (t.setSregAt fb i v).pipe = t.pipe := rfl
@[simp] theorem Task.setSregAt_eddy (fb i : Nat) (v : Word) : (t.setSregAt fb i v).eddy = t.eddy := rfl
@[simp] theorem Task.setSregAt_fmt (fb i : Nat) (v : Word) : (t.setSregAt fb i v).fmt = t.fmt := rfl
@[simp] theorem Task.setSregAt_fmtPend (fb i : Nat) (v : Word) : (t.setSregAt fb i v).fmtPend = t.fmtPend := rfl
@[simp] theorem Task.setSregAt_lmem (fb i : Nat) (v : Word) : (t.setSregAt fb i v).lmem = t.lmem := rfl
@[simp] theorem Task.setSregAt_foot (fb i : Nat) (v : Word) : (t.setSregAt fb i v).foot = t.foot := rfl
@[simp] theorem Task.setSregAt_queues (fb i : Nat) (v : Word) : (t.setSregAt fb i v).queues = t.queues := rfl
@[simp] theorem Task.setSregAt_cmds (fb i : Nat) (v : Word) : (t.setSregAt fb i v).cmds = t.cmds := rfl
@[simp] theorem Task.setSregAt_nextCmd (fb i : Nat) (v : Word) : (t.setSregAt fb i v).nextCmd = t.nextCmd := rfl
@[simp] theorem Task.setSregAt_echk (fb i : Nat) (v : Word) : (t.setSregAt fb i v).echk = t.echk := rfl
@[simp] theorem Task.setSregAt_mxa (fb i : Nat) (v : Word) : (t.setSregAt fb i v).mxa = t.mxa := rfl
@[simp] theorem Task.setSregAt_mxb (fb i : Nat) (v : Word) : (t.setSregAt fb i v).mxb = t.mxb := rfl
@[simp] theorem Task.setSregAt_tagOn (fb i : Nat) (v : Word) : (t.setSregAt fb i v).tagOn = t.tagOn := rfl
@[simp] theorem Task.setSregAt_tagGen (fb i : Nat) (v : Word) : (t.setSregAt fb i v).tagGen = t.tagGen := rfl
@[simp] theorem Task.setSregAt_loads (fb i : Nat) (v : Word) : (t.setSregAt fb i v).loads = t.loads := rfl
@[simp] theorem Task.setSregAt_arrivals (fb i : Nat) (v : Word) : (t.setSregAt fb i v).arrivals = t.arrivals := rfl
@[simp] theorem Task.setSregAt_tstat (fb i : Nat) (v : Word) : (t.setSregAt fb i v).tstat = t.tstat := rfl
@[simp] theorem Task.setSregAt_rounds (fb i : Nat) (v : Word) : (t.setSregAt fb i v).rounds = t.rounds := rfl
@[simp] theorem Task.setSregAt_restart (fb i : Nat) (v : Word) : (t.setSregAt fb i v).restart = t.restart := rfl
@[simp] theorem Task.setSregAt_calls (fb i : Nat) (v : Word) : (t.setSregAt fb i v).calls = t.calls := rfl

/-! ### Writing a resolved register -/

@[simp] theorem Task.setSReg_fr (r : SReg) (v : Word) : (t.setSReg r v).fr = t.fr.set r v := rfl
@[simp] theorem Task.setSReg_sq (r : SReg) (v : Word) : (t.setSReg r v).sq = t.sq := rfl
@[simp] theorem Task.setSReg_preds (r : SReg) (v : Word) : (t.setSReg r v).preds = t.preds := rfl
@[simp] theorem Task.setSReg_masks (r : SReg) (v : Word) : (t.setSReg r v).masks = t.masks := rfl
@[simp] theorem Task.setSReg_vregs (r : SReg) (v : Word) : (t.setSReg r v).vregs = t.vregs := rfl
@[simp] theorem Task.setSReg_ports (r : SReg) (v : Word) : (t.setSReg r v).ports = t.ports := rfl
@[simp] theorem Task.setSReg_pipe (r : SReg) (v : Word) : (t.setSReg r v).pipe = t.pipe := rfl
@[simp] theorem Task.setSReg_eddy (r : SReg) (v : Word) : (t.setSReg r v).eddy = t.eddy := rfl
@[simp] theorem Task.setSReg_fmt (r : SReg) (v : Word) : (t.setSReg r v).fmt = t.fmt := rfl
@[simp] theorem Task.setSReg_fmtPend (r : SReg) (v : Word) : (t.setSReg r v).fmtPend = t.fmtPend := rfl
@[simp] theorem Task.setSReg_lmem (r : SReg) (v : Word) : (t.setSReg r v).lmem = t.lmem := rfl
@[simp] theorem Task.setSReg_foot (r : SReg) (v : Word) : (t.setSReg r v).foot = t.foot := rfl
@[simp] theorem Task.setSReg_queues (r : SReg) (v : Word) : (t.setSReg r v).queues = t.queues := rfl
@[simp] theorem Task.setSReg_cmds (r : SReg) (v : Word) : (t.setSReg r v).cmds = t.cmds := rfl
@[simp] theorem Task.setSReg_nextCmd (r : SReg) (v : Word) : (t.setSReg r v).nextCmd = t.nextCmd := rfl
@[simp] theorem Task.setSReg_echk (r : SReg) (v : Word) : (t.setSReg r v).echk = t.echk := rfl
@[simp] theorem Task.setSReg_mxa (r : SReg) (v : Word) : (t.setSReg r v).mxa = t.mxa := rfl
@[simp] theorem Task.setSReg_mxb (r : SReg) (v : Word) : (t.setSReg r v).mxb = t.mxb := rfl
@[simp] theorem Task.setSReg_tagOn (r : SReg) (v : Word) : (t.setSReg r v).tagOn = t.tagOn := rfl
@[simp] theorem Task.setSReg_tagGen (r : SReg) (v : Word) : (t.setSReg r v).tagGen = t.tagGen := rfl
@[simp] theorem Task.setSReg_loads (r : SReg) (v : Word) : (t.setSReg r v).loads = t.loads := rfl
@[simp] theorem Task.setSReg_arrivals (r : SReg) (v : Word) : (t.setSReg r v).arrivals = t.arrivals := rfl
@[simp] theorem Task.setSReg_tstat (r : SReg) (v : Word) : (t.setSReg r v).tstat = t.tstat := rfl
@[simp] theorem Task.setSReg_rounds (r : SReg) (v : Word) : (t.setSReg r v).rounds = t.rounds := rfl
@[simp] theorem Task.setSReg_restart (r : SReg) (v : Word) : (t.setSReg r v).restart = t.restart := rfl
@[simp] theorem Task.setSReg_calls (r : SReg) (v : Word) : (t.setSReg r v).calls = t.calls := rfl

/-! ### Setting sticky flags -/

@[simp] theorem Task.addFlags_fr (f : Flags) : (t.addFlags f).fr = t.fr := rfl
@[simp] theorem Task.addFlags_sq (f : Flags) : (t.addFlags f).sq = t.sq := rfl
@[simp] theorem Task.addFlags_preds (f : Flags) : (t.addFlags f).preds = t.preds := rfl
@[simp] theorem Task.addFlags_masks (f : Flags) : (t.addFlags f).masks = t.masks := rfl
@[simp] theorem Task.addFlags_vregs (f : Flags) : (t.addFlags f).vregs = t.vregs := rfl
@[simp] theorem Task.addFlags_ports (f : Flags) : (t.addFlags f).ports = t.ports := rfl
@[simp] theorem Task.addFlags_pipe (f : Flags) : (t.addFlags f).pipe = t.pipe := rfl
@[simp] theorem Task.addFlags_eddy (f : Flags) : (t.addFlags f).eddy = t.eddy := rfl
@[simp] theorem Task.addFlags_fmt (f : Flags) : (t.addFlags f).fmt = { t.fmt with flags := t.fmt.flags.or f } := rfl
@[simp] theorem Task.addFlags_fmtPend (f : Flags) : (t.addFlags f).fmtPend = t.fmtPend := rfl
@[simp] theorem Task.addFlags_lmem (f : Flags) : (t.addFlags f).lmem = t.lmem := rfl
@[simp] theorem Task.addFlags_foot (f : Flags) : (t.addFlags f).foot = t.foot := rfl
@[simp] theorem Task.addFlags_queues (f : Flags) : (t.addFlags f).queues = t.queues := rfl
@[simp] theorem Task.addFlags_cmds (f : Flags) : (t.addFlags f).cmds = t.cmds := rfl
@[simp] theorem Task.addFlags_nextCmd (f : Flags) : (t.addFlags f).nextCmd = t.nextCmd := rfl
@[simp] theorem Task.addFlags_echk (f : Flags) : (t.addFlags f).echk = t.echk := rfl
@[simp] theorem Task.addFlags_mxa (f : Flags) : (t.addFlags f).mxa = t.mxa := rfl
@[simp] theorem Task.addFlags_mxb (f : Flags) : (t.addFlags f).mxb = t.mxb := rfl
@[simp] theorem Task.addFlags_tagOn (f : Flags) : (t.addFlags f).tagOn = t.tagOn := rfl
@[simp] theorem Task.addFlags_tagGen (f : Flags) : (t.addFlags f).tagGen = t.tagGen := rfl
@[simp] theorem Task.addFlags_loads (f : Flags) : (t.addFlags f).loads = t.loads := rfl
@[simp] theorem Task.addFlags_arrivals (f : Flags) : (t.addFlags f).arrivals = t.arrivals := rfl
@[simp] theorem Task.addFlags_tstat (f : Flags) : (t.addFlags f).tstat = t.tstat := rfl
@[simp] theorem Task.addFlags_rounds (f : Flags) : (t.addFlags f).rounds = t.rounds := rfl
@[simp] theorem Task.addFlags_restart (f : Flags) : (t.addFlags f).restart = t.restart := rfl
@[simp] theorem Task.addFlags_calls (f : Flags) : (t.addFlags f).calls = t.calls := rfl

/-! ### Setting TAINT -/

@[simp] theorem Task.setTaint_fr : (t.setTaint).fr = t.fr := rfl
@[simp] theorem Task.setTaint_sq : (t.setTaint).sq = t.sq := rfl
@[simp] theorem Task.setTaint_preds : (t.setTaint).preds = t.preds := rfl
@[simp] theorem Task.setTaint_masks : (t.setTaint).masks = t.masks := rfl
@[simp] theorem Task.setTaint_vregs : (t.setTaint).vregs = t.vregs := rfl
@[simp] theorem Task.setTaint_ports : (t.setTaint).ports = t.ports := rfl
@[simp] theorem Task.setTaint_pipe : (t.setTaint).pipe = t.pipe := rfl
@[simp] theorem Task.setTaint_eddy : (t.setTaint).eddy = t.eddy := rfl
@[simp] theorem Task.setTaint_fmt : (t.setTaint).fmt = t.fmt := rfl
@[simp] theorem Task.setTaint_fmtPend : (t.setTaint).fmtPend = t.fmtPend := rfl
@[simp] theorem Task.setTaint_lmem : (t.setTaint).lmem = t.lmem := rfl
@[simp] theorem Task.setTaint_foot : (t.setTaint).foot = t.foot := rfl
@[simp] theorem Task.setTaint_queues : (t.setTaint).queues = t.queues := rfl
@[simp] theorem Task.setTaint_cmds : (t.setTaint).cmds = t.cmds := rfl
@[simp] theorem Task.setTaint_nextCmd : (t.setTaint).nextCmd = t.nextCmd := rfl
@[simp] theorem Task.setTaint_echk : (t.setTaint).echk = t.echk := rfl
@[simp] theorem Task.setTaint_mxa : (t.setTaint).mxa = t.mxa := rfl
@[simp] theorem Task.setTaint_mxb : (t.setTaint).mxb = t.mxb := rfl
@[simp] theorem Task.setTaint_tagOn : (t.setTaint).tagOn = t.tagOn := rfl
@[simp] theorem Task.setTaint_tagGen : (t.setTaint).tagGen = t.tagGen := rfl
@[simp] theorem Task.setTaint_loads : (t.setTaint).loads = t.loads := rfl
@[simp] theorem Task.setTaint_arrivals : (t.setTaint).arrivals = t.arrivals := rfl
@[simp] theorem Task.setTaint_tstat : (t.setTaint).tstat = { t.tstat with taint := true } := rfl
@[simp] theorem Task.setTaint_rounds : (t.setTaint).rounds = t.rounds := rfl
@[simp] theorem Task.setTaint_restart : (t.setTaint).restart = t.restart := rfl
@[simp] theorem Task.setTaint_calls : (t.setTaint).calls = t.calls := rfl

/-! ### A result in flight -/

@[simp] theorem Task.push_fr (p : Pipe) : (t.push p).fr = t.fr := rfl
@[simp] theorem Task.push_sq (p : Pipe) : (t.push p).sq = t.sq := rfl
@[simp] theorem Task.push_preds (p : Pipe) : (t.push p).preds = t.preds := rfl
@[simp] theorem Task.push_masks (p : Pipe) : (t.push p).masks = t.masks := rfl
@[simp] theorem Task.push_vregs (p : Pipe) : (t.push p).vregs = t.vregs := rfl
@[simp] theorem Task.push_ports (p : Pipe) : (t.push p).ports = t.ports := rfl
@[simp] theorem Task.push_pipe (p : Pipe) : (t.push p).pipe = t.pipe ++ [p] := rfl
@[simp] theorem Task.push_eddy (p : Pipe) : (t.push p).eddy = t.eddy := rfl
@[simp] theorem Task.push_fmt (p : Pipe) : (t.push p).fmt = t.fmt := rfl
@[simp] theorem Task.push_fmtPend (p : Pipe) : (t.push p).fmtPend = t.fmtPend := rfl
@[simp] theorem Task.push_lmem (p : Pipe) : (t.push p).lmem = t.lmem := rfl
@[simp] theorem Task.push_foot (p : Pipe) : (t.push p).foot = t.foot := rfl
@[simp] theorem Task.push_queues (p : Pipe) : (t.push p).queues = t.queues := rfl
@[simp] theorem Task.push_cmds (p : Pipe) : (t.push p).cmds = t.cmds := rfl
@[simp] theorem Task.push_nextCmd (p : Pipe) : (t.push p).nextCmd = t.nextCmd := rfl
@[simp] theorem Task.push_echk (p : Pipe) : (t.push p).echk = t.echk := rfl
@[simp] theorem Task.push_mxa (p : Pipe) : (t.push p).mxa = t.mxa := rfl
@[simp] theorem Task.push_mxb (p : Pipe) : (t.push p).mxb = t.mxb := rfl
@[simp] theorem Task.push_tagOn (p : Pipe) : (t.push p).tagOn = t.tagOn := rfl
@[simp] theorem Task.push_tagGen (p : Pipe) : (t.push p).tagGen = t.tagGen := rfl
@[simp] theorem Task.push_loads (p : Pipe) : (t.push p).loads = t.loads := rfl
@[simp] theorem Task.push_arrivals (p : Pipe) : (t.push p).arrivals = t.arrivals := rfl
@[simp] theorem Task.push_tstat (p : Pipe) : (t.push p).tstat = t.tstat := rfl
@[simp] theorem Task.push_rounds (p : Pipe) : (t.push p).rounds = t.rounds := rfl
@[simp] theorem Task.push_restart (p : Pipe) : (t.push p).restart = t.restart := rfl
@[simp] theorem Task.push_calls (p : Pipe) : (t.push p).calls = t.calls := rfl

/-! ### Pending FMTSETs take effect -/

@[simp] theorem Task.settleFmt_fr : (t.settleFmt).fr = t.fr := rfl
@[simp] theorem Task.settleFmt_sq : (t.settleFmt).sq = t.sq := rfl
@[simp] theorem Task.settleFmt_preds : (t.settleFmt).preds = t.preds := rfl
@[simp] theorem Task.settleFmt_masks : (t.settleFmt).masks = t.masks := rfl
@[simp] theorem Task.settleFmt_vregs : (t.settleFmt).vregs = t.vregs := rfl
@[simp] theorem Task.settleFmt_ports : (t.settleFmt).ports = t.ports := rfl
@[simp] theorem Task.settleFmt_pipe : (t.settleFmt).pipe = t.pipe := rfl
@[simp] theorem Task.settleFmt_eddy : (t.settleFmt).eddy = t.eddy := rfl
@[simp] theorem Task.settleFmt_lmem : (t.settleFmt).lmem = t.lmem := rfl
@[simp] theorem Task.settleFmt_foot : (t.settleFmt).foot = t.foot := rfl
@[simp] theorem Task.settleFmt_queues : (t.settleFmt).queues = t.queues := rfl
@[simp] theorem Task.settleFmt_cmds : (t.settleFmt).cmds = t.cmds := rfl
@[simp] theorem Task.settleFmt_nextCmd : (t.settleFmt).nextCmd = t.nextCmd := rfl
@[simp] theorem Task.settleFmt_echk : (t.settleFmt).echk = t.echk := rfl
@[simp] theorem Task.settleFmt_mxa : (t.settleFmt).mxa = t.mxa := rfl
@[simp] theorem Task.settleFmt_mxb : (t.settleFmt).mxb = t.mxb := rfl
@[simp] theorem Task.settleFmt_tagOn : (t.settleFmt).tagOn = t.tagOn := rfl
@[simp] theorem Task.settleFmt_tagGen : (t.settleFmt).tagGen = t.tagGen := rfl
@[simp] theorem Task.settleFmt_loads : (t.settleFmt).loads = t.loads := rfl
@[simp] theorem Task.settleFmt_arrivals : (t.settleFmt).arrivals = t.arrivals := rfl
@[simp] theorem Task.settleFmt_tstat : (t.settleFmt).tstat = t.tstat := rfl
@[simp] theorem Task.settleFmt_rounds : (t.settleFmt).rounds = t.rounds := rfl
@[simp] theorem Task.settleFmt_restart : (t.settleFmt).restart = t.restart := rfl
@[simp] theorem Task.settleFmt_calls : (t.settleFmt).calls = t.calls := rfl

end Sys2Proof.Machine
end

