-- ==== Sys2Proof/Laws/Issue.lean ====
section
/-! SUPPORT. What an issue can do, said once: the state after a bundle of one slot, or an LIW of one native row, from a calm
unit. -/

namespace Sys2Proof.Machine

theorem Still.notTannery {s : State} (h : Still s) : s.cur.kind ≠ .tannery := by
  rcases h.kind with e | e <;> rw [e] <;> decide

theorem Still.notFirmware {s : State} (h : Still s) : s.cur.isFirmware = false := by
  rcases h.kind with e | e <;> simp [QUnit.isFirmware, e]

/-! ### Coming up -/

theorem Task.settleFmt_nil {t : Task} (h : t.fmtPend = []) : t.settleFmt = t := by
  cases t
  simp only at h
  subst h
  rfl

theorem comeUp_task {s : State} (h : s.task.fmtPend = []) : (comeUp s).task = s.task := Task.settleFmt_nil h

/-! ### Register writes -/

/-- What register writes leave alone: everything but registers, predicates, masks and vector registers. -/
theorem applyWrite_keeps (fb : Nat) (t : Task) (w : RegWrite) :
    (applyWrite fb t w).pipe = t.pipe ∧ (applyWrite fb t w).queues = t.queues ∧ (applyWrite fb t w).cmds = t.cmds
      ∧ (applyWrite fb t w).lmem = t.lmem ∧ (applyWrite fb t w).sq = t.sq ∧ (applyWrite fb t w).fmtPend = t.fmtPend
      ∧ (applyWrite fb t w).loads = t.loads := by
  cases w with
  | sreg i v => exact ⟨rfl, rfl, rfl, rfl, rfl, rfl, rfl⟩
  | pred p b => simp only [applyWrite, Task.setPred]; split <;> exact ⟨rfl, rfl, rfl, rfl, rfl, rfl, rfl⟩
  | mask k m v => simp only [applyWrite, Task.setMask]; split <;> exact ⟨rfl, rfl, rfl, rfl, rfl, rfl, rfl⟩
  | lanes v first xs m => exact ⟨rfl, rfl, rfl, rfl, rfl, rfl, rfl⟩

theorem applyWrites_keep (fb : Nat) (l : List RegWrite) (t : Task) :
    (l.foldl (applyWrite fb) t).pipe = t.pipe ∧ (l.foldl (applyWrite fb) t).queues = t.queues
      ∧ (l.foldl (applyWrite fb) t).sq = t.sq := by
  induction l generalizing t with
  | nil => exact ⟨rfl, rfl, rfl⟩
  | cons w r ih =>
    have h := applyWrite_keeps fb t w
    have i := ih (applyWrite fb t w)
    exact ⟨i.1.trans h.1, i.2.1.trans h.2.1, i.2.2.trans h.2.2.2.2.1⟩

/-! ### Results in flight -/

theorem foldl_id {α β : Type} (l : List α) (f : β → α → β) (b : β) (h : ∀ x ∈ l, f b x = b) : l.foldl f b = b := by
  induction l with
  | nil => rfl
  | cons x r ih =>
    rw [List.foldl_cons, h x List.mem_cons_self]
    exact ih fun y hy => h y (List.mem_cons_of_mem _ hy)

theorem foldl_keeps {α β γ : Type} (g : β → γ) (l : List α) (f : β → α → β) (b : β) (h : ∀ c x, g (f c x) = g c) :
    g (l.foldl f b) = g b := by
  induction l generalizing b with
  | nil => rfl
  | cons x r ih => exact (ih (f b x)).trans (h b x)

theorem retireLatch_queues (t : Task) (p : Pipe) : (t.retireLatch p).queues = t.queues := by
  simp only [Task.retireLatch, Task.addFlags]
  split <;> rfl

theorem retireVreg_queues (t : Task) (p : Pipe) : (t.retireVreg p).queues = t.queues := by
  simp only [Task.retireVreg]
  split <;> rfl

theorem retireLatches_nil (upto : Nat) {t : Task} (h : t.pipe = []) : retireLatches upto t = t := by
  unfold retireLatches
  apply foldl_id
  intro i _
  simp [h]

theorem retireVregs_nil (upto : Nat) {t : Task} (h : t.pipe = []) : retireVregs upto t = t := by
  have e : (List.range (upto - t.sq.tau)).foldl (fun (u : Task) (i : Nat) =>
      ((t.pipe.filter fun p => p.ready ≤ upto).filter fun p => if i = 0 then p.ready ≤ t.sq.tau + 1
        else p.ready = t.sq.tau + 1 + i).foldl Task.retireVreg u) t = t := by
    apply foldl_id
    intro i _
    simp [h]
  cases t
  simp only at h
  subst h
  simp_all [retireVregs]

theorem captureAll_nil (lm : Sparse 8) (upto : Nat) {t : Task} (h : t.cmds = []) : captureAll lm upto t = t := by
  cases t
  simp only at h
  subst h
  rfl

/-! ### Queue accounting -/

theorem advance_zero {b : QBind} (h : b.head < b.depth ∧ b.tail < b.depth) : b.advance 0 0 = b := by
  cases b
  simp only [QBind.advance] at *
  simp [Nat.mod_eq_of_lt h.1, Nat.mod_eq_of_lt h.2]

theorem applyAcct_nil {t : Task} (h : ∀ b ∈ t.queues, b.head < b.depth ∧ b.tail < b.depth) : applyAcct t [] = t := by
  have e : t.queues.map (fun b => b.advance (advances [] b.j).1 (advances [] b.j).2) = t.queues := by
    conv => rhs; rw [← List.map_id t.queues]
    apply List.map_congr_left
    intro b hb
    exact advance_zero (h b hb)
  have f : ∀ qs : List QBind, qs.filter (fun b => ([] : List (Nat × Nat × Nat)).any fun x => x.1 = b.j) = [] := by simp
  cases t
  simp only [applyAcct, f, List.foldl_nil] at *
  rw [e]

/-! ### One result in flight -/

theorem range_succ_foldl {β : Type} (P : β → Prop) (k : Nat) (f : β → Nat → β) (b : β) (h0 : P (f b 0))
    (h : ∀ c i, P c → 0 < i → f c i = c) : (List.range (k + 1)).foldl f b = f b 0 := by
  induction k with
  | zero => rfl
  | succ k ih => rw [List.range_succ, List.foldl_append, ih, List.foldl_cons, List.foldl_nil, h _ _ h0 (by omega)]

theorem retireLatch_sq (t : Task) (p : Pipe) : (t.retireLatch p).sq = t.sq := by
  simp only [Task.retireLatch, Task.addFlags]
  split <;> rfl

theorem retireLatch_pipe (t : Task) (p : Pipe) : (t.retireLatch p).pipe = t.pipe := by
  simp only [Task.retireLatch, Task.addFlags]
  split <;> rfl

/-- A result that becomes readable at the next τ arrives in its latch, with its flags (R117, R66). -/
theorem retireLatches_one {t : Task} {p : Pipe} {upto : Nat} (h : t.pipe = [p]) (hr : p.ready = t.sq.tau + 1)
    (hu : t.sq.tau + 1 ≤ upto) : retireLatches upto t = t.retireLatch p := by
  obtain ⟨k, hk⟩ : ∃ k, upto - t.sq.tau = k + 1 := ⟨upto - t.sq.tau - 1, by omega⟩
  have e0 : (decide (p.ready ≤ upto)) = true := by simp; omega
  have e1 : (decide (p.ready ≤ t.sq.tau + 1)) = true := by simp; omega
  unfold retireLatches
  rw [hk, range_succ_foldl fun c => c.sq = t.sq]
  · simp only [h, List.filter_cons, List.filter_nil, if_true, e0, e1, List.foldl_cons, List.foldl_nil]
  · simp only [h, List.filter_cons, List.filter_nil, if_true, e0, e1, List.foldl_cons, List.foldl_nil]
    exact retireLatch_sq t p
  · intro c i hc hi
    have e : (decide (p.ready = t.sq.tau + 1 + i)) = false := by simp; omega
    have i0 : i ≠ 0 := by omega
    simp only [h, List.filter_cons, List.filter_nil, if_true, e0, i0, if_false, hc, e]
    rfl

/-- A later result stays in flight. -/
theorem retireLatches_late {t : Task} {p : Pipe} {upto : Nat} (h : t.pipe = [p]) (hr : upto < p.ready) :
    retireLatches upto t = t := by
  unfold retireLatches
  apply foldl_id
  intro i _
  have e : ¬ p.ready ≤ upto := by omega
  simp [h, e]

/-- A result of another kind than a vector load leaves flight when it has become readable. -/
theorem retireVregs_one {t : Task} {p : Pipe} {upto : Nat} (h : t.pipe = [p]) (hd : ∀ c v, p.dest ≠ .vreg c v) :
    retireVregs upto t = { t with pipe := if upto < p.ready then [p] else [] } := by
  have hv : ∀ u : Task, u.retireVreg p = u := by
    intro u
    unfold Task.retireVreg
    split
    · next c v he => exact absurd he (hd c v)
    · rfl
  have e : (List.range (upto - t.sq.tau)).foldl (fun (u : Task) (i : Nat) =>
      ((t.pipe.filter fun p => p.ready ≤ upto).filter fun p => if i = 0 then p.ready ≤ u.sq.tau + 1
        else p.ready = u.sq.tau + 1 + i).foldl Task.retireVreg u) t = t := by
    apply foldl_id
    intro i _
    apply foldl_id
    intro x hx
    have : x = p := by
      have hm := (List.mem_filter.mp (List.mem_filter.mp hx).1).1
      rw [h] at hm
      simpa using hm
    rw [this, hv]
  unfold retireVregs
  dsimp only
  rw [e]
  simp only [h, List.filter_cons, List.filter_nil, decide_eq_true_eq]

/-- A vector load that is not readable yet stays in flight. -/
theorem retireVregs_late {t : Task} {p : Pipe} {upto : Nat} (h : t.pipe = [p]) (hr : upto < p.ready) :
    retireVregs upto t = t := by
  have e0 : (decide (p.ready ≤ upto)) = false := by simp; omega
  have e : (List.range (upto - t.sq.tau)).foldl (fun (u : Task) (i : Nat) =>
      ((t.pipe.filter fun p => p.ready ≤ upto).filter fun p => if i = 0 then p.ready ≤ u.sq.tau + 1
        else p.ready = u.sq.tau + 1 + i).foldl Task.retireVreg u) t = t := by
    apply foldl_id
    intro i _
    simp [h, e0]
  unfold retireVregs
  dsimp only
  rw [e]
  cases t
  simp_all

/-! ### The end of an issue -/

/-- The writes at the end of an issue that neither calls, loops nor touches a queue. -/
theorem endWrites_plain (lm0 : Sparse 8) (fb upto : Nat) {a : Acc} {t : Task} (hp : a.post = []) (ha : a.acct = [])
    (hc : t.cmds = []) (hq : ∀ b ∈ t.queues, b.head < b.depth ∧ b.tail < b.depth) :
    endWrites lm0 fb upto a t = retireVregs upto (a.regs.foldl (applyWrite fb)
      (retireLatches upto { t with lmem := ssetMany (ssetMany t.lmem a.store0) a.store1 })) := by
  have hq' : ∀ u : Task, u.queues = t.queues → applyAcct u [] = u := fun u hu => applyAcct_nil (by rw [hu]; exact hq)
  have hr : ∀ (u : Task), (retireLatches upto u).queues = u.queues := by
    intro u
    unfold retireLatches
    refine foldl_keeps Task.queues _ _ _ ?_
    intro c i
    exact foldl_keeps Task.queues _ _ _ retireLatch_queues
  have hv : ∀ (u : Task), (retireVregs upto u).queues = u.queues := by
    intro u
    unfold retireVregs
    dsimp only
    refine foldl_keeps Task.queues _ _ _ ?_
    intro c i
    exact foldl_keeps Task.queues _ _ _ retireVreg_queues
  have hcap := captureAll_nil lm0 upto (t := { t with lmem := ssetMany (ssetMany t.lmem a.store0) a.store1 }) hc
  unfold endWrites
  simp only [hp, ha, List.foldl_nil, List.filter_nil, hcap]
  apply hq'
  rw [hv, (applyWrites_keep fb a.regs _).2.1, hr]

theorem charge_kind (engine : Nat) (es : List (Nat × Nat)) (s : State) : (s.charge engine es).cur.kind = s.cur.kind := rfl

theorem passTau_kind (lag trigs : Nat) (peman point inside : Bool) (s : State) :
    (passTau lag trigs peman point inside s).cur.kind = s.cur.kind := charge_kind ..

/-- What is left of an issue whose writes are done: the end of a bundle before native code, and time (R79, R317). `within` tells that
it came up inside a unit. -/
def settled (lag trigs : Nat) (point peman within : Bool) (s : State) : State :=
  let s1 := if peman && !s.inPeman then { s.mapTask (openPorts s.tick) with tick := s.tick + 1 } else s
  passTau lag trigs peman point (within && s1.task.inUnit) s1

theorem settled_kind (lag trigs : Nat) (point peman within : Bool) (s : State) :
    (settled lag trigs point peman within s).cur.kind = s.cur.kind := by
  unfold settled
  rw [passTau_kind]
  split <;> rfl

/-- The whole issue, once its checks and triggers have passed, when it neither calls, loops, waits nor leaves its unit. -/
theorem finish_plain (s0 : State) (pc next : Word) (lag trigs : Nat) (peman : Bool) (able : QUnit → Bool) {a : Acc}
    (hw : a.wait = none) (hp : a.post = []) (ha : a.acct = []) (hf : a.after = .go) (hk : a.st.cur.kind ≠ .tannery)
    (hs : a.st.cur.status = s0.cur.status) :
    finish s0 pc next lag trigs peman able a = .ok (settled lag trigs a.target.isSome peman s0.task.inUnit
      (({ a.st with cur := { a.st.cur with status := .ready } }.mapTask
        (endWrites s0.task.lmem s0.task.fr.fb (s0.task.sq.tau + 1) a)).mapTask (advancePc next a))) := by
  have h1 : acctOk s0.task a.acct = true := by rw [ha]; rfl
  have h2 : a.post.any movesFrame = false := by rw [hp]; rfl
  have h3 : a.post.contains .endLevel = false := by rw [hp]; rfl
  have hl : leavesCore a.after = false := by rw [hf]; rfl
  have hr : a.st.stillReady s0.cur.status = { a.st with cur := { a.st.cur with status := .ready } } := by
    unfold State.stillReady
    rw [if_pos hs]
  unfold finish
  rw [hw, hr]
  dsimp only
  rw [h1, hl]
  simp only [Bool.not_true, Bool.false_and, Bool.false_eq_true, if_false]
  unfold endFrames endRoutine
  rw [h2, hf, h3]
  simp only [Bool.false_eq_true, if_false, Bool.or_false, Nat.add_zero]
  have hk2 : ∀ x : State, x.cur.kind ≠ .tannery → follow pc able .go x = x := by
    intro x hx
    unfold follow
    dsimp only
    exact if_neg (by simp [hx])
  refine congrArg Except.ok ?_
  refine hk2 _ ?_
  rw [passTau_kind]
  generalize hX : State.mapTask (State.mapTask _ _) _ = X
  have hX2 : X.cur.kind ≠ .tannery := by rw [← hX]; exact hk
  split
  · exact hX2
  · exact hX2

/-! ### Every pending FMTSET takes effect -/

@[simp] theorem Task.settleAllFmt_fr (t : Task) : (t.settleAllFmt).fr = t.fr := rfl
@[simp] theorem Task.settleAllFmt_sq (t : Task) : (t.settleAllFmt).sq = t.sq := rfl
@[simp] theorem Task.settleAllFmt_preds (t : Task) : (t.settleAllFmt).preds = t.preds := rfl
@[simp] theorem Task.settleAllFmt_masks (t : Task) : (t.settleAllFmt).masks = t.masks := rfl
@[simp] theorem Task.settleAllFmt_vregs (t : Task) : (t.settleAllFmt).vregs = t.vregs := rfl
@[simp] theorem Task.settleAllFmt_ports (t : Task) : (t.settleAllFmt).ports = t.ports := rfl
@[simp] theorem Task.settleAllFmt_pipe (t : Task) : (t.settleAllFmt).pipe = t.pipe := rfl
@[simp] theorem Task.settleAllFmt_lmem (t : Task) : (t.settleAllFmt).lmem = t.lmem := rfl
@[simp] theorem Task.settleAllFmt_foot (t : Task) : (t.settleAllFmt).foot = t.foot := rfl
@[simp] theorem Task.settleAllFmt_queues (t : Task) : (t.settleAllFmt).queues = t.queues := rfl
@[simp] theorem Task.settleAllFmt_cmds (t : Task) : (t.settleAllFmt).cmds = t.cmds := rfl
@[simp] theorem Task.settleAllFmt_nextCmd (t : Task) : (t.settleAllFmt).nextCmd = t.nextCmd := rfl
@[simp] theorem Task.settleAllFmt_echk (t : Task) : (t.settleAllFmt).echk = t.echk := rfl
@[simp] theorem Task.settleAllFmt_mxa (t : Task) : (t.settleAllFmt).mxa = t.mxa := rfl
@[simp] theorem Task.settleAllFmt_mxb (t : Task) : (t.settleAllFmt).mxb = t.mxb := rfl
@[simp] theorem Task.settleAllFmt_tagOn (t : Task) : (t.settleAllFmt).tagOn = t.tagOn := rfl
@[simp] theorem Task.settleAllFmt_tagGen (t : Task) : (t.settleAllFmt).tagGen = t.tagGen := rfl
@[simp] theorem Task.settleAllFmt_loads (t : Task) : (t.settleAllFmt).loads = t.loads := rfl
@[simp] theorem Task.settleAllFmt_arrivals (t : Task) : (t.settleAllFmt).arrivals = t.arrivals := rfl
@[simp] theorem Task.settleAllFmt_tstat (t : Task) : (t.settleAllFmt).tstat = t.tstat := rfl
@[simp] theorem Task.settleAllFmt_rounds (t : Task) : (t.settleAllFmt).rounds = t.rounds := rfl
@[simp] theorem Task.settleAllFmt_restart (t : Task) : (t.settleAllFmt).restart = t.restart := rfl
@[simp] theorem Task.settleAllFmt_calls (t : Task) : (t.settleAllFmt).calls = t.calls := rfl

/-! ### The unit in focus is ready again -/

@[simp] theorem State.stillReady_on (s : State) (w : UnitStatus) : (s.stillReady w).on = s.on := rfl
@[simp] theorem State.stillReady_parked (s : State) (w : UnitStatus) : (s.stillReady w).parked = s.parked := rfl
@[simp] theorem State.stillReady_nextUid (s : State) (w : UnitStatus) : (s.stillReady w).nextUid = s.nextUid := rfl
@[simp] theorem State.stillReady_ctxs (s : State) (w : UnitStatus) : (s.stillReady w).ctxs = s.ctxs := rfl
@[simp] theorem State.stillReady_mem (s : State) (w : UnitStatus) : (s.stillReady w).mem = s.mem := rfl
@[simp] theorem State.stillReady_health (s : State) (w : UnitStatus) : (s.stillReady w).health = s.health := rfl
@[simp] theorem State.stillReady_fabric (s : State) (w : UnitStatus) : (s.stillReady w).fabric = s.fabric := rfl
@[simp] theorem State.stillReady_board (s : State) (w : UnitStatus) : (s.stillReady w).board = s.board := rfl
@[simp] theorem State.stillReady_gcyc (s : State) (w : UnitStatus) : (s.stillReady w).gcyc = s.gcyc := rfl
@[simp] theorem State.stillReady_tick (s : State) (w : UnitStatus) : (s.stillReady w).tick = s.tick := rfl
@[simp] theorem State.stillReady_inbox (s : State) (w : UnitStatus) : (s.stillReady w).inbox = s.inbox := rfl
@[simp] theorem State.stillReady_task (s : State) (w : UnitStatus) : (s.stillReady w).task = s.task := rfl
@[simp] theorem State.stillReady_status (s : State) (w : UnitStatus) : (s.stillReady w).cur.status = if s.cur.status = w then .ready else s.cur.status := rfl

end Sys2Proof.Machine
end

