-- ==== Sys2Proof/Laws/Bundle.lean ====
section
/-! SUPPORT. A bundle of one operation from a calm unit: the state after it. -/

namespace Sys2Proof.Machine

/-- What the operation of a lone bundle sees (R30). -/
def opTrig (s : State) (i : Instr) : Trig :=
  { s0 := comeUp s, pc := s.task.sq.pc, next := s.task.sq.pc + 16, bus := slotNumber i, nt := 0, val := 0, lanes := [],
    ports := s.task.ports, perf := [] }

/-- The accumulator with which a bundle starts. -/
def opAcc (s : State) : Acc := Acc.init { comeUp s with tick := s.tick + 1 }

theorem not_pending {t : Task} (h : t.loads = []) (r : SReg) : t.pending r = false := by simp [Task.pending, h]

theorem lateFault_nil {t : Task} (h : t.cmds = []) : lateFault t = none := by simp [lateFault, h]

/-- A bundle of one operation whose guard holds runs that operation and finishes. -/
theorem runBundle_calm {s : State} {i : Instr} {sl : Slot} (able : QUnit → Bool) (h : Calm s) (hs : slotOf i = some sl)
    (hg : guardOn s sl.gd = true) :
    runBundle (comeUp s) [(slotNumber i, i)] able = (match sl.run (opTrig s i) (opAcc s) with
      | .error x => .error x
      | .ok a => finish (comeUp s) s.task.sq.pc (s.task.sq.pc + 16) (bundleLag s) (bundleTrigs s) true able a) := by
  have ht : (comeUp s).task = s.task := comeUp_task h.fmt
  have hk : (comeUp s).tick = s.tick := rfl
  unfold runBundle
  simp only [ht, hk, h.noEnd, lateFault_nil h.cmds, not_pending h.loads, Bool.false_and, Bool.false_eq_true, if_false]
  simp only [bundleSlots, List.filterMap_cons, List.filterMap_nil, hs, Option.map_some]
  have hn : ∀ l : List (Nat × Slot), l.any (fun x => x.2.regs.any fun _ => false) = false := by
    intro l
    rw [List.any_eq_false]
    intro x _
    simp
  simp only [hn, Bool.false_eq_true, if_false, foldHalt, performSlot]
  have hg' : s.task.guard sl.gd.p.toNat sl.gd.n = true := hg
  simp only [Trig.t, ht, hg', if_true]
  have e : sl.run (opTrig s i) (opAcc s) = sl.run
      { s0 := comeUp s, pc := s.task.sq.pc, next := s.task.sq.pc + 16, bus := slotNumber i, nt := 0, val := 0,
        lanes := [], ports := s.task.ports, perf := [] } (Acc.init { comeUp s with tick := s.tick + 1 }) := rfl
  rw [e]
  generalize sl.run _ _ = X
  cases X <;> rfl

/-- A bundle of one operation whose guard does not hold does nothing. -/
theorem runBundle_off {s : State} {i : Instr} {sl : Slot} (able : QUnit → Bool) (h : Calm s) (hs : slotOf i = some sl)
    (hg : guardOn s sl.gd = false) :
    runBundle (comeUp s) [(slotNumber i, i)] able =
      finish (comeUp s) s.task.sq.pc (s.task.sq.pc + 16) (bundleLag s) (bundleTrigs s) true able (opAcc s) := by
  have ht : (comeUp s).task = s.task := comeUp_task h.fmt
  have hk : (comeUp s).tick = s.tick := rfl
  unfold runBundle
  simp only [ht, hk, h.noEnd, lateFault_nil h.cmds, not_pending h.loads, Bool.false_and, Bool.false_eq_true, if_false]
  simp only [bundleSlots, List.filterMap_cons, List.filterMap_nil, hs, Option.map_some]
  have hn : ∀ l : List (Nat × Slot), l.any (fun x => x.2.regs.any fun _ => false) = false := by
    intro l
    rw [List.any_eq_false]
    intro x _
    simp
  have hg' : s.task.guard sl.gd.p.toNat sl.gd.n = false := hg
  simp only [hn, Bool.false_eq_true, if_false, foldHalt, performSlot, Trig.t, ht, hg']
  rfl

/-- An issue from a unit in focus that completes. -/
theorem issueOp_ok {s t : State} {i : Instr} (h : s.on = true)
    (hr : runBundle (comeUp s) [(slotNumber i, i)] (couldIssue (comeUp s)) = .ok t) : issueOp i s = t := by
  unfold issueOp issueBundle
  simp only [h, Bool.not_true, Bool.false_eq_true, if_false, hr, settleIssue]

/-- The state after an issue whose writes are those of `a` on task `u` and memory `m`. -/
theorem settled_reached (s : State) (m : Memory) (peman : Bool) (lag trigs : Nat) (u : Task) (a : Acc) (f g : Task → Task)
    (hst : a.st = ({ comeUp s with tick := if peman then s.tick + 1 else s.tick, mem := m } : State).setTask u) :
    settled lag trigs a.target.isSome peman s.task.inUnit
        (({ a.st with cur := { a.st.cur with status := .ready } }.mapTask f).mapTask g) =
      reached { s with mem := m } peman lag trigs a.target.isSome fun _ => g (f u) := by
  rw [hst]
  rfl

/-- A lone operation that completes from a calm unit, with effects on the task and on memory alone. -/
theorem issueOp_done {s : State} {i : Instr} {sl : Slot} {a : Acc} {u : Task} {m : Memory} (h : Calm s)
    (hs : slotOf i = some sl) (hg : guardOn s sl.gd = true) (hr : sl.run (opTrig s i) (opAcc s) = .ok a)
    (hw : a.wait = none) (hp : a.post = []) (ha : a.acct = []) (hf : a.after = .go)
    (hst : a.st = ({ comeUp s with tick := s.tick + 1, mem := m } : State).setTask u) :
    issueOp i s = reached { s with mem := m } true (bundleLag s) (bundleTrigs s) a.target.isSome fun _ =>
      advancePc (s.task.sq.pc + 16) a (endWrites s.task.lmem s.task.fr.fb (s.task.sq.tau + 1) a u) := by
  apply issueOp_ok h.on
  rw [runBundle_calm _ h hs hg, hr]
  have hk : a.st.cur.kind ≠ .tannery := by rw [hst]; exact h.notTannery
  have e := finish_plain (comeUp s) s.task.sq.pc (s.task.sq.pc + 16) (bundleLag s) (bundleTrigs s) true (couldIssue (comeUp s)) hw hp ha hf hk
    (by rw [hst]; rfl)
  rw [comeUp_task h.fmt] at e
  exact e.trans (congrArg Except.ok (settled_reached s m true (bundleLag s) (bundleTrigs s) u a _ _ hst))

theorem reached_congr {s : State} {peman point : Bool} {lag trigs : Nat} {f g : Task → Task}
    (h : f (comeUp s).task = g (comeUp s).task) : reached s peman lag trigs point f = reached s peman lag trigs point g := by
  have e : ∀ k : Task → Task, reached s peman lag trigs point k = reached s peman lag trigs point fun _ => k (comeUp s).task :=
    fun _ => rfl
  rw [e f, e g, h]

/-- The bundle of an operation that writes registers and nothing else. -/
theorem issueOp_regs {s : State} {i : Instr} {sl : Slot} (h : Calm s) (hs : slotOf i = some sl) (hg : guardOn s sl.gd = true)
    (ws : List RegWrite) (hr : sl.run (opTrig s i) (opAcc s) = .ok { opAcc s with regs := ws }) :
    issueOp i s = bundled s fun t => ws.foldl (applyWrite t.fr.fb) t := by
  rw [issueOp_done (u := s.task) (m := s.mem) h hs hg hr rfl rfl rfl rfl
    (by rw [← comeUp_task h.fmt]; rfl)]
  rw [endWrites_plain _ _ _ rfl rfl h.cmds h.queues]
  show reached s true (bundleLag s) (bundleTrigs s) false (fun _ => advancePc _ _ (retireVregs _ (ws.foldl _ (retireLatches _ s.task)))) = _
  rw [retireLatches_nil _ h.pipe, retireVregs_nil]
  · apply reached_congr
    rw [comeUp_task h.fmt]
    show ({ ws.foldl _ s.task with sq := _ } : Task) = ({ ws.foldl _ s.task with sq := _ } : Task)
    rw [(applyWrites_keep s.task.fr.fb ws s.task).2.2]
  · rw [(applyWrites_keep _ ws _).1, h.pipe]

/-- The bundle of an operation that writes registers and stores to LOCAL. -/
theorem issueOp_local {s : State} {i : Instr} {sl : Slot} (h : Calm s) (hs : slotOf i = some sl) (hg : guardOn s sl.gd = true)
    (ws : List RegWrite) (st : List (Nat × Byte))
    (hr : sl.run (opTrig s i) (opAcc s) = .ok { opAcc s with regs := ws, store0 := st }) :
    issueOp i s = bundled s fun t => ws.foldl (applyWrite t.fr.fb) { t with lmem := ssetMany t.lmem st } := by
  rw [issueOp_done (u := s.task) (m := s.mem) h hs hg hr rfl rfl rfl rfl
    (by rw [← comeUp_task h.fmt]; rfl)]
  rw [endWrites_plain _ _ _ rfl rfl h.cmds h.queues]
  show reached s true (bundleLag s) (bundleTrigs s) false (fun _ => advancePc _ _ (retireVregs _ (ws.foldl _ (retireLatches _
    { s.task with lmem := ssetMany s.task.lmem st })))) = _
  have hp : ({ s.task with lmem := ssetMany s.task.lmem st } : Task).pipe = [] := h.pipe
  rw [retireLatches_nil _ hp, retireVregs_nil]
  · apply reached_congr
    rw [comeUp_task h.fmt]
    show ({ ws.foldl (applyWrite s.task.fr.fb) { s.task with lmem := ssetMany s.task.lmem st } with sq := _ } : Task) =
      ({ ws.foldl (applyWrite s.task.fr.fb) { s.task with lmem := ssetMany s.task.lmem st } with sq := _ } : Task)
    rw [(applyWrites_keep s.task.fr.fb ws _).2.2]
  · rw [(applyWrites_keep _ ws _).1, hp]

/-- An operation that faults: the bundle has no effect, and the fault is taken (R79). -/
theorem issueOp_fault {s : State} {i : Instr} {sl : Slot} {f : FaultInfo} (h : Calm s) (hs : slotOf i = some sl)
    (hg : guardOn s sl.gd = true) (hr : sl.run (opTrig s i) (opAcc s) = .error (.fault f)) :
    issueOp i s = faulted (comeUp s) f := by
  unfold issueOp issueBundle
  simp only [h.on, Bool.not_true, Bool.false_eq_true, if_false]
  rw [runBundle_calm _ h hs hg, hr]
  rfl

end Sys2Proof.Machine
end

