-- ==== Sys2Proof/Laws/Fabric.lean ====
section
/-! SUPPORT. What sending fabric messages does, said once. -/

namespace Sys2Proof.Machine

/-- A change of a context that keeps numbers and tables keeps what tables a number has. -/
theorem mapCtx_tab (s : State) (c x : Nat) (f : Ctx → Ctx) (hi : ∀ y, (f y).id = y.id) (ht : ∀ y, (f y).tab = y.tab) :
    ((s.mapCtx c f).ctx? x).map (fun y => y.tab) = (s.ctx? x).map fun y => y.tab := by
  simp only [State.ctx?, State.mapCtx]
  induction s.ctxs with
  | nil => rfl
  | cons y ys ih =>
    have e : (if y.id = c then f y else y).id = y.id := by split <;> simp [hi]
    have et : (if y.id = c then f y else y).tab = y.tab := by split <;> simp [ht]
    simp only [List.map_cons, List.find?_cons, e]
    cases decide (y.id = x) with
    | true => simp [et]
    | false => exact ih

/-- What sending one message does, for a context that stands. -/
theorem emit_sends {s : State} {cid dst : Nat} {m : Msg} {c : Ctx} (h : s.ctx? cid = some c) :
    Sends s (emit s cid dst m) cid c.tab dst m := by
  simp only [Sends, emit, h]

/-- Sending keeps the tables of every context. -/
theorem emit_tab (s : State) (cid dst x : Nat) (m : Msg) :
    ((emit s cid dst m).ctx? x).map (fun y => y.tab) = (s.ctx? x).map fun y => y.tab := by
  have step : ∀ s : State, ((s.addEnergy cid agentCore 5 (flitEnergy m)).ctx? x).map (fun y => y.tab) = (s.ctx? x).map fun y => y.tab :=
    fun s => mapCtx_tab s cid x (fun c => { c with energy := { c.energy with metered := meterAdd c.energy.metered (flitEnergy m) } })
      (fun _ => rfl) fun _ => rfl
  cases h : s.ctx? cid <;> simp only [emit, h] <;> (repeat' split) <;> first | rfl | exact step _

/-- What sending several messages in turn does. -/
theorem emits_sendAll {cid : Nat} {b : BraidTab} (l : List (Nat × Msg)) {s : State} (h : (s.ctx? cid).map (fun c => c.tab) = some b) :
    SendsAll cid b l s (l.foldl (fun s x => emit s cid x.1 x.2) s) := by
  induction l generalizing s with
  | nil => rfl
  | cons x xs ih =>
    obtain ⟨c, hc, rfl⟩ := Option.map_eq_some_iff.mp h
    exact ⟨_, emit_sends hc, ih ((emit_tab s cid x.1 cid x.2).trans h)⟩
end Sys2Proof.Machine
end

