-- ==== Sys2Proof/Laws/Native.lean ====
section
/-! SUPPORT. The LIW of one native row from a calm unit: what its trigger sees, and the state after it. -/

namespace Sys2Proof.Machine

/-- What the trigger of a lone native row sees (R44). -/
def rowTrig (s : State) (dst : BitVec 10) (m : Mv) : Trig :=
  { s0 := comeUp s, pc := s.task.sq.pc, next := s.task.sq.pc + BitVec.ofNat 64 (liwBytes (liwOfMove dst m)), bus := 0, nt := 0,
    val := moved s m, lanes := [], ports := s.task.ports, perf := [(0, { dst := dst, mv := m }, 0)] }

/-- The accumulator with which a lone native row starts. -/
def rowAcc (s : State) : Acc := Acc.init (comeUp s)

theorem liwOfMove_moves (dst : BitVec 10) (m : Mv) : liwBusMoves (liwOfMove dst m) = [(0, { dst := dst, mv := m })] := by
  have h : liwBuses (liwOfMove dst m) = [0] := by
    show setBits 1 ++ (setBits 0).map (· + 32) = [0]
    decide
  unfold liwBusMoves
  rw [h]
  rfl

theorem liwOfMove_longs (dst : BitVec 10) (m : Mv) :
    withLongs (liwBusMoves (liwOfMove dst m)) (liwOfMove dst m).longs = [(0, { dst := dst, mv := m }, 0)] := by
  rw [liwOfMove_moves]
  cases h : isLong m <;> simp [withLongs, liwOfMove, h]

theorem livePath_lone (t : Task) (dst : BitVec 10) (m : Mv) : livePath t (liwOfMove dst m) = 5 := rfl

theorem latchEarly_nil {t : Task} (h : t.cmds = []) (bus : Nat) (m : Mv) : latchEarly t bus m = none := by
  have e : ∀ a n, earlyRead t a n = false := by
    intro a n
    simp [earlyRead, h]
  unfold latchEarly
  split
  · rfl
  · split
    · rfl
    · simp [earlyHead, e]

theorem isTrigA_writable {p : Nat} (h : isTrigA p = true) : writableA p = true := by
  unfold writableA
  rw [h]
  simp

theorem isTrigA_bounds {p : Nat} (h : isTrigA p = true) : 64 ≤ p ∧ 4 ≤ p % 64 := by
  simp only [isTrigA, inUnitA, Bool.and_eq_true, decide_eq_true_eq] at h
  exact ⟨h.1.1.1, h.1.2⟩

theorem liwLegal_lone {s : State} {dst : BitVec 10} {m : Mv} (hf : Fires s m) (hd : isTrigA dst.toNat = true) :
    liwLegal (liwOfMove dst m) = true := by
  have hm := liwOfMove_moves dst m
  have hp : movePortsOk 0 { dst := dst, mv := m } = true := by
    have hsrc : (m.imm || isLong m || readableA m.src.toNat) = true := by
      rcases hf.src with h | h | h <;> simp [h]
    simp only [movePortsOk, isTrigA_writable hd, Bool.true_and]
    exact hsrc
  have ht : moveTagOk 0 m = true := by
    have hl : m.lf.toNat ≠ 7 := fun e => hf.flag (BitVec.eq_of_toNat_eq e)
    have hg : m.tag.toNat = 0 ∨ m.tag.toNat = 5 := by
      rcases hf.tag with h | h <;> rw [h] <;> decide
    rcases hg with h | h <;> simp [moveTagOk, h, hl]
  have hs : liwSpareTestsZero (liwOfMove dst m) = true := by
    show ((List.range 4).all fun k => k < 0 || (0 : BitVec 20).extractLsb' (5 * k) 5 = 0) = true
    decide
  unfold liwLegal
  simp only [hm, hs, List.all_cons, List.all_nil, hp, allPairs, Bool.and_true, transferCount]
  have h0 : (liwOfMove dst m).nt.toNat = 0 := rfl
  have h1 : (liwOfMove dst m).targets = [] := rfl
  rw [h0, h1, ht]
  simp only [List.all_nil, decide_true, Bool.true_or, Bool.and_true, Bool.true_and, Nat.zero_le, decide_eq_true_eq]
  exact Nat.le_trans (List.length_filter_le _ _) (Nat.le_refl 1)

theorem endlPlain_lone {dst : BitVec 10} {m : Mv} (h : dst.toNat ≠ 75) : endlPlain (liwOfMove dst m) = true := by
  unfold endlPlain
  rw [liwOfMove_moves]
  simp [h]

theorem liwAllowed_lone {s : State} {dst : BitVec 10} {m : Mv} (h : Calm s) (hf : Fires s m)
    (hd : isTrigA dst.toNat = true) (hn : dst.toNat ≠ 75) : liwAllowed (comeUp s) (liwOfMove dst m) = true := by
  have hw : (comeUp s).cur.isFirmware = false := by
    exact h.notFirmware
  have hp : ∀ t : Task, pathTarget t (liwOfMove dst m) = none := fun t => rfl
  unfold liwAllowed
  rw [liwLegal_lone hf hd, endlPlain_lone hn, hw, comeUp_task h.fmt, h.noEnd, hp]
  rfl

theorem trigCount_lone {dst : BitVec 10} (m : Mv) (hd : isTrigA dst.toNat = true) :
    trigCount [(0, { dst := dst, mv := m }, 0)] = rowTrigs dst := by
  simp [trigCount, rowTrigs, hd]

/-- The LIW of a lone native row runs its trigger and finishes. -/
theorem runLiw_calm {s : State} {dst : BitVec 10} {m : Mv} (able : QUnit → Bool) (h : Calm s) (hf : Fires s m)
    (hd : isTrigA dst.toNat = true) (hn : dst.toNat ≠ 75) (hpr : privFault s dst.toNat (moved s m) = false) :
    runLiw (comeUp s) (liwOfMove dst m) able = (match trigA dst.toNat (rowTrig s dst m) (rowAcc s) with
      | .error x => .error x
      | .ok a => finish (comeUp s) s.task.sq.pc (s.task.sq.pc + BitVec.ofNat 64 (liwBytes (liwOfMove dst m))) 0 (rowTrigs dst) false able a) := by
  have ht : (comeUp s).task = s.task := comeUp_task h.fmt
  have hb := isTrigA_bounds hd
  have hperf : (withLongs (liwBusMoves (liwOfMove dst m)) (liwOfMove dst m).longs).filter
      (fun x => moveLive s.task (livePath s.task (liwOfMove dst m)) x.2.1.mv) = [(0, { dst := dst, mv := m }, 0)] := by
    rw [liwOfMove_longs, livePath_lone]
    simp [hf.live]
  have hprv : privMove (comeUp s) [(0, { dst := dst, mv := m }, 0)] = none := by
    have e : privFault (comeUp s) dst.toNat (sourceA s.task m 0) = false := hpr
    simp only [privMove, ht, List.find?_cons, e, Bool.and_false]
    rfl
  have hdel : deliver s.task s.task.ports (0, { dst := dst, mv := m }, 0) = s.task.ports := by
    unfold deliver
    simp only [show (0 : Nat) < 32 by decide, if_true]
    rw [if_neg]
    simp
    omega
  have hmv : moveWrite s.task (0, { dst := dst, mv := m }, 0) = none := by
    unfold moveWrite
    simp only [show (0 : Nat) < 32 by decide, if_true]
    rw [if_neg (by omega), if_neg (by omega)]
  have hpop : popHeads (liwOfMove dst m).pop = [] := by
    show popHeads 0 = []
    decide
  have hpt : pathTarget s.task (liwOfMove dst m) = none := rfl
  unfold runLiw
  simp only [ht, liwAllowed_lone h hf hd hn, Bool.not_true, Bool.false_eq_true, if_false, lateFault_nil h.cmds, hperf,
    not_pending h.loads, hprv, hpop, hpt, List.foldl_cons, List.foldl_nil, hdel, List.filterMap_cons, List.filterMap_nil, hmv,
    foldHalt, List.any_cons, List.any_nil, Bool.or_false]
  have hany : ∀ l : List SReg, l.any (fun _ => false) = false := by
    intro l
    simp
  simp only [hany, Bool.false_eq_true, if_false]
  unfold performMove
  simp only [Trig.t, ht, latchEarly_nil h.cmds, show (0 : Nat) < 32 by decide, if_true, hd]
  have hacc : ({ Acc.init ((comeUp s).mapTask fun t => { t with ports := s.task.ports }) with
      regs := [], acct := [], target := none } : Acc) = rowAcc s := by
    have : (comeUp s).mapTask (fun t => { t with ports := s.task.ports }) = comeUp s := by
      rw [← ht]
      rfl
    rw [this]
    rfl
  have e : trigA dst.toNat (rowTrig s dst m) (rowAcc s) = trigA dst.toNat
      { s0 := comeUp s, pc := s.task.sq.pc, next := s.task.sq.pc + BitVec.ofNat 64 (liwBytes (liwOfMove dst m)), bus := 0,
        nt := (liwOfMove dst m).nt.toNat, val := sourceA s.task m 0, lanes := [], ports := s.task.ports,
        perf := [(0, { dst := dst, mv := m }, 0)] }
      { Acc.init ((comeUp s).mapTask fun t => { t with ports := s.task.ports }) with regs := [], acct := [], target := none } := by
    rw [hacc]
    rfl
  rw [e, trigCount_lone m hd]
  generalize trigA _ _ _ = X
  cases X <;> rfl

/-- The issue of a native row is that of the LIW that holds it (R42). -/
theorem issueNative_liw {s : State} {i : Instr} {l : Liw} (hl : liwOf i = some l) : issueNative i s = issueLiw l s := by
  unfold issueNative
  rw [hl]

theorem issueRow_ok {s t : State} {dst : BitVec 10} {m : Mv} (h : s.on = true)
    (hr : runLiw (comeUp s) (liwOfMove dst m) (couldIssue (comeUp s)) = .ok t) : issueLiw (liwOfMove dst m) s = t := by
  unfold issueLiw
  simp only [h, Bool.not_true, Bool.false_eq_true, if_false, hr, settleIssue]

/-- A lone native row that completes from a calm unit, whatever its trigger changes in the state. -/
theorem issueRow_settled {s : State} {dst : BitVec 10} {m : Mv} {a : Acc} (h : Calm s) (hf : Fires s m)
    (hd : isTrigA dst.toNat = true) (hn : dst.toNat ≠ 75)
    (hpr : privFault s dst.toNat (moved s m) = false) (hr : trigA dst.toNat (rowTrig s dst m) (rowAcc s) = .ok a)
    (hw : a.wait = none) (hp : a.post = []) (ha : a.acct = []) (hg : a.after = .go) (hk : a.st.cur.kind ≠ .tannery)
    (hs : a.st.cur.status = s.cur.status) :
    issueLiw (liwOfMove dst m) s = settled 0 (rowTrigs dst) a.target.isSome false s.task.inUnit
      (({ a.st with cur := { a.st.cur with status := .ready } }.mapTask
        (endWrites s.task.lmem s.task.fr.fb (s.task.sq.tau + 1) a)).mapTask
          (advancePc (s.task.sq.pc + BitVec.ofNat 64 (liwBytes (liwOfMove dst m))) a)) := by
  apply issueRow_ok h.on
  rw [runLiw_calm _ h hf hd hn hpr, hr]
  have e := finish_plain (comeUp s) s.task.sq.pc (s.task.sq.pc + BitVec.ofNat 64 (liwBytes (liwOfMove dst m))) 0 (rowTrigs dst) false
    (couldIssue (comeUp s)) hw hp ha hg hk hs
  rw [comeUp_task h.fmt] at e
  exact e

/-- A lone native row whose trigger changes the task and memory alone. -/
theorem issueRow_done {s : State} {dst : BitVec 10} {m : Mv} {a : Acc} {u : Task} {mm : Memory} (h : Calm s)
    (hf : Fires s m) (hd : isTrigA dst.toNat = true) (hn : dst.toNat ≠ 75)
    (hpr : privFault s dst.toNat (moved s m) = false) (hr : trigA dst.toNat (rowTrig s dst m) (rowAcc s) = .ok a)
    (hw : a.wait = none) (hp : a.post = []) (ha : a.acct = []) (hg : a.after = .go)
    (hst : a.st = ({ comeUp s with mem := mm } : State).setTask u) :
    issueLiw (liwOfMove dst m) s = reached { s with mem := mm } false 0 (rowTrigs dst) a.target.isSome fun _ =>
      advancePc (s.task.sq.pc + BitVec.ofNat 64 (liwBytes (liwOfMove dst m))) a
        (endWrites s.task.lmem s.task.fr.fb (s.task.sq.tau + 1) a u) := by
  have hk : a.st.cur.kind ≠ .tannery := by rw [hst]; exact h.notTannery
  rw [issueRow_settled h hf hd hn hpr hr hw hp ha hg hk (by rw [hst]; rfl)]
  exact settled_reached s mm false 0 (rowTrigs dst) u a _ _ (by rw [hst]; rfl)

/-- See `issueRow_done`, when the trigger changes the task alone. -/
theorem issueRow_own {s : State} {dst : BitVec 10} {m : Mv} {a : Acc} {u : Task} (h : Calm s)
    (hf : Fires s m) (hd : isTrigA dst.toNat = true) (hn : dst.toNat ≠ 75)
    (hpr : privFault s dst.toNat (moved s m) = false) (hr : trigA dst.toNat (rowTrig s dst m) (rowAcc s) = .ok a)
    (hw : a.wait = none) (hp : a.post = []) (ha : a.acct = []) (hg : a.after = .go) (hst : a.st = (comeUp s).setTask u) :
    issueLiw (liwOfMove dst m) s = reached s false 0 (rowTrigs dst) a.target.isSome fun _ =>
      advancePc (s.task.sq.pc + BitVec.ofNat 64 (liwBytes (liwOfMove dst m))) a
        (endWrites s.task.lmem s.task.fr.fb (s.task.sq.tau + 1) a u) :=
  issueRow_done (mm := s.mem) h hf hd hn hpr hr hw hp ha hg hst

theorem Flags.or_none (f : Flags) : f.or Flags.none = f := by
  cases f
  simp [Flags.or, Flags.none]

theorem Task.addFlags_none (t : Task) : t.addFlags Flags.none = t := by
  unfold Task.addFlags
  rw [Flags.or_none]

/-- A result of latency 1 stands in its place after its issue (R117). -/
theorem retire_one {t : Task} {p : Pipe} (h : t.pipe = [p]) (hr : p.ready = t.sq.tau + 1) (hd : ∀ c v, p.dest ≠ .vreg c v) :
    retireVregs (t.sq.tau + 1) (retireLatches (t.sq.tau + 1) t) = { t.retireLatch p with pipe := [] } := by
  rw [retireLatches_one h hr (Nat.le_refl _), retireVregs_one (retireLatch_pipe t p ▸ h) hd, hr, if_neg (Nat.lt_irrefl _)]

theorem retireLatch_scalar (t : Task) (r port : Nat) (v : Word) :
    t.retireLatch { ready := r, dest := .latchA port, val := v, lanes := [], mask := 0, flags := Flags.none } =
      { t with ports := t.ports.setA port v } := Task.addFlags_none _

/-- A lone native row whose trigger changes the task by `f` and gives one result of latency 1 (R117). -/
theorem issueRow_result' {s : State} {dst : BitVec 10} {m : Mv} (h : Calm s) (hf : Fires s m)
    (hd : isTrigA dst.toNat = true) (hn : dst.toNat ≠ 75)
    (hpr : privFault s dst.toNat (moved s m) = false) (f : Task → Task) (port : Nat) (v : Word)
    (hr : trigA dst.toNat (rowTrig s dst m) (rowAcc s) = .ok (((rowAcc s).mapTask f).result 1 port v Flags.none))
    (hc : (f s.task).cmds = []) (hpi : (f s.task).pipe = []) (hq : (f s.task).queues = s.task.queues)
    (htau : (f s.task).sq.tau = s.task.sq.tau) (hpc : (f s.task).sq.pc = s.task.sq.pc) :
    issueLiw (liwOfMove dst m) s = issued s dst m fun t => { f t with ports := (f t).ports.setA port v } := by
  have ht := comeUp_task h.fmt
  rw [issueRow_own (u := (f s.task).result 1 port v Flags.none) h hf hd hn hpr hr rfl rfl rfl rfl (by rw [← ht]; rfl)]
  apply reached_congr
  rw [endWrites_plain (t := (f s.task).result 1 port v Flags.none) _ _ _ rfl rfl hc (fun b hb => h.queues b (hq ▸ hb)), ht]
  have hpipe : ((f s.task).result 1 port v Flags.none).pipe =
      [{ ready := (f s.task).sq.tau + 1, dest := .latchA port, val := v, lanes := [], mask := 0, flags := Flags.none }] := by
    show (f s.task).pipe ++ _ = _
    rw [hpi]
    rfl
  show advancePc _ _ (retireVregs _ (retireLatches _ ((f s.task).result 1 port v Flags.none))) = _
  rw [← htau]
  have e := retire_one hpipe rfl (by intro c r; simp)
  rw [show (retireVregs ((f s.task).sq.tau + 1) (retireLatches ((f s.task).sq.tau + 1) ((f s.task).result 1 port v Flags.none)))
    = _ from e, retireLatch_scalar]
  show ({ f s.task with pipe := [], ports := _, sq := _ } : Task) = _
  rw [← hpi, ← hpc]
  rfl

/-- A lone native row whose trigger gives one result of latency 1: it stands in its latch (R117). -/
theorem issueRow_result {s : State} {dst : BitVec 10} {m : Mv} (h : Calm s) (hf : Fires s m)
    (hd : isTrigA dst.toNat = true) (hn : dst.toNat ≠ 75)
    (hpr : privFault s dst.toNat (moved s m) = false) (port : Nat) (v : Word)
    (hr : trigA dst.toNat (rowTrig s dst m) (rowAcc s) = .ok ((rowAcc s).result 1 port v Flags.none)) :
    issueLiw (liwOfMove dst m) s = issued s dst m fun t => { t with ports := t.ports.setA port v } :=
  issueRow_result' h hf hd hn hpr id port v hr h.cmds h.pipe rfl rfl rfl

/-- A lone native row whose trigger gives one result of a greater latency: it is in flight (R117). -/
theorem issueRow_later {s : State} {dst : BitVec 10} {m : Mv} (h : Calm s) (hf : Fires s m)
    (hd : isTrigA dst.toNat = true) (hn : dst.toNat ≠ 75)
    (hpr : privFault s dst.toNat (moved s m) = false) (p : Pipe) (hp : s.task.sq.tau + 1 < p.ready)
    (hr : trigA dst.toNat (rowTrig s dst m) (rowAcc s) = .ok ((rowAcc s).mapTask fun t => t.push p)) :
    issueLiw (liwOfMove dst m) s = issued s dst m fun t => t.push p := by
  have ht := comeUp_task h.fmt
  rw [issueRow_own (u := s.task.push p) h hf hd hn hpr hr rfl rfl rfl rfl (by rw [← ht]; rfl)]
  apply reached_congr
  rw [endWrites_plain (t := s.task.push p) _ _ _ rfl rfl h.cmds h.queues, ht]
  have hpipe : (s.task.push p).pipe = [p] := by
    show s.task.pipe ++ _ = _
    rw [h.pipe]
    rfl
  show advancePc _ _ (retireVregs _ (retireLatches _ (s.task.push p))) = _
  rw [retireLatches_late hpipe hp, retireVregs_late hpipe hp]
  rfl

/-- A lone native row whose trigger changes the task, with no result in flight and no command. -/
theorem issueRow_task {s : State} {dst : BitVec 10} {m : Mv} (h : Calm s) (hf : Fires s m)
    (hd : isTrigA dst.toNat = true) (hn : dst.toNat ≠ 75)
    (hpr : privFault s dst.toNat (moved s m) = false) (f : Task → Task)
    (hr : trigA dst.toNat (rowTrig s dst m) (rowAcc s) = .ok ((rowAcc s).mapTask f))
    (hc : (f s.task).cmds = []) (hpi : (f s.task).pipe = [])
    (hq : ∀ b ∈ (f s.task).queues, b.head < b.depth ∧ b.tail < b.depth) (hs : (f s.task).sq.pc = s.task.sq.pc) :
    issueLiw (liwOfMove dst m) s = issued s dst m f := by
  have ht := comeUp_task h.fmt
  rw [issueRow_own (u := f s.task) h hf hd hn hpr hr rfl rfl rfl rfl (by rw [← ht]; rfl)]
  apply reached_congr
  rw [endWrites_plain _ _ _ rfl rfl hc hq, ht]
  show advancePc _ _ (retireVregs _ (retireLatches _ (f s.task))) = _
  rw [retireLatches_nil _ hpi, retireVregs_nil _ hpi]
  show ({ f s.task with sq := _ } : Task) = _
  rw [← hs]
  rfl

theorem rowAcc_map {s : State} (h : Calm s) (f : Task → Task) :
    (rowAcc s).mapTask f = { rowAcc s with st := (comeUp s).setTask (f s.task) } := by
  rw [← comeUp_task h.fmt]
  rfl

/-- A lone native row whose trigger gives one result of a latency above 1 (R117). -/
theorem issueRow_delayed {s : State} {dst : BitVec 10} {m : Mv} (h : Calm s) (hf : Fires s m) (hd : isTrigA dst.toNat = true)
    (hn : dst.toNat ≠ 75) (hpr : privFault s dst.toNat (moved s m) = false) (l port : Nat) (v : Word) (f : Flags) (hl : 1 < l)
    (hr : trigA dst.toNat (rowTrig s dst m) (rowAcc s) = .ok ((rowAcc s).result l port v f)) :
    issueLiw (liwOfMove dst m) s = issued s dst m fun t => t.result l port v f := by
  have e := issueRow_later h hf hd hn hpr
    { ready := s.task.sq.tau + l, dest := .latchA port, val := v, lanes := [], mask := 0, flags := f }
    (by show _ < _ + l; omega) (by rw [hr, Acc.result, rowAcc_map h, rowAcc_map h]; rfl)
  rw [e]
  apply reached_congr
  rw [comeUp_task h.fmt]
  rfl

/-- A refused trigger sets NV and does nothing else (R375). -/
theorem issueRow_refuse {s : State} {dst : BitVec 10} {m : Mv} (h : Calm s) (hf : Fires s m) (hd : isTrigA dst.toNat = true)
    (hn : dst.toNat ≠ 75) (hpr : privFault s dst.toNat (moved s m) = false)
    (hr : trigA dst.toNat (rowTrig s dst m) (rowAcc s) = .ok (rowAcc s).refuse) :
    issueLiw (liwOfMove dst m) s = issued s dst m fun t => t.addFlags flagNv := by
  have ht := comeUp_task h.fmt
  rw [issueRow_own (u := s.task.refuse) h hf hd hn hpr hr rfl rfl rfl rfl (by rw [← ht]; rfl)]
  apply reached_congr
  have hp : s.task.refuse.pipe = [⟨s.task.sq.tau + 1, .flagsOnly, 0, [], 0, flagNv⟩] := by
    show s.task.pipe ++ _ = _
    rw [h.pipe]
    rfl
  rw [endWrites_plain (t := s.task.refuse) _ _ _ rfl rfl h.cmds h.queues, ht]
  show advancePc _ _ (retireVregs _ (retireLatches _ s.task.refuse)) = _
  have e := retire_one hp rfl (by intro c v; simp)
  rw [show retireVregs (s.task.sq.tau + 1) (retireLatches (s.task.sq.tau + 1) s.task.refuse) = _ from e]
  have hn := h.pipe
  generalize s.task = t at *
  cases t
  simp only at hn
  subst hn
  rfl

/-- A lone native row whose trigger faults (R79). -/
theorem issueRow_fault {s : State} {dst : BitVec 10} {m : Mv} {f : FaultInfo} (h : Calm s) (hf : Fires s m)
    (hd : isTrigA dst.toNat = true) (hn : dst.toNat ≠ 75) (hpr : privFault s dst.toNat (moved s m) = false)
    (hr : trigA dst.toNat (rowTrig s dst m) (rowAcc s) = .error (.fault f)) :
    issueLiw (liwOfMove dst m) s = faulted (comeUp s) f := by
  unfold issueLiw
  simp only [h.on, Bool.not_true, Bool.false_eq_true, if_false]
  rw [runLiw_calm _ h hf hd hn hpr, hr]
  rfl

end Sys2Proof.Machine
end

