-- ==== Sys2Proof/Laws/Slots.lean ====
section
/-! SUPPORT. The lone bundles and native rows of the simple shapes: one scalar register, one predicate, one float result, one
latch of a scalar unit. -/

namespace Sys2Proof.Machine

theorem opTrig_t {s : State} (i : Instr) (h : Calm s) : (opTrig s i).t = s.task := comeUp_task h.fmt

theorem rowTrig_t {s : State} (dst : BitVec 10) (m : Mv) (h : Calm s) : (rowTrig s dst m).t = s.task := comeUp_task h.fmt

/-- A lone operation that writes one scalar register. -/
theorem issueOp_write {s : State} {i : Instr} {g : Gd} {regs : List Nat} {d : BitVec 5} {f : Task → Word} (h : Calm s)
    (hg : guardOn s g = true) (hs : slotOf i = some (slotWrite g regs d f)) :
    issueOp i s = bundled s fun t => t.put d (f s.task) :=
  issueOp_regs h hs hg [.sreg d.toNat (f s.task)] (by
    show Except.ok ((opAcc s).addReg (.sreg d.toNat (f (opTrig s i).t))) = _
    rw [opTrig_t i h]
    rfl)

/-- A lone operation that writes one predicate. -/
theorem issueOp_pred {s : State} {i : Instr} {g : Gd} {regs : List Nat} {p : BitVec 4} {f : Task → Bool} (h : Calm s)
    (hg : guardOn s g = true) (hs : slotOf i = some (slotPred g regs p f)) :
    issueOp i s = bundled s fun t => t.setPred p.toNat (f s.task) :=
  issueOp_regs h hs hg [.pred p.toNat (f s.task)] (by
    show Except.ok ((opAcc s).addReg (.pred p.toNat (f (opTrig s i).t))) = _
    rw [opTrig_t i h]
    rfl)

/-- An operation whose guard does not hold leaves everything but the pc alone. -/
theorem issueOp_off {s : State} {i : Instr} {sl : Slot} (h : Calm s) (hs : slotOf i = some sl)
    (hg : guardOn s sl.gd = false) : issueOp i s = bundled s fun t => t := by
  apply issueOp_ok h.on
  rw [runBundle_off _ h hs hg]
  have e := finish_plain (comeUp s) s.task.sq.pc (s.task.sq.pc + 16) (bundleLag s) (bundleTrigs s) true (couldIssue (comeUp s))
    (a := opAcc s) rfl rfl rfl rfl h.notTannery rfl
  rw [comeUp_task h.fmt] at e
  refine e.trans (congrArg Except.ok ?_)
  refine (settled_reached s s.mem true (bundleLag s) (bundleTrigs s) s.task (opAcc s) _ _ (by rw [← comeUp_task h.fmt]; rfl)).trans ?_
  apply reached_congr
  rw [endWrites_plain _ _ _ rfl rfl h.cmds h.queues, comeUp_task h.fmt]
  show advancePc _ _ (retireVregs _ (retireLatches _ s.task)) = _
  rw [retireLatches_nil _ h.pipe, retireVregs_nil _ h.pipe]
  rfl

/-- The empty slot (R31). -/
theorem issueOp_nop {s : State} (h : Calm s) (hg : guardOn s Gd.always = true) : issueOp .nop s = bundled s fun t => t :=
  issueOp_regs h rfl hg [] rfl

theorem guardOn_always (s : State) : guardOn s Gd.always = true := rfl

/-- The triggers of sa0 and sa1, by number. -/
theorem isTrigA_scalar {p base off : Nat} (hb : ScalarUnit base) (h4 : 4 ≤ off) (h48 : off < 48) (hp : p = base + off) :
    isTrigA p = true := by
  subst hp
  have : (List.range 2).all (fun k => (List.range 44).all fun j => isTrigA (128 + 64 * k + (4 + j))) = true := by decide
  rw [List.all_eq_true] at this
  rcases hb with rfl | rfl
  · have h := this 0 (by decide)
    rw [List.all_eq_true] at h
    have := h (off - 4) (by simp; omega)
    rwa [show 128 + 64 * 0 + (4 + (off - 4)) = 128 + off by omega] at this
  · have h := this 1 (by decide)
    rw [List.all_eq_true] at h
    have := h (off - 4) (by simp; omega)
    rwa [show 128 + 64 * 1 + (4 + (off - 4)) = 192 + off by omega] at this

theorem trigA_scalar {base off : Nat} (hb : ScalarUnit base) (h48 : off < 64) (c : Trig) (a : Acc) :
    trigA (base + off) c a = trigSa base off c a := by
  rcases hb with rfl | rfl
  · unfold trigA
    rw [show (128 + off) / 64 = 2 by omega, show (128 + off) % 64 = off by omega]
    rfl
  · unfold trigA
    rw [show (192 + off) / 64 = 3 by omega, show (192 + off) % 64 = off by omega]
    rfl

/-- What is left of one result of latency 1 after an issue that also writes registers. -/
theorem endWrites_one (lm0 : Sparse 8) (fb upto : Nat) {a : Acc} {t : Task} {p : Pipe} (hp : a.post = []) (ha : a.acct = [])
    (h0 : a.store0 = []) (h1 : a.store1 = []) (hc : t.cmds = [])
    (hq : ∀ b ∈ t.queues, b.head < b.depth ∧ b.tail < b.depth) (h : t.pipe = [p]) (hr : p.ready = t.sq.tau + 1)
    (hu : t.sq.tau + 1 ≤ upto) (hd : ∀ c v, p.dest ≠ .vreg c v) :
    endWrites lm0 fb upto a t = { a.regs.foldl (applyWrite fb) (t.retireLatch p) with pipe := [] } := by
  have hs : ({ t with lmem := ssetMany (ssetMany t.lmem a.store0) a.store1 } : Task) = t := by
    rw [h0, h1]
    rfl
  rw [endWrites_plain lm0 fb upto hp ha hc hq, hs, retireLatches_one h hr hu]
  have hk : (a.regs.foldl (applyWrite fb) (t.retireLatch p)).pipe = [p] := by
    rw [(applyWrites_keep fb a.regs _).1, retireLatch_pipe, h]
  rw [retireVregs_one hk hd, if_neg (by omega)]

/-- A lone operation that writes one scalar register and sets flags. -/
theorem issueOp_float {s : State} {i : Instr} {g : Gd} {regs : List Nat} {d : BitVec 5} {f : Task → Word × Flags} (h : Calm s)
    (hg : guardOn s g = true) (hs : slotOf i = some (slotFloat g regs d f)) :
    issueOp i s = bundled s fun t => (t.put d (f s.task).1).addFlags (f s.task).2 := by
  have ht := comeUp_task h.fmt
  have hr : (slotFloat g regs d f).run (opTrig s i) (opAcc s) =
      .ok (((opAcc s).addReg (.sreg d.toNat (f s.task).1)).mapTask fun t => t.flagsAt 1 (f s.task).2) := by
    show Except.ok (((opAcc s).addReg (.sreg d.toNat (f (opTrig s i).t).1)).mapTask
      fun t => t.flagsAt 1 (f (opTrig s i).t).2) = _
    rw [opTrig_t i h]
  rw [issueOp_done (u := s.task.flagsAt 1 (f s.task).2) (m := s.mem) h hs hg hr rfl rfl rfl rfl (by rw [← ht]; rfl)]
  apply reached_congr
  have hp : (s.task.flagsAt 1 (f s.task).2).pipe = [⟨s.task.sq.tau + 1, .flagsOnly, 0, [], 0, (f s.task).2⟩] := by
    show s.task.pipe ++ _ = _
    rw [h.pipe]
    rfl
  rw [endWrites_one (t := s.task.flagsAt 1 (f s.task).2) _ _ (s.task.sq.tau + 1) rfl rfl rfl rfl h.cmds h.queues hp rfl
    (Nat.le_refl _) (by intro c v; simp), ht]
  have hn := h.pipe
  generalize s.task = t at *
  cases t
  simp only at hn
  subst hn
  rfl

/-! ### The conclusions of the statements -/

theorem writes_of {s : State} {i : Instr} {g : Gd} {regs : List Nat} {d : BitVec 5} {f : Task → Word} {v : Word} (h : Calm s)
    (hg : guardOn s g = true) (he : exec i s = .next (issueOp i s)) (hs : slotOf i = some (slotWrite g regs d f))
    (hv : f s.task = v) : Writes s i d v := by
  unfold Writes
  rw [he, issueOp_write h hg hs, hv]

theorem writesPred_of {s : State} {i : Instr} {g : Gd} {regs : List Nat} {p : BitVec 4} {f : Task → Bool} {v : Bool} (h : Calm s)
    (hg : guardOn s g = true) (he : exec i s = .next (issueOp i s)) (hs : slotOf i = some (slotPred g regs p f))
    (hv : f s.task = v) : WritesPred s i p v := by
  unfold WritesPred
  rw [he, issueOp_pred h hg hs, hv]

theorem liwIssue_result {s : State} {dst : BitVec 10} {m : Mv} (h : Calm s) (hf : Fires s m)
    (hd : isTrigA dst.toNat = true) (hn : dst.toNat ≠ 75)
    (hpr : privFault s dst.toNat (moved s m) = false) (port : Nat) (v : Word)
    (hr : trigA dst.toNat (rowTrig s dst m) (rowAcc s) = .ok ((rowAcc s).result 1 port v Flags.none)) :
    exec (.liwIssue (liwOfMove dst m)) s = .next (issued s dst m fun t => t.putPort port v) := by
  exact congrArg Host.Outcome.next (issueRow_result h hf hd hn hpr port v hr)

theorem privFault_other (s : State) {p : Nat} (v : Word) (h : p < 94 ∨ 97 < p) : privFault s p v = false := by
  unfold privFault
  split <;> first | omega | rfl

theorem gives_of {s : State} {base off : Nat} {m : Mv} (h : Calm s) (hf : Fires s m) (hb : ScalarUnit base) (h4 : 4 ≤ off)
    (h48 : off < 48) {v : Word} (hv : saResult off (s.port base) (s.port (base+1)) (s.port (base+2)) (moved s m) = v) :
    GivesY s base off m v := by
  intro dst hd
  have ht := isTrigA_scalar hb h4 h48 hd
  have hp : 94 < dst.toNat ∧ 97 < dst.toNat ∧ dst.toNat ≠ 75 := by rcases hb with rfl | rfl <;> omega
  apply liwIssue_result h hf ht hp.2.2 (privFault_other s _ (.inr hp.2.1))
  rw [hd, trigA_scalar hb (by omega)]
  unfold trigSa
  rw [← hv]
  rfl

theorem writesFloat_of {s : State} {i : Instr} {g : Gd} {regs : List Nat} {d : BitVec 5} {f : Task → Word × Flags}
    {r : Lane × Flags} (h : Calm s) (hg : guardOn s g = true) (he : exec i s = .next (issueOp i s))
    (hs : slotOf i = some (slotFloat g regs d f)) (hv : f s.task = f64 r) : WritesFloat s i d r := by
  unfold WritesFloat
  rw [he, issueOp_float h hg hs, hv]
  rfl

end Sys2Proof.Machine
end

