-- ==== Sys2Proof/Laws/Sparse.lean ====
section
/-! SUPPORT. Laws of sparse maps: what a write reads as afterwards, and the canonical form that every write keeps. -/

namespace Sys2Proof.Machine

theorem sget_cons_self {w : Nat} (k : Nat) (v : BitVec w) (r : Sparse w) : sget ((k, v) :: r) k = v := by simp [sget]

theorem sget_cons_ne {w : Nat} {a k : Nat} (v : BitVec w) (r : Sparse w) (h : a ≠ k) : sget ((a, v) :: r) k = sget r k := by
  simp [sget, h]

theorem sget_sins_self {w : Nat} (m : Sparse w) (k : Nat) (v : BitVec w) : sget (sins m k v) k = v := by
  induction m with
  | nil => simp [sins, sget]
  | cons x r ih =>
    obtain ⟨a, y⟩ := x
    unfold sins
    split
    · exact sget_cons_self k v _
    · split
      · exact sget_cons_self k v _
      · rw [sget_cons_ne y _ (by omega), ih]

theorem sget_sins_ne {w : Nat} (m : Sparse w) {k j : Nat} (v : BitVec w) (h : j ≠ k) : sget (sins m k v) j = sget m j := by
  induction m with
  | nil => simp [sins, sget, Ne.symm h]
  | cons x r ih =>
    obtain ⟨a, y⟩ := x
    unfold sins
    split
    · exact sget_cons_ne v _ (Ne.symm h)
    · split
      · next he => subst he; rw [sget_cons_ne v _ (Ne.symm h), sget_cons_ne y _ (Ne.symm h)]
      · by_cases e : a = j
        · subst e; rw [sget_cons_self, sget_cons_self]
        · rw [sget_cons_ne y _ e, sget_cons_ne y _ e, ih]

theorem sget_filter_self {w : Nat} (m : Sparse w) (k : Nat) : sget (m.filter fun x => x.1 ≠ k) k = 0 := by
  induction m with
  | nil => rfl
  | cons x r ih =>
    by_cases e : x.1 = k
    · simpa [List.filter_cons, e] using ih
    · rw [List.filter_cons_of_pos (by simpa using e)]
      exact (sget_cons_ne x.2 _ e).trans ih

theorem sget_filter_ne {w : Nat} (m : Sparse w) {k j : Nat} (h : j ≠ k) :
    sget (m.filter fun x => x.1 ≠ k) j = sget m j := by
  induction m with
  | nil => rfl
  | cons x r ih =>
    obtain ⟨a, v⟩ := x
    by_cases e : a = k
    · subst e
      rw [List.filter_cons_of_neg (by simp), ih, sget_cons_ne v r (Ne.symm h)]
    · rw [List.filter_cons_of_pos (by simpa using e)]
      by_cases f : a = j
      · subst f; rw [sget_cons_self, sget_cons_self]
      · rw [sget_cons_ne v _ f, sget_cons_ne v _ f, ih]

/-- A key reads as what was last written to it. -/
@[simp] theorem sget_sset_self {w : Nat} (m : Sparse w) (k : Nat) (v : BitVec w) : sget (sset m k v) k = v := by
  unfold sset
  split
  · next h => rw [sget_filter_self, h]
  · exact sget_sins_self m k v

/-- A write leaves every other key alone. -/
theorem sget_sset_ne {w : Nat} (m : Sparse w) {k j : Nat} (v : BitVec w) (h : j ≠ k) : sget (sset m k v) j = sget m j := by
  unfold sset
  split
  · exact sget_filter_ne m h
  · exact sget_sins_ne m v h

/-- Reading any key after a write. -/
theorem sget_sset {w : Nat} (m : Sparse w) (k j : Nat) (v : BitVec w) :
    sget (sset m k v) j = if j = k then v else sget m j := by
  split
  · next h => rw [h]; exact sget_sset_self m k v
  · next h => exact sget_sset_ne m v h

/-! ### The canonical form -/

theorem swfFrom_mono {w : Nat} (m : Sparse w) {a b : Nat} (h : a ≤ b) (hb : swfFrom b m = true) : swfFrom a m = true := by
  cases m with
  | nil => rfl
  | cons x r =>
    obtain ⟨k, v⟩ := x
    simp only [swfFrom, Bool.and_eq_true, decide_eq_true_eq] at hb ⊢
    exact ⟨⟨by omega, hb.1.2⟩, hb.2⟩

theorem swfFrom_sins {w : Nat} (m : Sparse w) {lo k : Nat} {v : BitVec w} (hv : v ≠ 0) (hk : lo ≤ k)
    (h : swfFrom lo m = true) : swfFrom lo (sins m k v) = true := by
  induction m generalizing lo with
  | nil => simp only [sins, swfFrom, hk, decide_true, Bool.true_and, Bool.and_true]; exact decide_eq_true hv
  | cons x r ih =>
    obtain ⟨a, y⟩ := x
    simp only [swfFrom, Bool.and_eq_true, decide_eq_true_eq] at h
    unfold sins
    split
    · next hl =>
      simp only [swfFrom, Bool.and_eq_true, decide_eq_true_eq]
      exact ⟨⟨hk, hv⟩, ⟨⟨by omega, h.1.2⟩, h.2⟩⟩
    · split
      · next he =>
        subst he
        simp only [swfFrom, Bool.and_eq_true, decide_eq_true_eq]
        exact ⟨⟨hk, hv⟩, h.2⟩
      · simp only [swfFrom, Bool.and_eq_true, decide_eq_true_eq]
        exact ⟨h.1, ih (by omega) h.2⟩

theorem swfFrom_filter {w : Nat} (m : Sparse w) (lo : Nat) (p : Nat × BitVec w → Bool) (h : swfFrom lo m = true) :
    swfFrom lo (m.filter p) = true := by
  induction m generalizing lo with
  | nil => exact h
  | cons x r ih =>
    obtain ⟨a, v⟩ := x
    simp only [swfFrom, Bool.and_eq_true, decide_eq_true_eq] at h
    rw [List.filter_cons]
    split
    · simp only [swfFrom, Bool.and_eq_true, decide_eq_true_eq]
      exact ⟨h.1, ih _ h.2⟩
    · exact swfFrom_mono _ (by omega) (ih _ h.2)

/-- A filtered map keeps the canonical form. -/
theorem swf_filter {w : Nat} (m : Sparse w) (p : Nat × BitVec w → Bool) (h : swf m = true) : swf (m.filter p) = true :=
  swfFrom_filter m 0 p h

/-- A write keeps the canonical form. -/
theorem swf_sset {w : Nat} (m : Sparse w) (k : Nat) (v : BitVec w) (h : swf m = true) : swf (sset m k v) = true := by
  unfold sset
  split
  · exact swf_filter m _ h
  · next hv => exact swfFrom_sins m hv (Nat.zero_le k) h

/-- Several writes keep the canonical form. -/
theorem swf_ssetMany {w : Nat} (l : List (Nat × BitVec w)) (m : Sparse w) (h : swf m = true) : swf (ssetMany m l) = true := by
  unfold ssetMany
  induction l generalizing m with
  | nil => exact h
  | cons x r ih => exact ih _ (swf_sset m x.1 x.2 h)

/-- A store of bytes keeps the canonical form. -/
theorem swf_writeBytes (bs : List Byte) (m : Sparse 8) (a : Nat) (h : swf m = true) : swf (writeBytes m a bs) = true := by
  induction bs generalizing m a with
  | nil => exact h
  | cons b r ih => exact ih _ _ (swf_sset m a b h)

/-- A store leaves every byte outside its range alone. -/
theorem sget_writeBytes_out (bs : List Byte) (m : Sparse 8) (a j : Nat) (h : j < a ∨ a + bs.length ≤ j) :
    sget (writeBytes m a bs) j = sget m j := by
  induction bs generalizing m a with
  | nil => rfl
  | cons b r ih =>
    simp only [List.length_cons] at h
    rw [writeBytes, ih _ _ (by omega), sget_sset_ne m b (by omega)]

/-- A store leaves byte `i` of its range as it was given. -/
theorem sget_writeBytes_in (bs : List Byte) (m : Sparse 8) (a i : Nat) (h : i < bs.length) :
    sget (writeBytes m a bs) (a + i) = bs.getD i 0 := by
  induction bs generalizing m a i with
  | nil => simp at h
  | cons b r ih =>
    cases i with
    | zero =>
      rw [writeBytes, sget_writeBytes_out _ _ _ _ (by omega)]
      simp
    | succ n =>
      rw [writeBytes, show a + (n + 1) = a + 1 + n by omega, ih _ _ _ (by simpa using h)]
      simp

/-- Writes to other keys leave a key alone. -/
theorem sget_ssetMany_out {w : Nat} (l : List (Nat × BitVec w)) (m : Sparse w) (j : Nat) (h : ∀ x ∈ l, x.1 ≠ j) :
    sget (ssetMany m l) j = sget m j := by
  unfold ssetMany
  induction l generalizing m with
  | nil => rfl
  | cons x r ih =>
    rw [List.foldl_cons, ih _ fun y hy => h y (List.mem_cons_of_mem _ hy)]
    exact sget_sset_ne m x.2 (Ne.symm (h x List.mem_cons_self))

/-- Writing what a list of addressed bytes holds is storing the bytes. -/
theorem ssetMany_atAddr (bs : List Byte) (m : Sparse 8) (a : Nat) : ssetMany m (atAddr a bs) = writeBytes m a bs := by
  unfold ssetMany
  induction bs generalizing m a with
  | nil => rfl
  | cons b r ih => rw [atAddr, List.foldl_cons, ih, writeBytes]

@[simp] theorem readBytes_length (m : Sparse 8) (a n : Nat) : (readBytes m a n).length = n := by
  induction n generalizing a with
  | zero => rfl
  | succ n ih => simp [readBytes, ih]

@[simp] theorem natLe_length (n x : Nat) : (natLe n x).length = n := by
  induction n generalizing x with
  | zero => rfl
  | succ n ih => simp [natLe, ih]

/-! ### Bytes and numbers -/

theorem leNat_lt (l : List Byte) : leNat l < 2 ^ (8 * l.length) := by
  induction l with
  | nil => simp [leNat]
  | cons b r ih =>
    have := b.isLt
    simp only [leNat, List.length_cons]
    rw [show 8 * (r.length + 1) = 8 * r.length + 8 by omega, Nat.pow_add]
    omega

theorem leNat_byte (l : List Byte) (k : Nat) (h : k < l.length) : leNat l / 2 ^ (8 * k) % 256 = (l.getD k 0).toNat := by
  induction l generalizing k with
  | nil => simp at h
  | cons b r ih =>
    have hb := b.isLt
    cases k with
    | zero => simp [leNat]; omega
    | succ k =>
      rw [show 8 * (k + 1) = 8 + 8 * k by omega, Nat.pow_add, ← Nat.div_div_eq_div_mul]
      simp only [leNat]
      rw [show (b.toNat + 256 * leNat r) / 2 ^ 8 = leNat r by omega, ih k (by simpa using h)]
      simp

theorem readBytes_getD (m : Sparse 8) (a n k : Nat) (h : k < n) : (readBytes m a n).getD k 0 = sget m (a + k) := by
  induction n generalizing a k with
  | zero => omega
  | succ n ih =>
    cases k with
    | zero => simp [readBytes]
    | succ k =>
      have := ih (a + 1) k (by omega)
      simp only [readBytes, List.getD_cons_succ]
      rw [this]
      congr 1
      omega

theorem readLe_byte (m : Sparse 8) (a n k : Nat) (h : k < n) : readLe m a n / 2 ^ (8 * k) % 256 = (sget m (a + k)).toNat := by
  unfold readLe
  rw [leNat_byte _ _ (by rw [readBytes_length]; exact h), readBytes_getD _ _ _ _ h]

theorem readLe_lt (m : Sparse 8) (a n : Nat) : readLe m a n < 2 ^ (8 * n) := by
  have := leNat_lt (readBytes m a n)
  rw [readBytes_length] at this
  exact this

theorem natLe_getD (n x k : Nat) (h : k < n) : (natLe n x).getD k 0 = BitVec.ofNat 8 (x / 256 ^ k) := by
  induction n generalizing x k with
  | zero => omega
  | succ n ih =>
    cases k with
    | zero => simp [natLe]
    | succ k =>
      simp only [natLe, List.getD_cons_succ]
      rw [ih _ _ (by omega), Nat.div_div_eq_div_mul, Nat.pow_succ, Nat.mul_comm]

end Sys2Proof.Machine
end

