-- ==== Sys2Proof/Laws/Local.lean ====
section
/-! SUPPORT. The checks of scratchpad accesses (R150, R158, R177) and the bytes that loads and stores move. -/

namespace Sys2Proof.Machine

theorem earlyRead_nil {t : Task} (h : t.cmds = []) (a n : Nat) : earlyRead t a n = false := by simp [earlyRead, h]

theorem localFault_none {s : State} {ea : Word} {n : Nat} (h : InLocal s ea n) : localFault s.task ea n n = none := by
  unfold localFault
  rw [if_neg (by simp [h.1]), if_neg (by have := h.2.1; omega), if_neg (by have := h.2.2; omega)]

theorem localReadFault_none {s : State} {ea : Word} {n : Nat} (hc : Calm s) (h : InLocal s ea n) :
    localReadFault s.task ea n n = none := by
  unfold localReadFault
  simp [localFault_none h, earlyRead_nil hc.cmds]

theorem hitsControl_false {s : State} {a n : Nat} (h : OffControl s a n) : hitsControl s.task a n = false := by
  unfold hitsControl
  rw [List.any_eq_false]
  intro b hb
  have := h b hb
  simp only [overlap, Bool.and_eq_true, decide_eq_true_eq]
  omega

theorem localWriteFault_none {s : State} {ea : Word} {n : Nat} (h : InLocal s ea n) (ho : OffControl s ea.toNat n) :
    localWriteFault s.task ea n n = none := by
  unfold localWriteFault
  simp [localFault_none h, hitsControl_false ho]

theorem stored_of {s : State} {a n : Nat} (v : Word) : Stored s a n v (ssetMany s.task.lmem (atAddr a (natLe n v.toNat))) := by
  intro x
  rw [ssetMany_atAddr]
  by_cases hx : a ≤ x ∧ x < a + n
  · rw [if_pos hx]
    obtain ⟨k, rfl⟩ : ∃ k, x = a + k := ⟨x - a, by omega⟩
    rw [sget_writeBytes_in _ _ _ _ (by simp; omega), natLe_getD _ _ _ (by omega), Nat.add_sub_cancel_left]
    apply BitVec.eq_of_toNat_eq
    simp [BitVec.extractLsb'_toNat, Nat.shiftRight_eq_div_pow, Nat.pow_mul]
  · rw [if_neg hx, sget_writeBytes_out _ _ _ _ (by simp; omega)]
    rfl

end Sys2Proof.Machine
end

