-- ==== Sys2Proof/Laws/Memory.lean ====
section
/-! SUPPORT. Every operation on the memories keeps their canonical form (`Memory.wf`), and the memory after reset has it. What a
write applied at a die reads as afterwards. -/

namespace Sys2Proof.Machine

theorem Memory.wf_iff (m : Memory) : m.wf = true ↔
    (swf m.view0 = true ∧ swf m.view1 = true ∧ swf m.view2 = true ∧ swf m.view3 = true) ∧
    (swf m.ws0 = true ∧ swf m.ws1 = true ∧ swf m.ws2 = true ∧ swf m.ws3 = true) ∧ ∀ r ∈ m.residue, swf r.2.2 = true := by
  simp only [Memory.wf, Bool.and_eq_true, List.all_eq_true, and_assoc]

/-- A change that leaves views, weight stores and residue as they are keeps the form. -/
theorem Memory.wf_same {m n : Memory} (h : m.wf = true) (h0 : n.view0 = m.view0) (h1 : n.view1 = m.view1)
    (h2 : n.view2 = m.view2) (h3 : n.view3 = m.view3) (w0 : n.ws0 = m.ws0) (w1 : n.ws1 = m.ws1) (w2 : n.ws2 = m.ws2)
    (w3 : n.ws3 = m.ws3) (r : n.residue = m.residue) : n.wf = true := by
  rw [Memory.wf_iff] at h ⊢
  rw [h0, h1, h2, h3, w0, w1, w2, w3, r]
  exact h

theorem Memory.wf_reset : State.reset.mem.wf = true := by decide

theorem Memory.wf_view {m : Memory} (h : m.wf = true) (d : Nat) : swf (m.view d) = true := by
  rw [Memory.wf_iff] at h
  unfold Memory.view
  split
  · exact h.1.1
  · exact h.1.2.1
  · exact h.1.2.2.1
  · exact h.1.2.2.2

theorem Memory.wf_ws {m : Memory} (h : m.wf = true) (d : Nat) : swf (m.ws d) = true := by
  rw [Memory.wf_iff] at h
  unfold Memory.ws
  split
  · exact h.2.1.1
  · exact h.2.1.2.1
  · exact h.2.1.2.2.1
  · exact h.2.1.2.2.2

theorem Memory.wf_setView {m : Memory} (h : m.wf = true) (d : Nat) {v : Sparse 8} (hv : swf v = true) :
    (m.setView d v).wf = true := by
  rw [Memory.wf_iff] at h
  unfold Memory.setView
  obtain ⟨⟨a, b, c, e⟩, ⟨w, x, y, z⟩, r⟩ := h
  split <;> rw [Memory.wf_iff] <;> refine ⟨⟨?_, ?_, ?_, ?_⟩, ⟨?_, ?_, ?_, ?_⟩, ?_⟩ <;> assumption

theorem Memory.wf_setWs {m : Memory} (h : m.wf = true) (d : Nat) {v : Sparse 8} (hv : swf v = true) :
    (m.setWs d v).wf = true := by
  rw [Memory.wf_iff] at h
  unfold Memory.setWs
  obtain ⟨⟨a, b, c, e⟩, ⟨w, x, y, z⟩, r⟩ := h
  split <;> rw [Memory.wf_iff] <;> refine ⟨⟨?_, ?_, ?_, ?_⟩, ⟨?_, ?_, ?_, ?_⟩, ?_⟩ <;> assumption

theorem wf_tlbFill {m : Memory} (h : m.wf = true) (tick core : Nat) (c : Ctx) (va : Nat) :
    (tlbFill m tick core c va).wf = true := by
  unfold tlbFill
  split
  · exact h
  · split
    · exact h
    exact Memory.wf_same h rfl rfl rfl rfl rfl rfl rfl rfl rfl

theorem wf_driftTlb {m : Memory} (h : m.wf = true) (tick : Nat) (cs : List Ctx) : (driftTlb m tick cs).wf = true :=
  Memory.wf_same h rfl rfl rfl rfl rfl rfl rfl rfl rfl

theorem wf_l2Touch {m : Memory} (h : m.wf = true) (hl : Health) (die dpa : Nat) (hint : Option Nat) (ctx : Nat) (wr : Bool) :
    (l2Touch hl m die dpa hint ctx wr).wf = true := by
  unfold l2Touch
  dsimp only
  split
  · exact Memory.wf_same h rfl rfl rfl rfl rfl rfl rfl rfl rfl
  · split
    · exact Memory.wf_same h rfl rfl rfl rfl rfl rfl rfl rfl rfl
    · split <;> exact Memory.wf_same h rfl rfl rfl rfl rfl rfl rfl rfl rfl

theorem wf_touchRead {m : Memory} (h : m.wf = true) (hl : Health) (die dpa : Nat) (hint : Option Nat) (ctx : Nat) :
    (touchRead hl m die dpa hint ctx).wf = true := by
  unfold touchRead
  refine wf_l2Touch ?_ ..
  split
  · exact h
  · exact wf_l2Touch h ..

theorem wf_applyAt {m : Memory} (h : m.wf = true) (w : DevWrite) (die : Nat) : (applyAt m w die).wf = true :=
  Memory.wf_same (Memory.wf_setView h die (swf_ssetMany w.bytes _ (Memory.wf_view h die))) rfl rfl rfl rfl rfl rfl rfl rfl rfl

theorem wf_mendLine {m : Memory} (h : m.wf = true) (w : DevWrite) : (mendLine m w).wf = true := by
  unfold mendLine
  split
  · exact Memory.wf_same h rfl rfl rfl rfl rfl rfl rfl rfl rfl
  · exact h

theorem wf_l2Write {m : Memory} (h : m.wf = true) (hl : Health) (w : DevWrite) : (l2Write hl m w).wf = true :=
  Memory.wf_same (wf_l2Touch h hl w.home (8 * w.loc) none w.ctx true) rfl rfl rfl rfl rfl rfl rfl rfl rfl

theorem wf_applyHome {m : Memory} (h : m.wf = true) (hl : Health) (w : DevWrite) : (applyHome hl m w).wf = true := by
  unfold applyHome
  refine wf_applyAt (wf_mendLine (wf_l2Write ?_ ..) _) ..
  exact Memory.wf_same h rfl rfl rfl rfl rfl rfl rfl rfl rfl

theorem wf_enterUnit {m : Memory} (h : m.wf = true) (u : QUnit) (ids : List Nat) (bs : List (Nat × Byte)) :
    (enterUnit m u ids bs).1.wf = true :=
  Memory.wf_same h rfl rfl rfl rfl rfl rfl rfl rfl rfl

theorem wf_enterWrites {m : Memory} (h : m.wf = true) (u : QUnit) (ids : List Nat) (bs : List (Nat × Byte)) :
    (enterWrites m u ids bs).1.wf = true := by
  unfold enterWrites
  generalize byUnit bs = l
  induction l generalizing m u with
  | nil => exact h
  | cons b r ih => exact ih (wf_enterUnit h u ids b) _

/-- A property that a step keeps is kept by a fold. -/
theorem foldl_inv {α β : Type} (p : α → Prop) (f : α → β → α) (l : List β) (a : α) (h : p a) (hf : ∀ a b, p a → p (f a b)) :
    p (l.foldl f a) := by
  induction l generalizing a with
  | nil => exact h
  | cons b r ih => exact ih _ (hf _ _ h)

theorem wf_fetchLine {m : Memory} (h : m.wf = true) (die line : Nat) : (fetchLine m die line).wf = true := by
  unfold fetchLine
  split
  · exact h
  · refine foldl_inv (fun m : Memory => m.wf = true) _ _ _ h fun m w hm => ?_
    split
    · exact wf_applyAt hm ..
    · exact hm

theorem wf_bringLines {m : Memory} (h : m.wf = true) (hl : Health) (u : QUnit) (hint : Option Nat) (rs : List (Nat × Nat)) :
    (bringLines hl m u hint rs).wf = true :=
  foldl_inv (fun m : Memory => m.wf = true) _ _ _ h fun _ _ hm => wf_touchRead (wf_fetchLine hm ..) ..

theorem wf_finishWrite {m : Memory} (h : m.wf = true) (hl : Health) (id : Nat) : (finishWrite hl m id).wf = true := by
  unfold finishWrite
  split
  · exact h
  · refine foldl_inv (fun m : Memory => m.wf = true) _ _ _ ?_ fun m d hm => ?_
    · split
      · exact wf_applyHome h ..
      · exact h
    · split
      · exact hm
      · split
        · exact hm
        · exact wf_applyAt hm ..

theorem wf_drain {m : Memory} (h : m.wf = true) (hl : Health) (ids : List Nat) : (drain hl m ids).wf = true :=
  foldl_inv (fun m : Memory => m.wf = true) _ _ _ h fun _ _ hm => wf_finishWrite hm ..

theorem wf_agentUnit {m : Memory} (h : m.wf = true) (hl : Health) (ctx : Nat) (ids : List Nat) (bs : List (Nat × Byte)) :
    (agentUnit hl m ctx ids bs).wf = true := by
  have h1 : ∀ w : DevWrite, ({ m with writes := m.writes ++ [w], nextW := m.nextW + 1 } : Memory).wf = true := fun w =>
    Memory.wf_same h rfl rfl rfl rfl rfl rfl rfl rfl rfl
  unfold agentUnit
  dsimp only
  split
  · exact wf_applyHome (h1 _) ..
  · exact h1 _

theorem wf_agentStore {m : Memory} (h : m.wf = true) (hl : Health) (ctx : Nat) (ids : List Nat) (bs : List (Nat × Byte)) :
    (agentStore hl m ctx ids bs).1.wf = true :=
  foldl_inv (fun m : Memory => m.wf = true) _ _ _ h fun _ _ hm => wf_agentUnit hm ..

theorem wf_agentWrite {m : Memory} (h : m.wf = true) (hl : Health) (ctx : Nat) (bs : List (Nat × Byte)) :
    (agentWrite hl m ctx bs).wf = true := wf_drain (wf_agentStore h ..) ..

theorem wf_agentTouch {m : Memory} (h : m.wf = true) (hl : Health) (ctx : Nat) (rs : List (Nat × Nat)) :
    (agentTouch hl m ctx rs).wf = true :=
  foldl_inv (fun m : Memory => m.wf = true) _ _ _ h fun _ _ hm => wf_l2Touch hm ..

theorem wf_agentWalked {s : State} (h : s.mem.wf = true) (c : Ctx) (rs : List (Nat × Nat)) : (agentWalked s c rs).wf = true :=
  foldl_inv (fun m : Memory => m.wf = true) _ _ _ h fun _ _ hm => wf_l2Touch hm ..

theorem wf_clearResidue {m : Memory} (h : m.wf = true) (core : Nat) (ps : BitVec 512) (f : Nat) : (clearResidue m core ps f).wf = true := by
  rw [Memory.wf_iff] at h ⊢
  refine ⟨h.1, h.2.1, fun r hr => ?_⟩
  simp only [clearResidue, List.mem_map] at hr
  obtain ⟨x, hx, rfl⟩ := hr
  split
  · exact swf_filter _ _ (h.2.2 x hx)
  · exact h.2.2 x hx

theorem swf_residueOf {m : Memory} (h : m.wf = true) (core ctx : Nat) : swf (residueOf m core ctx) = true := by
  rw [Memory.wf_iff] at h
  unfold residueOf
  split
  · next r hr => exact h.2.2 r (List.mem_of_find?_eq_some hr)
  · rfl

theorem wf_leaveResidue {m : Memory} (h : m.wf = true) (u : QUnit) : (leaveResidue m u).wf = true := by
  have h1 := wf_clearResidue h u.core u.pages u.task.f
  have h2 := swf_residueOf h1 u.core u.ctx
  unfold leaveResidue
  dsimp only
  rw [Memory.wf_iff] at h1 ⊢
  refine ⟨h1.1, h1.2.1, fun r hr => ?_⟩
  simp only [List.mem_cons, List.mem_filter] at hr
  obtain rfl | hr := hr
  · exact swf_ssetMany _ _ h2
  · exact h1.2.2 r hr.1

theorem wf_setRegion {m : Memory} (h : m.wf = true) (die r : Nat) (st : Region) : (setRegion m die r st).wf = true :=
  Memory.wf_same h rfl rfl rfl rfl rfl rfl rfl rfl rfl

theorem wf_releaseRegion {m : Memory} (h : m.wf = true) (die r : Nat) (w : Bool) : (releaseRegion m die r w).wf = true := by
  unfold releaseRegion
  split <;> first | exact wf_setRegion h .. | exact h

theorem wf_releaseRegions {m : Memory} (h : m.wf = true) (dies : List Nat) (l : Launch) :
    (releaseRegions m dies l).wf = true := by
  unfold releaseRegions
  split
  · exact h
  · refine foldl_inv (fun m : Memory => m.wf = true) _ _ _ h fun m d hm => ?_
    refine foldl_inv (fun m : Memory => m.wf = true) _ _ _ ?_ fun m r hm => wf_releaseRegion hm ..
    exact foldl_inv (fun m : Memory => m.wf = true) _ _ _ hm fun m r hm => wf_releaseRegion hm ..

theorem wf_takeRegions {m : Memory} (h : m.wf = true) (dies : List Nat) (l : Launch) : (takeRegions m dies l).wf = true := by
  unfold takeRegions
  refine foldl_inv (fun m : Memory => m.wf = true) _ _ _ h fun m d hm => ?_
  refine foldl_inv (fun m : Memory => m.wf = true) _ _ _ ?_ fun m r hm => wf_setRegion hm ..
  exact foldl_inv (fun m : Memory => m.wf = true) _ _ _ hm fun m r hm => wf_setRegion hm ..

/-! ### What a write applied at a die reads as -/

@[simp] theorem Memory.view_setView_self (m : Memory) (d : Nat) (v : Sparse 8) (h : d < 4) : (m.setView d v).view d = v := by
  obtain rfl | rfl | rfl | rfl : d = 0 ∨ d = 1 ∨ d = 2 ∨ d = 3 := by omega
  all_goals rfl

theorem Memory.view_setView_ne (m : Memory) {d e : Nat} (v : Sparse 8) (hd : d < 4) (he : e < 4) (h : e ≠ d) :
    (m.setView d v).view e = m.view e := by
  obtain rfl | rfl | rfl | rfl : d = 0 ∨ d = 1 ∨ d = 2 ∨ d = 3 := by omega
  all_goals
    obtain rfl | rfl | rfl | rfl : e = 0 ∨ e = 1 ∨ e = 2 ∨ e = 3 := by omega
    all_goals first | rfl | omega

/-- A write reaches the view of the die it is applied at and no other. -/
theorem view_applyAt (m : Memory) (w : DevWrite) {d e : Nat} (hd : d < 4) (he : e < 4) :
    (applyAt m w d).view e = if e = d then ssetMany (m.view d) w.bytes else m.view e := by
  have h : (applyAt m w d).view e = (m.setView d (ssetMany (m.view d) w.bytes)).view e := by
    unfold applyAt Memory.view
    rfl
  rw [h]
  split
  · next he => subst he; exact Memory.view_setView_self _ _ _ hd
  · next hne => exact Memory.view_setView_ne _ _ hd he hne

end Sys2Proof.Machine
end

