-- ==== Sys2Proof/Laws/Vector.lean ====
section
/-! SUPPORT. What a write of lanes leaves in the vector registers, and the lone class V operations. -/

namespace Sys2Proof.Machine

/-- A key after lanes were written from `key` upward under their mask bits. -/
theorem sget_setLanes (xs : List Lane) (bs : List Bool) (m : Sparse 32) (key j : Nat) (h : xs.length = bs.length) :
    sget (setLanes m key xs bs) j =
      if key ≤ j ∧ j < key + xs.length ∧ bs.getD (j - key) false = true then xs.getD (j - key) 0 else sget m j := by
  induction xs generalizing m key bs with
  | nil =>
    rw [if_neg (by simp; omega)]
    rfl
  | cons x r ih =>
    cases bs with
    | nil => simp at h
    | cons b q =>
      rw [setLanes, ih q _ _ (by simpa using h)]
      by_cases hj : key + 1 ≤ j
      · obtain ⟨n, rfl⟩ : ∃ n, j = key + (n + 1) := ⟨j - key - 1, by omega⟩
        have e1 : key + (n + 1) - (key + 1) = n := by omega
        have e2 : key + (n + 1) - key = n + 1 := by omega
        have hs : sget (if b then sset m key x else m) (key + (n + 1)) = sget m (key + (n + 1)) := by
          split
          · exact sget_sset_ne m x (by omega)
          · rfl
        rw [e1, e2, hs]
        simp only [List.length_cons, List.getD_cons_succ]
        by_cases hc : q.getD n false = true ∧ n < r.length
        · rw [if_pos ⟨by omega, by omega, hc.1⟩, if_pos ⟨by omega, by omega, hc.1⟩]
        · rw [if_neg, if_neg]
          · rintro ⟨-, h2, h3⟩; exact hc ⟨h3, by omega⟩
          · rintro ⟨-, h2, h3⟩; exact hc ⟨h3, by omega⟩
      · rw [if_neg (by omega)]
        by_cases he : j = key
        · subst he
          cases b
          · simp
          · simp
        · have hr : ¬ (key ≤ j ∧ j < key + (x :: r).length ∧ (b :: q).getD (j - key) false = true) := fun x => by omega
          rw [if_neg hr]
          cases b
          · rfl
          · exact sget_sset_ne m x he

@[simp] theorem maskBits_length {w : Nat} (m : BitVec w) (l n : Nat) : (maskBits m l n).length = n := by simp [maskBits]

theorem maskBits_getD {w : Nat} (m : BitVec w) (l n i : Nat) (h : i < n) : (maskBits m l n).getD i false = m.getLsbD (l + i) := by
  simp [maskBits, List.getD_eq_getElem?_getD, h]

@[simp] theorem vall_length (t : Task) (v : BitVec 5) : (t.vall v).length = 128 := by simp [Task.vall, Task.vlanes]

theorem vall_getD (t : Task) (v : BitVec 5) (l : Nat) (h : l < 128) : (t.vall v).getD l 0 = t.vlane v.toNat l := by
  simp [Task.vall, Task.vlanes, List.getD_eq_getElem?_getD, h]

/-- All 128 lanes of a register after a write under mask bits; the other registers keep theirs. -/
theorem sget_lanes (m : Sparse 32) (v w : BitVec 5) (xs : List Lane) (bs : List Bool) (l : Nat) (hl : l < 128)
    (hx : xs.length = 128) (hb : bs.length = 128) :
    sget (setLanes m (128 * v.toNat + 0) xs bs) (128 * w.toNat + l) =
      if w = v ∧ bs.getD l false = true then xs.getD l 0 else sget m (128 * w.toNat + l) := by
  rw [sget_setLanes xs bs m _ _ (by omega), hx]
  by_cases e : w = v
  · subst e
    rw [show 128 * w.toNat + l - (128 * w.toNat + 0) = l by omega]
    by_cases hc : bs.getD l false = true
    · rw [if_pos ⟨by omega, by omega, hc⟩, if_pos ⟨rfl, hc⟩]
    · rw [if_neg (fun x => hc x.2.2), if_neg (fun x => hc x.2)]
  · have ne : w.toNat ≠ v.toNat := fun x => e (BitVec.eq_of_toNat_eq x)
    rw [if_neg (by omega), if_neg (fun x => e x.1)]

/-- A lone operation that writes lanes and sets flags. -/
theorem issueOp_lanes {s : State} {i : Instr} {g : Gd} {regs : List Nat} {v : BitVec 5}
    {f : Task → List Lane × List Bool × Flags} (h : Calm s) (hg : guardOn s g = true)
    (hs : slotOf i = some (slotLanes g regs v f)) :
    issueOp i s = bundled s fun t => ({ t with
      vregs := setLanes s.task.vregs (128 * v.toNat + 0) (f s.task).1 (f s.task).2.1 }).addFlags (f s.task).2.2 := by
  have ht := comeUp_task h.fmt
  have hr : (slotLanes g regs v f).run (opTrig s i) (opAcc s) =
      .ok (((opAcc s).addReg (.lanes v.toNat 0 (f s.task).1 (f s.task).2.1)).mapTask fun t => t.flagsAt 1 (f s.task).2.2) := by
    show Except.ok (((opAcc s).addReg (.lanes v.toNat 0 (f (opTrig s i).t).1 (f (opTrig s i).t).2.1)).mapTask
      fun t => t.flagsAt 1 (f (opTrig s i).t).2.2) = _
    rw [opTrig_t i h]
  rw [issueOp_done (u := s.task.flagsAt 1 (f s.task).2.2) (m := s.mem) h hs hg hr rfl rfl rfl rfl (by rw [← ht]; rfl)]
  apply reached_congr
  have hp : (s.task.flagsAt 1 (f s.task).2.2).pipe = [⟨s.task.sq.tau + 1, .flagsOnly, 0, [], 0, (f s.task).2.2⟩] := by
    show s.task.pipe ++ _ = _
    rw [h.pipe]
    rfl
  rw [endWrites_one (t := s.task.flagsAt 1 (f s.task).2.2) _ _ (s.task.sq.tau + 1) rfl rfl rfl rfl h.cmds h.queues hp rfl
    (Nat.le_refl _) (by intro c v; simp), ht]
  have hn := h.pipe
  generalize s.task = t at *
  cases t
  simp only at hn
  subst hn
  rfl

/-! ### Lane functions over lists -/

theorem map1_length (f : Lane → Lane × Flags) (xs : List Lane) (bs : List Bool) (h : xs.length = bs.length) :
    (map1 f xs bs).1.length = xs.length := by
  induction xs generalizing bs with
  | nil => rfl
  | cons x r ih =>
    cases bs with
    | nil => simp at h
    | cons b q => simp [map1, ih q (by simpa using h)]

theorem map1_getD (f : Lane → Lane × Flags) (xs : List Lane) (bs : List Bool) (i : Nat) (h : xs.length = bs.length)
    (hi : i < xs.length) : (map1 f xs bs).1.getD i 0 = (f (xs.getD i 0)).1 := by
  induction xs generalizing bs i with
  | nil => simp at hi
  | cons x r ih =>
    cases bs with
    | nil => simp at h
    | cons b q =>
      cases i with
      | zero => simp [map1]
      | succ n => simpa [map1] using ih q n (by simpa using h) (by simpa using hi)

/-- A function of two operands over lists is one of the pairs. -/
theorem map2_length (f : Lane → Lane → Lane × Flags) (xs ys : List Lane) (bs : List Bool) (h : xs.length = bs.length)
    (h2 : ys.length = bs.length) : (map2 f xs ys bs).1.length = xs.length := by
  induction xs generalizing ys bs with
  | nil => rfl
  | cons x r ih =>
    cases bs with
    | nil => simp at h
    | cons b q =>
      cases ys with
      | nil => simp at h2
      | cons y p => simp [map2, ih p q (by simpa using h) (by simpa using h2)]

theorem map2_getD (f : Lane → Lane → Lane × Flags) (xs ys : List Lane) (bs : List Bool) (i : Nat) (h : xs.length = bs.length)
    (h2 : ys.length = bs.length) (hi : i < xs.length) :
    (map2 f xs ys bs).1.getD i 0 = (f (xs.getD i 0) (ys.getD i 0)).1 := by
  induction xs generalizing ys bs i with
  | nil => simp at hi
  | cons x r ih =>
    cases bs with
    | nil => simp at h
    | cons b q =>
      cases ys with
      | nil => simp at h2
      | cons y p =>
        cases i with
        | zero => simp [map2]
        | succ n => simpa [map2] using ih p q n (by simpa using h) (by simpa using h2) (by simpa using hi)

/-- The flags of a lane function over lists: one flag is set when an active lane sets it (R62). -/
theorem map2_flag (p : Flags → Bool) (h0 : p Flags.none = false) (hor : ∀ x y, p (x.or y) = (p x || p y))
    (f : Lane → Lane → Lane × Flags) (xs ys : List Lane) (bs : List Bool) (n : Nat) (h : xs.length = n) (h1 : ys.length = n)
    (h2 : bs.length = n) : p (map2 f xs ys bs).2 =
      (List.range n).any fun i => bs.getD i false && p (f (xs.getD i 0) (ys.getD i 0)).2 := by
  induction n generalizing xs ys bs with
  | zero =>
    have : xs = [] := List.eq_nil_of_length_eq_zero h
    subst this
    simp [map2, h0]
  | succ n ih =>
    match xs, ys, bs, h, h1, h2 with
    | x :: xr, y :: yr, b :: br, h, h1, h2 =>
      have e := ih xr yr br (by simpa using h) (by simpa using h1) (by simpa using h2)
      rw [List.range_succ_eq_map]
      simp only [List.any_cons, List.any_map, Function.comp_def, List.getD_cons_zero, List.getD_cons_succ]
      rw [← e]
      cases b <;> simp [map2, hor]

end Sys2Proof.Machine
end

