-- ==== Sys2Proof/Safety.lean ====
section
/-! DEFINITION. What counts as a safe run: one that the model neither stops with a fault nor refuses. -/

namespace Sys2Proof.Machine

/-- A step goes on. -/
def goesOn (s : State) : Prop := ∃ t, step s = .next t

/-- The states that a run of the machine reaches. -/
inductive Reaches : State → State → Prop where
  | refl (s : State) : Reaches s s
  | tail {s t u : State} : Reaches s t → step t = .next u → Reaches s u

/-- A run from a state is safe: it goes on from every state it reaches. -/
def safeFrom (s : State) : Prop := ∀ t, Reaches s t → goesOn t

end Sys2Proof.Machine
end

