-- ==== Sys2Proof/Tests/Slice0.lean ====
section
/-! SUPPORT. Small tests: ill-formed terms that WellFormed refuses, words that the spec writes out, single steps with results worked
out from the spec, and witnesses that the hypotheses of the statements can be met. -/

namespace Sys2Proof.Tests

open Sys2Proof Sys2Proof.Machine

set_option Elab.async false
/-! ### Well-formedness: one ill-formed term for each check -/

/-- A move from a port that no move may read. -/
def badMove : Mv := ⟨70, false, 0, false, 0, 0⟩

/-- A move of a port. -/
def port (p : BitVec 10) : Mv := ⟨p, false, 0, false, 0, 0⟩

/-- A move of a small immediate. -/
def imm (v : BitVec 10) : Mv := ⟨v, true, 0, false, 0, 0⟩

theorem test_wf_slots : ([.cmp .always 1 2 3 10, .fcvt .always 1 2 7 0, .fcvt .always 1 2 0 7, .call .always 0 1, .call .always 25 1,
    .calli .always 0 1 2, .calli .always 25 1 2, .callr .always 0 1, .callr .always 25 1, .loop .always 1 0, .fmtset .always 8] :
    List Instr).all (fun i => !i.wf) = true := by decide

theorem test_wf_vectors : ([.vadd .always 1 2 3 0 3, .vsub .always 1 2 3 0 3, .vmul .always 1 2 3 0 2, .vmin .always 1 2 3 0 3,
    .vmax .always 1 2 3 0 3, .vabs .always 1 2 0 2, .vneg .always 1 2 0 2, .vshr .always 1 2 3 0 2, .vcmpI .always 1 2 3 0 6,
    .vcvt .always 1 2 1 0 7, .vredadd .always 1 2 0 2, .vredmax .always 1 2 0 2, .vrng .always 1 2 31 0] : List Instr).all
    (fun i => !i.wf) = true := by decide

theorem test_wf_native_memory : ([.ldgNative 0 badMove, .stgNative badMove, .fenceNative 0 badMove, .ldt badMove, .ldtLs1 badMove,
    .qcfg badMove, .qpush badMove, .qadv badMove, .qwait badMove, .qstat badMove, .shape badMove, .cpy badMove, .cpys badMove,
    .echk badMove, .wsload badMove, .wsref badMove] : List Instr).all (fun i => !i.wf) = true := by decide

theorem test_wf_native_control : ([.brNative badMove, .jmpNative badMove, .callNative badMove, .calliNative badMove,
    .callrNative badMove, .retNative badMove, .loopNative badMove, .endlNative 70 false, .trapNative badMove, .endtNative badMove,
    .fmtsetNative badMove, .nopNative badMove, .lset badMove, .spred badMove, .buck badMove, .iclk badMove, .icul badMove,
    .tnow badMove, .gcyrd badMove] : List Instr).all (fun i => !i.wf) = true := by decide

theorem test_wf_native_system : ([.launch badMove, .join badMove, .cancel badMove, .cntrd badMove, .corid badMove, .yield badMove,
    .syscall badMove, .rft badMove, .csrr badMove, .csrw badMove, .tlbi badMove, .subq badMove, .bsend badMove, .bfetch badMove,
    .bred badMove, .bexp badMove, .bwait badMove, .bgrad badMove, .bsub badMove, .enrd badMove, .enreq badMove] :
    List Instr).all (fun i => !i.wf) = true := by decide

theorem test_wf_native_units : ([.cxc 0 (port 128), .cbcast 0 (port 128), .mcfg false badMove, .mlw false badMove, .mswp false badMove,
    .mstr false badMove, .mop false badMove, .mrd false badMove, .mclr false badMove, .wmax badMove, .wmin badMove, .wmed badMove,
    .wclmp badMove, .wssum badMove, .adjb badMove, .wtag badMove, .wrel badMove] : List Instr).all (fun i => !i.wf) = true := by decide

/-- A move from another cluster's port, one with a test that a lone LIW does not have, and an LIW with a move too many. -/
theorem test_wf_moves : (Instr.cxc 1 ⟨0, false, 0, false, 0, 0⟩).wf = false ∧ (Instr.tnow { (imm 0) with tag := 1 }).wf = false ∧
    (Instr.liwIssue { liwOfMove 78 (imm 0) with moves := [] }).wf = false ∧
    (Instr.liwIssue { liwOfMove 78 (imm 0) with longs := [0] }).wf = false := by decide

/-! ### Decoding: words that the spec writes out beside their instructions -/

/-- The instruction of a move word alone in an LIW. -/
def alone (w : BitVec 32) : Option Instr := (decodeNative ([0x80000000, 1, w].flatMap bytesOfWord)).map (·.1)

/-- R28, R32, the examples of 02_encodings. -/
theorem test_decode_peman : decodeSlot .s0 0x30294A80 = some (.add ⟨3, false⟩ 9 9 10) ∧
    decodeSlot .s1 0x050C4004 = some (.ldW .always 12 8 4) ∧ decodeSlot .v 0x00830880 = some (.vfma .always 3 1 2 0) ∧
    decodeSlot .s0 0x04254A82 = some (.cmp .always 5 9 10 2) ∧ decodeSlot .s0 0x03F4FFFE = some (.movi .always 20 0xFFFE) ∧
    decodeSlot .v 0x00242991 = some (.vadd .always 4 5 6 2 1) ∧ decodeSlot .s0 0x06A48012 = some (.callr .always 4 0x8012) ∧
    decodeSlot .s0 0x461FFFFD = some (.br ⟨4, false⟩ 0x1FFFFD) := by decide

/-- R31: no operation. -/
theorem test_decode_refused : decodeSlot .s0 0xFFFFFFFF = none ∧ decodeSlot .s1 0xFFFFFFFF = none ∧
    decodeSlot .v 0xFFFFFFFF = none ∧ decodeSlot .s0 0x00000001 = none ∧ decodeSlot .v 0 = some .nop := by decide

/-- R83. -/
theorem test_decode_predicates : decodeSlot .s0 0x04451902 = some (.pand .always 5 3 4 true false) ∧
    decodeSlot .s0 0x04651900 = some (.por .always 5 3 4 false false) ∧
    decodeSlot .s0 0x04851901 = some (.pxor .always 5 3 4 false true) ∧ decodeSlot .s0 0x04A61001 = some (.pmov .always 6 2 true) := by
  decide

/-- R105 to R109, R113, R291. -/
theorem test_decode_control : decodeSlot .s0 0x06440014 = some (.call .always 4 20) ∧
    decodeSlot .s0 0x066652C0 = some (.calli .always 6 10 11) ∧ decodeSlot .s0 0x06800000 = some (.ret .always) ∧
    decodeSlot .s0 0x26800000 = some (.ret ⟨2, false⟩) ∧ decodeSlot .s0 0x07408005 = some (.fmtset .always 0x8005) ∧
    decodeSlot .s0 0x07000012 = some (.trap .always 0x12) := by decide

/-- R123 to R127. -/
theorem test_decode_integer : decodeSlot .s0 0x006952C0 = some (.sub .always 9 10 11) ∧
    decodeSlot .s0 0x00AC4A81 = some (.mulh .always 12 9 10 true) ∧ decodeSlot .s0 0x02094803 = some (.shlI .always 9 9 3) ∧
    decodeSlot .s1 0x036C4A81 = some (.bfx .always 12 9 10 true) ∧ decodeSlot .s0 0x03AC4A85 = some (.sel .always 12 9 10 5) ∧
    decodeSlot .s1 0x041479B9 = some (.movk .always 20 0x79B9) ∧ decodeSlot .s0 0x04224A89 = some (.cmp .always 2 9 10 9) := by
  decide

/-- R128 to R130. -/
theorem test_decode_float : decodeSlot .s0 0x052C4A80 = some (.ffma .always 12 9 10) ∧
    decodeSlot .s0 0x058C4810 = some (.fcvt .always 12 9 2 0) ∧ decodeSlot .s0 0x05A34A86 = some (.fcmp .always 3 9 10 6) := by
  decide

/-- R131 to R145. -/
theorem test_decode_vector : decodeSlot .v 0x00C4298A = some (.vmax .always 4 5 6 1 2) ∧
    decodeSlot .v 0x01C32982 = some (.vcmpF .always 3 5 6 0 2) ∧ decodeSlot .v 0x02274002 = some (.vcvt .always 7 8 0 0 2) ∧
    decodeSlot .v 0x02895000 = some (.vrcp .always 9 10 0) ∧ decodeSlot .v 0x03802810 = some (.vnfin .always 5 2) := by decide

/-- R151, R222 to R226. -/
theorem test_decode_memory : decodeSlot .s1 0x052C4805 = some (.ldD .always 12 9 5) ∧
    decodeSlot .s1 0x054E4803 = some (.ldSb .always 14 9 3) ∧ decodeSlot .s1 0x05ED4FFF = some (.stW .always 13 9 0x7FF) ∧
    decodeSlot .s1 0x06265002 = some (.vld .always 6 10 2) ∧ decodeSlot .s1 0x06465000 = some (.vst .always 6 10 0) ∧
    decodeSlot .s1 0x06695408 = some (.ldg .always 9 10 2 8) ∧ decodeSlot .s1 0x068C49FF = some (.stg .always 12 9 0x1FF) ∧
    decodeSlot .s1 0x06A05600 = some (.pref .always 10 3 0) ∧ decodeSlot .s1 0x06C952C3 = some (.atomOr .always 9 10 11) ∧
    decodeSlot .s1 0x06C952C5 = some (.atomCas .always 9 10 11) ∧ decodeSlot .s1 0x06E00001 = some (.fence .always 1) := by decide

/-- The tables of syntax, fields and words of 08, 11 and 12. -/
theorem test_decode_native_memory : alone 0x15400800 = some (.tnow (imm 0)) ∧ alone 0x15800800 = some (.gcyrd (imm 0)) ∧
    alone 0xB100C000 = some (.shape (port 12)) ∧ alone 0xB140C000 = some (.cpy (port 12)) ∧
    alone 0xB180C000 = some (.cpys (port 12)) ∧ alone 0xB1C0C000 = some (.echk (port 12)) ∧
    alone 0xB200C000 = some (.wsload (port 12)) ∧ alone 0xB2403800 = some (.wsref (imm 3)) ∧
    alone 0x71840800 = some (.ldgNative 2 (imm 64)) ∧ alone 0x75800800 = some (.fenceNative 2 (imm 0)) := by decide

/-- R185 to R198, R241 to R248. -/
theorem test_decode_native_units : alone 0x8100C000 = some (.mcfg false (port 12)) ∧ alone 0x8140C000 = some (.mlw false (port 12)) ∧
    alone 0x8180C000 = some (.mswp false (port 12)) ∧ alone 0x81C0C000 = some (.mstr false (port 12)) ∧
    alone 0x8200C000 = some (.mop false (port 12)) ∧ alone 0x8240C000 = some (.mrd false (port 12)) ∧
    alone 0x82801800 = some (.mclr false (imm 1)) ∧ alone 0x91C0C000 = some (.mstr true (port 12)) ∧
    alone 0xA100C000 = some (.wmax (port 12)) ∧ alone 0xA140C000 = some (.wmin (port 12)) ∧ alone 0xA180C000 = some (.wmed (port 12)) ∧
    alone 0xA1C0C000 = some (.wclmp (port 12)) ∧ alone 0xA200C000 = some (.wssum (port 12)) ∧
    alone 0xA240C000 = some (.adjb (port 12)) ∧ alone 0xA2800800 = some (.wtag (imm 0)) ∧ alone 0xA2C0D000 = some (.wrel (port 13)) := by
  decide

/-- R270 to R274, R291 to R296, R320. -/
theorem test_decode_native_work : alone 0x15C0C000 = some (.launch (port 12)) ∧ alone 0x1600C000 = some (.join (port 12)) ∧
    alone 0x1640C000 = some (.cancel (port 12)) ∧ alone 0x1680C000 = some (.cntrd (port 12)) ∧
    alone 0x16C00800 = some (.corid (imm 0)) ∧ alone 0x17000800 = some (.yield (imm 0)) ∧
    alone 0x13400800 = some (.endtNative (imm 0)) ∧ alone 0x17D01800 = some (.csrr (imm 257)) ∧
    alone 0x1800C000 = some (.csrw (port 12)) ∧ alone 0x18401800 = some (.tlbi (imm 1)) ∧ alone 0x17800800 = some (.rft (imm 0)) ∧
    alone 0x17401800 = some (.syscall (imm 1)) ∧ alone 0x13012800 = some (.trapNative (imm 18)) ∧
    alone 0x1880C000 = some (.subq (port 12)) := by decide

/-- R338 to R345, R363. -/
theorem test_decode_native_braid : alone 0x18C0C000 = some (.bsend (port 12)) ∧ alone 0x1900C000 = some (.bfetch (port 12)) ∧
    alone 0x1940C000 = some (.bred (port 12)) ∧ alone 0x1980C000 = some (.bexp (port 12)) ∧ alone 0x19C0C000 = some (.bwait (port 12)) ∧
    alone 0x1A00C000 = some (.bgrad (port 12)) ∧ alone 0x1A40C000 = some (.bsub (port 12)) ∧ alone 0x1A80C000 = some (.enrd (port 12)) ∧
    alone 0x1AC0C000 = some (.enreq (port 12)) ∧ alone 0x13C04800 = some (.fmtsetNative (imm 4)) := by decide

/-- The LIW of the example before R50: a branch test, a guarded trigger with a long immediate, a move with a path tag, a move of a
cluster. -/
theorem test_decode_liw : (decodeLiw (([0x01100013, 7, 0x100, 0x20009000, 0x213FF100, 0x02831008, 0x52129000, 0xFFFFFFC0, 0x00011170] :
    List (BitVec 32)).flatMap bytesOfWord)).map (·.1) = some
      { maskA := 7, hasB := true, pop := 2, nt := 1, tests := 0x13, maskB := 0x100, moves := [⟨128, port 9⟩,
          ⟨132, ⟨1023, false, 2, false, 0, 0⟩⟩, ⟨10, ⟨49, false, 0, false, 1, 0⟩⟩, ⟨328, port 297⟩], targets := [0xFFFFFFC0],
        longs := [0x11170] } := by decide

/-! ### Small states -/

/-- The reset machine with a unit in focus. -/
def base : State := { State.reset with on := true }

/-- A handler in focus. -/
def inHandler : State := { base with cur := { base.cur with kind := .handler, priv := .supervisor } }

/-- A state with some scalar registers set. -/
def withRegs (l : List (BitVec 5 × Word)) (s : State) : State := s.mapTask fun t => l.foldl (fun t x => t.put x.1 x.2) t

/-- A state with some bank A latches set. -/
def withPorts (l : List (Nat × Word)) (s : State) : State := s.mapTask fun t => l.foldl (fun t x => t.putPort x.1 x.2) t

/-- A state with some bytes of the scratchpad set. -/
def withBytes (l : List (Nat × Byte)) (s : State) : State := s.mapTask fun t => { t with lmem := ssetMany t.lmem l }

/-- What a step that answers a next state leaves. -/
def after {α : Type} (o : Host.Outcome State Fault Refusal) (f : State → α) : Option α :=
  match o with
  | .next t => some (f t)
  | _ => none

/-- A launchpad: a context with one readable and writable page, about to run `0 -> ctl.nop`. -/
def pad : State := State.reset.withFetchWord 32 0x13800800

/-- A launchpad about to run `add s9, s9, s10` of Peman. -/
def padPeman : State := State.reset.withFetchWord 32 0x00294A80

/-- The same with room for four bundles. -/
def padLong : State := padPeman.mapCtx 0 fun c => { c with modules := c.modules.map fun m => { m with peman := (m.peman.1, 64) } }

/-- The native launchpad with a second LIW after the first. -/
def padTwo : State := pad.mapCtx 0 fun c => { c with modules := c.modules.map fun m => { m with starts := [0x10000, 0x1000C] } }

/-- The conditions of `Calm`, as a check. -/
def calmCheck (s : State) : Bool :=
  s.on && (s.cur.kind = .user || s.cur.kind = .handler) && s.task.cmds.isEmpty && s.task.pipe.isEmpty && s.task.fmtPend.isEmpty
    && s.task.loads.isEmpty && s.task.queues.all (fun b => b.head < b.depth && b.tail < b.depth)
    && !endsAt s.task s.task.sq.pc

theorem calm_of {s : State} (h : calmCheck s = true) : Calm s := by
  simp only [calmCheck, Bool.and_eq_true, Bool.or_eq_true, decide_eq_true_eq, List.isEmpty_iff, List.all_eq_true,
    Bool.not_eq_true'] at h
  obtain ⟨⟨⟨⟨⟨⟨⟨h1, h2⟩, h3⟩, h4⟩, h5⟩, h6⟩, h7⟩, h8⟩ := h
  exact { on := h1, kind := h2, cmds := h3, pipe := h4, fmt := h5, loads := h6, queues := h7, noEnd := h8 }

theorem base_calm : Calm base := calm_of (by decide)

theorem handler_calm : Calm inHandler := calm_of (by decide)

theorem pad_calm : Calm pad := calm_of (by decide +kernel)

theorem imm_fires (s : State) (v : BitVec 10) (h : moveLive s.task 5 (imm v) = true) : Fires s (imm v) :=
  { live := h, tag := .inl rfl, flag := by show (0 : BitVec 3) ≠ 7; decide, src := .inl rfl }

theorem ok_of {e : Except FaultCode Nat} {d : Nat} (h : e.toOption = some d) : e = .ok d := by
  cases e with
  | error f => simp [Except.toOption] at h
  | ok v => simp [Except.toOption] at h; rw [h]

/-- The fault of a check. -/
def faultOf (e : Except FaultCode Nat) : Option FaultCode :=
  match e with
  | .error f => some f
  | .ok _ => none

theorem error_of {e : Except FaultCode Nat} {f : FaultCode} (h : faultOf e = some f) : e = .error f := by
  cases e with
  | error g => simp [faultOf] at h; rw [h]
  | ok v => simp [faultOf] at h


/-! ### Single steps, with results that the spec works out -/

/-- R33: the sum of -1 and 2 is 1, modulo 2^64. -/
theorem test_native_add : after (exec (.liwIssue (liwOfMove 132 (imm 2))) (withPorts [(128, -1)] base)) (fun t => t.port 131) =
    some 1 := by decide +kernel

/-- R123. -/
theorem test_add_wraps : Writes (withRegs [(9, 0xFFFFFFFFFFFFFFFF), (10, 2)] base) (.add .always 9 9 10) 9 1 :=
  writes_of (calm_of (by decide)) (by decide) rfl rfl (by decide)

/-- The example of R125: BFX.s and BFX of 0xF0A0 at position 8, length 8. -/
theorem test_bfx : let s := withRegs [(9, 0xF0A0), (10, 0x208)] base
    Writes s (.bfx .always 12 9 10 true) 12 0xFFFFFFFFFFFFFFF0 ∧ Writes s (.bfx .always 12 9 10 false) 12 0xF0 :=
  ⟨writes_of (calm_of (by decide)) (by decide) rfl rfl (by decide), writes_of (calm_of (by decide)) (by decide) rfl rfl (by decide)⟩

/-- A step fetches and runs the LIW at the pc: 12 bytes. -/
theorem test_pad_step : after (step pad) (fun t => t.task.sq.pc) = some 0x1000C := by decide +kernel

/-- The worked conversions after R68. -/
theorem test_conversions : let none := Flags.none
    let ovf : Flags := { none with ovf := true }
    let nv : Flags := { none with nv := true }
    cvt 0x3F808000 .fp32 .bf16 .rne false = (0x3F80, none) ∧ cvt 0x3F808000 .fp32 .bf16 .ru false = (0x3F81, none) ∧
    cvt 0x43960000 .fp32 .e4m3 .rne false = (0x79, none) ∧ cvt 0x43960000 .fp32 .e4m3 .ru false = (0x7A, none) ∧
    cvt 0x43960000 .fp32 .e5m2 .rne false = (0x5D, none) ∧ cvt 0x43E80000 .fp32 .e4m3 .rne false = (0x7E, none) ∧
    cvt 0x43FA0000 .fp32 .e4m3 .rne false = (0x7F, ovf) ∧ cvt 0x43FA0000 .fp32 .e4m3 .rne true = (0x7E, ovf) ∧
    cvt 0x477FF000 .fp32 .fp16 .rne false = (0x7C00, ovf) ∧ cvt 0x477FF000 .fp32 .fp16 .rne true = (0x7BFF, ovf) ∧
    cvt 0x33000000 .fp32 .fp16 .rne false = (0x0000, none) ∧ cvt 0x33000000 .fp32 .fp16 .ru false = (0x0001, none) ∧
    cvt 0xBF000000 .fp32 .int8 .rne false = (0x00, none) ∧ cvt 0x43488000 .fp32 .int8 .rne false = (0x7F, nv) ∧
    cvt 0x7F800001 .fp32 .bf16 .rne false = (0x7FC0, none) ∧ cvt 0xFF .e4m3 .fp32 .rne false = (0xFFF00000, none) := by decide +kernel

/-- The worked block after R72, and the byte that is not canonical. -/
theorem test_d2p8 : let r := d2Block ([0x40400000, 0x3FA66666, 0xC0300000, 0] ++ List.replicate 28 0)
    r.1 = 0x80 ∧ r.2.take 4 = [0x01, 0x13, 0x8A, 0x77] ∧ (d2Decode 0x01 0x80).1 = 0x40400000 ∧ (d2Decode 0x13 0x80).1 = 0x3FA00000 ∧
    (d2Decode 0x8A 0x80).1 = 0xC0200000 ∧ (d2Decode 0x10 0x80).1 = 0x40400000 := by decide +kernel
/-! ### Witnesses: states and operands that meet the hypotheses of the statements -/

theorem witness_scalar : Calm base ∧ guardOn base .always = true ∧ guardOn base ⟨0, true⟩ = false ∧ Fires base (imm 2) ∧
    ScalarUnit 128 ∧ ScalarUnit 192 :=
  ⟨base_calm, by decide, by decide, imm_fires _ _ (by decide), .inl rfl, .inr rfl⟩

theorem witness_guarded_move : Calm base ∧ moveLive base.task 5 ⟨0, true, 0, true, 0, 0⟩ = false ∧ writableA 132 = true :=
  ⟨base_calm, by decide, by decide⟩

/-- A pending load bars its register and no other. -/
theorem witness_pending : let s := base.mapTask fun t => t.outstanding 0 9 (ldgReq 0 1 [])
    s.on = true ∧ s.cur.kind = .user ∧ s.task.cmds = [] ∧ s.task.fmtPend = [] ∧ endsAt s.task s.task.sq.pc = false ∧
    slotOf (.mov .always 3 9) ≠ none ∧ s.task.pending (sregAt s.task.fr.fb 9) = true ∧
    s.task.pending (sregAt s.task.fr.fb 10) = false := by decide

/-- A native step and a bundle that are fetched and run; a fetch at an address without text. -/
theorem witness_step_native : pad.board.stopped = false ∧ pad.board.recovery = false ∧ upkeep pad = none ∧ takeInput pad [] pad.inbox = none ∧
    due pad = none ∧ enabled pad = [] ∧ others pad = [] ∧ pad.on = true ∧ pad.cur.status = .ready ∧ pad.cur.preempt = false ∧
    stalls pad = false ∧ pad.cur.lag = 0 ∧ pad.cur.nextG ≤ pad.gcyc ∧ pad.inPeman = false ∧ fetchFault pad 1 = none ∧
    ((decodeLiw (pad.textBytes pad.task.sq.pc maxLiwBytes)).elim false fun x =>
      fetchFault pad (liwBytes x.1) = none && fetchWaits pad (.liw x.1) = none) = true := by decide +kernel

theorem witness_step_peman : upkeep padPeman = none ∧ takeInput padPeman [] padPeman.inbox = none ∧ due padPeman = none ∧ enabled padPeman = [] ∧
    others padPeman = [] ∧ padPeman.inPeman = true ∧ fetchFault padPeman 16 = none ∧
    decodeBundle (padPeman.textBytes padPeman.task.sq.pc 16) = some [.add .always 9 9 10, .nop, .nop, .nop] := by decide +kernel

theorem witness_fetch_fault : (fetchFault (pad.mapTask fun t => t.goTo 0x4000000) 1).isSome = true := by decide +kernel

theorem witness_halted : let s : State := { State.reset with inbox := [.row (.moduleReset [])], board := { State.reset.board with stopped := true } }
    s.board.stopped = true ∧ s.inbox.head? = some (.row (.moduleReset [])) := by decide

theorem witness_input : (takeInput { State.reset with inbox := [.row (.budgetSet 5)] } [] [.row (.budgetSet 5)]).isSome = true := by decide +kernel

theorem witness_due : (due { State.reset with gcyc := 1600000 }).isSome = true := by decide +kernel

theorem witness_canonical : State.reset.Canonical ∧ State.reset.Privileges ∧ pad.Canonical ∧ pad.Privileges :=
  ⟨⟨by decide, by decide, by decide, by decide, by decide⟩, by unfold State.Privileges; decide,
    ⟨by decide +kernel, by decide +kernel, by decide, by decide, by decide⟩, by unfold State.Privileges; decide +kernel⟩

/-- FCVT between the first and the last format that it names; a format word of the float unit at its bound. -/
theorem witness_formats : (6 : BitVec 3) ≠ 7 ∧ ((withPorts [(256, 0x36)] base).port 256).toNat < 64 ∧
    ¬ ((withPorts [(256, 0x40)] base).port 256).toNat < 64 := by decide

/-- The last double word of the scratchpad, and the checks of R150 in their order at their bounds. -/
theorem witness_local : let s := withRegs [(9, 0x1FFFF8)] pad
    Calm s ∧ InLocal s (slotEa s.task 9 0 8) 8 ∧ OffControl s (slotEa s.task 9 0 8).toNat 8 :=
  ⟨calm_of (by decide +kernel), by unfold InLocal; decide +kernel, by unfold OffControl; decide +kernel⟩

theorem witness_local_checks : localForm (.ldH .always 3 9 0) = some (9, 0, 2) ∧
    (slotEa (withRegs [(9, 1)] pad).task 9 0 2).toNat % 2 ≠ 0 ∧ (0x1FFFFF < (slotEa (withRegs [(9, 0x200000)] pad).task 9 0 2).toNat + 1) ∧
    base.task.f ≤ (slotEa base.task 9 0 2).toNat + 1 ∧ (slotEa base.task 9 0 2).toNat % 2 = 0 := by decide +kernel

/-- A bound control word at 16: bytes 8 to 15 keep off it, byte 16 does not. -/
theorem witness_control_word : let s := pad.mapTask fun t => { t with queues := [{ j := 0, addr := 16, base := 64, esz := 2, depth := 4, head := 1, tail := 3, fill := 2 }] }
    OffControl s 8 8 ∧ ¬ OffControl s 16 1 := by unfold OffControl; decide +kernel

theorem witness_native_local : let s := withPorts [(320, 0x1FFFF8)] pad
    Calm s ∧ Fires s (imm 0) ∧ s.port 322 = 0 ∧ InLocal s (s.port 320 + moved s (imm 0)) 8 :=
  ⟨calm_of (by decide +kernel), imm_fires _ _ (by decide +kernel), by decide +kernel, by unfold InLocal; decide +kernel⟩

theorem witness_refused_control : 2 ^ 16 ≤ ((withPorts [(322, 0x10000)] pad).port 322).toNat ∧
    ((withPorts [(322, 1)] pad).port 322).toNat % 512 ≠ 0 := by decide +kernel

theorem witness_vectors : let s := withRegs [(9, 0x1FFE00)] pad
    InLocal s (slotEa s.task 9 0 512) 512 ∧ Calm s := ⟨by unfold InLocal; decide +kernel, calm_of (by decide +kernel)⟩

/-- LDT at the last first register of a cluster, and one above. -/
theorem witness_transpose : ((withPorts [(321, 28)] pad).port 321).toNat % 32 ≤ 28 ∧ ¬ ((withPorts [(321, 29)] pad).port 321).toNat % 32 ≤ 28 ∧
    (∀ i < 16, InLocal (withPorts [(321, 28)] pad) (0 + BitVec.ofNat 64 i * (withPorts [(321, 28)] pad).port 320) 4) := by
  unfold InLocal; decide +kernel
/-- The long launchpad with a descriptor's entry and class in DEVICE memory. -/
def padBytes : State :=
  { padLong with mem := { padLong.mem with view0 := ssetMany padLong.mem.view0 (atAddr 0x2020008 (natLe 8 0x10010 ++ natLe 2 7)) } }

/-- A state whose unit has a context with that descriptor and a routine in its module. -/
def padNamed : State := padBytes.mapCtx 0 fun c => { c with modules := c.modules.map fun m => { m with
  descs := [{ addr := 0x20000, entry := 0x10010, cls := 7, succ := [] }],
  routines := [{ id := 0x8012, entry := 0x10020, restart := true, digest := 0, eq := none, nearU := none }] } }

theorem witness_branch : padLong.isBundle 0x10030 = true ∧ padLong.isBundle 0x10040 = false ∧ padTwo.isStart 0x1000C = true ∧
    padTwo.isStart 0x10004 = false ∧ Calm padLong ∧ Calm padTwo :=
  ⟨by decide +kernel, by decide +kernel, by decide +kernel, by decide +kernel, calm_of (by decide +kernel), calm_of (by decide +kernel)⟩

theorem call_fits (s : State) (o : Nat) (h : (s.task.fr.depth ≠ 255 && s.task.s2.toNat % 8 = 0 && (planSpills o 256 s.task).isSome) = true) :
    ∃ t, CallFits s o t := by
  simp only [Bool.and_eq_true, decide_eq_true_eq, Option.isSome_iff_exists] at h
  obtain ⟨⟨h1, h2⟩, t, h3⟩ := h
  exact ⟨t, h1, h2, h3⟩

/-- A call with the largest slide, a CALLI to a descriptor of its class and of another, and to no descriptor. -/
theorem witness_calls : Calm padNamed ∧ (∃ t, CallFits padNamed 24 t) ∧ (∃ d, padNamed.curCtx.desc? 0x20000 = some d) ∧
    padNamed.curCtx.desc? 0x20010 = none ∧ (coreAccess padNamed 0x20000 1 .read = .ok 0x2020000 ∧
      padNamed.readWaits [(0x2020000, 64)] = none ∧ descField padNamed 0x2020000 16 2 = 7 ∧ descField padNamed 0x2020000 8 8 = 0x10010 ∧
      padNamed.isStart 0x10010 = true) ∧
    (∃ t, CallFits (withPorts [(64, 24)] padTwo) 24 t) :=
  ⟨calm_of (by decide +kernel), call_fits _ _ (by decide +kernel), ⟨_, rfl⟩, by decide +kernel,
    ⟨ok_of (by decide +kernel), by decide +kernel, by decide +kernel, by decide +kernel, by decide +kernel⟩, call_fits _ _ (by decide +kernel)⟩

theorem witness_routines : (∃ r, padNamed.routineAt padNamed.task.sq.pc 0x8012 = some r ∧ r.eq = none ∧ r.nearU = none) ∧
    padNamed.routineAt padNamed.task.sq.pc 0x8013 = none ∧ (0xEFFF : BitVec 16).toNat < 0xF000 := ⟨⟨_, rfl, rfl, rfl⟩, by decide +kernel, by decide⟩

/-- A call that just fits and one that must spill. -/
theorem witness_spills : let t : Nat → Task := fun fb => { Task.reset with fr := { Frames.reset with fb := fb } }
    ((t 208).fr.fb + 24 + 24 ≤ (t 208).fr.rb + 256 ∧ (t 208).fr.links.length + 1 ≤ 32) ∧
    ¬ ((t 209).fr.fb + 24 + 24 ≤ (t 209).fr.rb + 256 ∧ (t 209).fr.links.length + 1 ≤ 32) ∧
    (t 209).s2.toNat + (8 * oldestSlide (t 209).fr + 16) < 2 ^ 64 := by decide

/-- A frame to return from, and one to spill and fill. -/
def inFrame : State := padLong.mapTask fun t => { t with fr := { t.fr with fb := 10, depth := 1, links := [⟨0x10010, 10⟩] } }

theorem witness_returns : Calm inFrame ∧ (∀ x ∈ inFrame.task.calls, x.depth ≠ inFrame.task.fr.depth) ∧
    needsFill inFrame.task.fr = false ∧ inFrame.isStart (topLink inFrame.task.fr).ret = true ∧ inFrame.task.fr.depth ≠ 0 ∧ padLong.task.fr.depth = 0 :=
  ⟨calm_of (by decide +kernel), by decide +kernel, by decide +kernel, by decide +kernel, by decide +kernel, by decide +kernel⟩

theorem witness_fill : let t := inFrame.task
    oldestSlide t.fr ≤ 24 ∧ t.s2.toNat + (8 * oldestSlide t.fr + 16) < 2 ^ 64 ∧ t.fr.links ≠ [] ∧ (oldestLink t.fr.links).o ≤ 24 := by
  decide +kernel

/-- A loop whose body is one bundle, with a count and with none; a level that ends here; six levels. -/
def oneLevel : Loop :=
  { start := 0x10000, stop := 0x10000, after := 0x10010, n := 2, e := 0, r := false, j := 0, reg0 := .fixed 0, reg1 := .fixed 0,
    en0 := false, en1 := false, stride0 := 0, stride1 := 0, depth := 0 }

/-- A bundle inside six levels. -/
def sixLevels : State := padLong.mapTask fun t => { t with sq := { t.sq with loops := List.replicate 6 { oneLevel with stop := 0x10020 } } }

theorem witness_loops : let s := withRegs [(9, 0xFFFFFFFF)] padLong
    Calm s ∧ s.isBundle (s.task.sq.pc + (1 : BitVec 16).setWidth 64 * 16) = true ∧
    LoopFits s (s.reg 9) (s.task.sq.pc + (1 : BitVec 16).setWidth 64 * 16) ∧ s.reg 9 ≠ 0 ∧ s.reg 10 = 0 :=
  ⟨calm_of (by decide +kernel), by decide +kernel, ⟨by decide +kernel, fun _ h => (by simp [withRegs, padLong, padPeman] at h; cases h),
    by decide +kernel, by decide +kernel⟩, by decide +kernel, by decide +kernel⟩

theorem witness_native_loop : let s := withPorts [(64, 12)] padTwo
    Calm s ∧ s.port 64 ≠ 0 ∧ (s.port 64).toNat % 4 = 0 ∧ (s.port 64).toNat < 2 ^ 24 ∧ s.isStart (s.task.sq.pc + s.port 64) = true :=
  ⟨calm_of (by decide +kernel), by decide +kernel, by decide +kernel, by decide +kernel, by decide +kernel⟩

theorem witness_six_levels : Calm sixLevels ∧ sixLevels.isBundle (sixLevels.task.sq.pc + (1 : BitVec 16).setWidth 64 * 16) = true ∧
    6 ≤ sixLevels.task.sq.loops.length ∧ sixLevels.task.sq.cfg.r = false ∧
    (sixLevels.task.sq.pc + (1 : BitVec 16).setWidth 64 * 16).toNat < 0x10020 :=
  ⟨calm_of (by decide +kernel), by decide +kernel, by decide +kernel, by decide +kernel, by decide +kernel⟩

theorem witness_endl : let s := padLong.mapTask fun t => { t with sq := { t.sq with loops := [oneLevel] } }
    s.task.sq.loops = [oneLevel] ∧ oneLevel.depth = s.task.fr.depth ∧ oneLevel.stop = s.task.sq.pc ∧ s.on = true ∧
    s.task.queues = [] ∧ readableA 131 = true := by decide +kernel

/-- LSET and SPRED at the bounds of their values. -/
theorem witness_sequencer : (moved base (imm 511)).toNat < 2 ^ 16 ∧ ¬ (moved base (imm 512)).toNat < 2 ^ 16 ∧
    (0x8 : BitVec 16).toNat / 8 % 4096 ≠ 0 ∧ (0x8007 : BitVec 16).toNat / 8 % 4096 = 0 := by decide

theorem witness_format_pending : let t : Task := { Task.reset with fmtPend := [(4, 0x8005)] }
    t.fmtPend = [(4, 0x8005)] ∧ t.sq.tau < 4 := by decide

theorem witness_clock : base.task.tstat.dl = .dl0 ∧ (pad.mapTask fun t => { t with tstat := { t.tstat with dl := .dl2 } }).task.tstat.dl ≠ .dl0 ∧
    (∃ l, pad.launchOf pad.cur = some l) ∧ moved base (imm 3) = 3 ∧ 4 ≤ (moved base (imm 4)).toNat ∧ 6 ≤ (moved base (imm 6)).toNat :=
  ⟨by decide, by decide +kernel, ⟨_, rfl⟩, by decide, by decide, by decide⟩

/-- Counter reads of a launch that runs, and of a handle that names nothing. -/
theorem witness_counters : (∃ b, objectFinished (comeUp pad) pad.curCtx 1 = some b) ∧
    objectFinished (comeUp pad) pad.curCtx 2 = none ∧ 2 ^ 32 ≤ ((withPorts [(64, 0x100000000)] pad).port 64).toNat ∧
    handleLevel 1 = 0 ∧ (∃ l, pad.curCtx.launch? 1 = some l) :=
  ⟨⟨false, by decide +kernel⟩, by decide +kernel, by decide +kernel, by decide, ⟨_, rfl⟩⟩

theorem witness_bindings : (service? 0xF006).isSome = true ∧ service? 0xFFFF = none ∧
    (padNamed.routineAt padNamed.task.sq.pc 0x8012).isSome = true ∧ padNamed.routineAt padNamed.task.sq.pc 0 = none := by decide +kernel

/-- A table of two buckets of sizes 4 and 8 at 0, for n = 4, 5 and 9. -/
def twoBuckets : State := withBytes [(0, 2), (1, 1), (16, 4), (20, 12), (32, 8), (36, 12)] padTwo

theorem witness_buckets : let s := twoBuckets
    let at' : Nat → Nat → Nat := fun o n => readLe s.task.lmem o n
    localFault s.task 0 48 16 = none ∧ 1 ≤ at' 0 1 ∧ at' 0 1 ≤ 16 ∧ at' 1 1 < 8 ∧ at' 2 14 = 0 ∧ (∀ i < 2, at' (24 + 16 * i) 8 = 0) ∧
    at' 16 4 < at' 32 4 ∧ 4 ≤ at' 16 4 ∧ (at' 16 4 < 5 ∧ 5 ≤ at' 32 4) ∧ at' 32 4 < 9 ∧
    s.isStart (s.task.sq.pc + (BitVec.ofNat 32 (at' 20 4)).signExtend 64) = true := by decide +kernel

theorem witness_locks : let s := withPorts [(64, 0x10000)] pad
    s.task.sq.ilocks.length + 1 ≤ 512 ∧ (s.port 64).toNat + 128 ≤ 2 ^ 64 ∧
    (∃ d, coreAccess s 0x10000 1 .fetch = .ok d) := ⟨by decide +kernel, by decide +kernel, ⟨0x2010000, ok_of (by decide +kernel)⟩⟩

/-! ### DEVICE memory -/

theorem pad_alone : Alone pad := by unfold Alone; decide +kernel

theorem witness_device : Passes pad 0x20000 8 .read 0x2020000 ∧ Passes pad 0x20000 8 .write 0x2020000 ∧
    Passes pad 0x20000 8 .atomic 0x2020000 ∧ Passes pad 0x20004 4 .atomic 0x2020004 ∧ Alone pad :=
  ⟨⟨ok_of (by decide +kernel), by decide +kernel⟩, ⟨ok_of (by decide +kernel), by decide +kernel⟩,
    ⟨ok_of (by decide +kernel), by decide +kernel⟩, ⟨ok_of (by decide +kernel), by decide +kernel⟩, pad_alone⟩

theorem witness_device_checks : coreAccess pad 0x2000000 8 .read = .error .xlate ∧ coreAccess pad 0x20004 8 .write = .error .alignLocal ∧
    coreAccess pad 0x20002 4 .atomic = .error .alignLocal ∧ coreAccess pad 0x100000000000000 8 .read = .error .xlate :=
  ⟨error_of (by decide +kernel), error_of (by decide +kernel), error_of (by decide +kernel), error_of (by decide +kernel)⟩

/-- The launchpad with the line of a DPA poisoned in its home L2. -/
def padPoisoned (dpa : Nat) : State :=
  { pad with mem := { pad.mem with l2 := [{ die := dpaDie dpa, way := 0, line := dpa / 128, owner := 0, dirty := false, rrpv := 0, poison := true, hurt := none, leaving := false, dram := [] }] } }

/-- A walk that meets a line no access can use, and a DEVICE read that does. -/
theorem witness_poisoned : ((walked pad.mem pad.tick pad.cur.core pad.curCtx 0x20000).head?.elim false fun x =>
      walkBlocked (padPoisoned x) 0x20000 = some x) = true ∧ (padPoisoned 0x2020000).readWaits [(0x2020000, 64)] = some 0x2020000 ∧
    walkBlocked (padPoisoned 0x2020000) 0x20000 = none := by decide +kernel

theorem witness_register_operand : ¬ 2 ^ 5 ≤ ((withPorts [(449, 31)] pad).port 449).toNat ∧ 2 ^ 5 ≤ ((withPorts [(449, 32)] pad).port 449).toNat := by
  decide +kernel

/-- A launchpad with an outstanding load, an atomic and a write in flight. -/
def busy : State :=
  let w : DevWrite := { id := 0, bytes := [(0x2020000, 5)], ctx := 0, uid := some 7, die := 0, deps := [], homed := none, dies := [] }
  { (pad.mapTask fun t => (t.outstanding 0 9 (ldgReq 0x2020008 1 [])).outstanding 0 10 { ldgReq 0x2020010 1 [] with atom := some .add, b := 3 }) with
    mem := { pad.mem with writes := [w], nextW := 1 } }

theorem witness_fences : writesApplied busy.mem busy.cur .pkg = true ∧
    writesApplied { busy.mem with writes := busy.mem.writes.map fun w => { w with uid := some 0 } } pad.cur .pkg = false := by decide +kernel

theorem witness_arrivals : busy.on = true ∧ Alone busy ∧ (busy.task.loads.map fun x => x.id).Nodup ∧
    busy.task.loads.length = 2 ∧ (∀ r ∈ busy.task.loads, (r.atom = none → loadReady busy busy.cur r = true ∧
      lineHurt (busy.fetched [(r.dpa, r.size)]) 0 r.dpa = false) ∧ (r.atom ≠ none → r.old = none ∧ atomReady busy busy.cur r = true ∧
      lineHurt (l2Touch busy.health busy.mem (dpaDie r.dpa) r.dpa none 0 false) (dpaDie r.dpa) r.dpa = false) ∧ 0 < r.size) ∧ ∀ w ∈ busy.mem.writes, w.id < busy.mem.nextW :=
  ⟨rfl, by unfold Alone; decide +kernel, by decide +kernel, by decide +kernel, by decide +kernel, by decide +kernel⟩

theorem witness_taken_atomic : let s := busy.mapTask fun t => { t with loads := t.loads.map fun r => { r with old := r.atom.map fun _ => 4 } }
    (∃ r ∈ s.task.loads, r.atom = some .add ∧ r.old = some 4 ∧ loadReady s s.cur r = true) ∧
    ∀ w ∈ s.mem.writes, w.uid = some s.cur.uid → w.loc = 0x2020010 / 8 → w.homed.isSome = true := by decide +kernel

/-- A write that its home die may apply, one that waits for an earlier write of its task, and one that another die may apply. -/
theorem witness_writes : (∀ w ∈ busy.mem.writes, busy.homeReady w = true ∧ w.dies.length < 3 ∧ remoteReady busy.mem w 1 = false) ∧
    (busy.mem.writes.map fun x => x.id).Nodup ∧
    (let w : DevWrite := { id := 0, bytes := [(0, 1)], ctx := 0, uid := some 0, die := 0, deps := [], homed := some 0, dies := [0, 2, 3] }
     remoteReady { busy.mem with writes := [w] } w 1 = true ∧ ({ busy with mem := { busy.mem with writes := [w] } } : State).homeReady w = false ∧ w.dies.length = 3) := by
  decide +kernel
/-! ### Traps, system calls, control registers -/

/-- A launchpad whose context has a trap handler. -/
def padHandled : State := padNamed.mapCtx 0 fun c => { c with tvec := 0x20000 }

theorem witness_trap : (∃ e, trapVector padHandled padHandled.cur.ctx = some e) ∧ trapVector pad pad.cur.ctx = none ∧ padHandled.on = true ∧
    padHandled.task.loads = [] ∧ Alone padHandled ∧ (∃ l, padHandled.launchOf padHandled.cur = some l) :=
  ⟨⟨0x10010, by decide +kernel⟩, by decide +kernel, by decide +kernel, by decide +kernel, by unfold Alone; decide +kernel, ⟨_, rfl⟩⟩

/-- The same inside its handler. -/
def trapped : State := enterHandler padHandled { code := .illegal, tval := 0, bus := 0 } 0x10000

theorem witness_return : trapped.on = true ∧ (∃ u ∈ trapped.parked, trapped.cur.serves = some u.uid) ∧
    (trapped.units.map fun x => x.uid).Nodup ∧ trapped.cur.kind = .handler ∧ trapped.mem.writes = [] := by decide +kernel

theorem witness_unit_end : pad.on = true ∧ pad.cur.kind = .user ∧ Alone pad ∧
    (∃ c l, pad.ctx? pad.cur.ctx = some c ∧ c.launch? pad.cur.launch = some l ∧ pad.cur.index ∉ l.counted) :=
  ⟨rfl, by decide +kernel, pad_alone, ⟨_, _, rfl, rfl, by decide +kernel⟩⟩

theorem witness_syscall : ∀ n ∈ [0, 1, 2], let s := { base with cur := { base.cur with status := .waiting (.syscall n) } }
    s.on = true ∧ s.cur.status = .waiting (.syscall n) := by decide

/-- YIELD with no rival, and with a unit of the same launch behind it on its core. -/
theorem witness_yield : let s := { pad with parked := [{ pad.cur with uid := 9, index := 1 }] }
    bestRival (rivals pad fun _ => true) = none ∧ (unitKey pad pad.cur).isSome = true ∧
    (bestRival (rivals s fun _ => true)).isSome = true := by decide +kernel

theorem witness_levels : let s := { inHandler with cur := { inHandler.cur with priv := .system } }
    base.cur.priv = .user ∧ inHandler.cur.priv ≠ .user ∧ inHandler.cur.priv ≠ .system ∧ s.cur.priv = .system ∧ Calm s ∧
    devHealthOk 0 = true ∧ l2quarOk 0 = true ∧ pretireOk 0 = true ∧ pretireOk 1 = false :=
  ⟨rfl, by decide, by decide, rfl, calm_of (by decide), by decide, by decide, by decide, by decide⟩

theorem witness_csr_numbers : (0xFFF : Word).toNat < 2 ^ 12 ∧ (0xFFF : Word).toNat ∉ [0x000, 0x001, 0x011, 0x012, 0x100, 0x101, 0x102] ∧
    ((0xFFFFE00000 : Word).toNat < 2 ^ 40 ∧ (0xFFFFE00000 : Word).toNat % 2 ^ 21 = 0) := by decide

theorem witness_tlbi : inHandler.cur.priv ≠ .user ∧ (writesApplied inHandler.mem inHandler.cur .pkg = true) ∧
    (∀ u ∈ inHandler.parked, u.ctx = inHandler.cur.ctx → u.task.loads = []) ∧
    ¬ (∀ u ∈ [{ busy.cur with ctx := inHandler.cur.ctx }], u.ctx = inHandler.cur.ctx → u.task.loads = []) := by decide +kernel

theorem witness_releases : ∀ w ∈ [Wait.fence .pkg, .tlbi, .qwait, .join, .barrier, .endt, .rft, .bwait],
    ({ base with cur := { base.cur with status := .waiting w } } : State).cur.status = .waiting w := by decide

/-- A unit with one arrival entry that expects `n` arrivals. -/
def expecting (n : BitVec 32) : State := base.mapTask fun t => { t with arrivals := [{ e := 0, src := 0, tag := 0, exp := n, arr := 0 }] }

theorem witness_arrivals_short :
    (∃ x ∈ (expecting 1).task.arrivals, x.arr.toNat < x.exp.toNat) ∧ (∀ x ∈ (expecting 0).task.arrivals, ¬ x.arr.toNat < x.exp.toNat) := by
  decide

/-! ### Queues and the block-transfer engine -/

/-- A queue of four words of 8 bytes at 64, its control word at 0, on latch 1: half full. -/
def oneQueue : QBind := { j := 1, addr := 0, base := 64, esz := 3, depth := 4, head := 3, tail := 1, fill := 2 }

/-- The launchpad with that queue bound. -/
def padQueue : State := pad.mapTask fun t => bindQueue t oneQueue (controlBytes oneQueue)

theorem witness_queue_bound : let s := withPorts [(768, 1), (131, 2)] padQueue
    Calm s ∧ (s.port 768).toNat < 2 ^ 3 ∧ s.task.queue? 1 = some oneQueue ∧ oneQueue.fill < oneQueue.depth ∧
    1 ≤ (s.port 131).toNat ∧ (s.port 131).toNat ≤ oneQueue.fill ∧ ¬ (3 ≤ oneQueue.fill) ∧
    readControl s.task.lmem 1 0 = some oneQueue ∧ oneQueue.consistent s.task.f = true :=
  ⟨calm_of (by decide +kernel), by decide +kernel, by decide +kernel, by decide, by decide +kernel, by decide +kernel, by decide,
    by decide +kernel, by decide +kernel⟩

theorem witness_queue_unbound : let s := withPorts [(768, 0x10), (769, 0x8600040)] pad
    2 ^ 4 ≤ (s.port 768).toNat ∧ (s.port 768).toNat < 2 ^ 4 + 2 ^ 3 ∧ s.task.queue? 0 = none ∧ localFault s.task 0 16 16 = none ∧
    (∀ b ∈ s.task.queues, b.addr ≠ 0) ∧ (freshQueue (s.port 769) 0 0).isSome = true ∧
    (∀ b ∈ (freshQueue (s.port 769) 0 0).toList, b.consistent s.task.f = true) := by decide +kernel

theorem witness_queue_accounting : oneQueue ∈ padQueue.task.queues ∧ (padQueue.task.queues.map fun x => x.j).Nodup ∧
    (∀ x ∈ padQueue.task.queues, x.head < x.depth ∧ x.tail < x.depth) ∧ 2 ≤ oneQueue.fill ∧ 2 ≤ oneQueue.depth - oneQueue.fill := by
  decide +kernel

/-- A CPY of `n` bytes from 0 to 0x40000 of LOCAL. -/
def copyOf (n : Nat) : CopyReq :=
  { sc := 0, src := .local, dst := .local, sa := 0, da := 0x40000, sl := .row n, dl := .row n, q := none, gt := false, st := false }

/-- The smallest and the largest CPY. -/
theorem witness_cpy : (∀ n ∈ [4, 262144], copySpaceFault pad (copyOf n) = none ∧ copyQueueFault pad.task (copyOf n) = false) ∧
    (engineRanges pad .device .read [(0x20000, 262144)]).toOption.isSome = true ∧ (262144 : Word).toNat < 2 ^ 40 := by decide +kernel

/-- Two equal shapes of four words, validated, at 0 and 32. -/
theorem witness_cpys : let s := withBytes [(0, 2), (1, 1), (3, 1), (8, 4), (10, 1), (12, 1), (14, 1), (16, 4),
      (32, 2), (33, 1), (35, 1), (40, 4), (42, 1), (44, 1), (46, 1), (48, 8)] pad
    ∃ x y, validShape s.task.lmem 0 = some x ∧ validShape s.task.lmem 32 = some y ∧ x.esz = y.esz ∧
      x.dims.foldl (· * ·) 1 = y.dims.foldl (· * ·) 1 ∧ 32 < s.task.f ∧ localFault s.task 0 32 32 = none := by
  refine ⟨{ esz := 2, dims := [4, 1, 1, 1], strs := [4, 0, 0, 0], bm := false }, { esz := 2, dims := [4, 1, 1, 1], strs := [8, 0, 0, 0], bm := false }, ?_⟩
  decide +kernel

theorem witness_wsload : let s := pad.mapCtx 0 fun c => { c with launches := c.launches.map fun l => { l with wl := true, wset := 2 } }
    s.writeSet.getLsbD 1 = true ∧ s.writeSet.getLsbD 0 = false ∧ (0x4000000 + 4096 - 1) / 2 ^ 26 = 1 ∧
    (engineRanges s .device .read [(0x20000, 4096)]).toOption.isSome = true := by decide +kernel

theorem witness_echk : (0x1FFFFF : Word).toNat < 2 ^ 21 ∧ (0x1FFFFF : Word).toNat + 1 ≤ 0x200000 ∧
    ¬ (0x1FFFFF : Word).toNat + 2 ≤ 0x200000 := by decide

theorem witness_engine_checks : (2 : Nat) ^ 41 ≤ (0x20000000000 : Word).toNat ∧ (4 : Word).extractLsb' 0 19 = 4 ∧
    (2 : Word).toNat % 4 ≠ 0 ∧ 0x200000 < (0x1FFFFE : Word).toNat + 4 ∧ base.task.f < 0 + 4 := by decide

/-- A pending command of the engine. -/
def command (k : CmdKind) : Cmd :=
  { id := 0, kind := k, start := 0, due := 0, up := true, gt := none, strict := false, late := false, src := [], dst := [(0x2020000, 4)],
    data := [1, 2, 3, 4], deps := [], cells := [], writes := [(0, 1)], lanes := [], flags := Flags.none }

/-- The launchpad at τ 1 with one pending command. -/
def padCommand (c : Cmd) : State := padQueue.mapTask fun t => { t with cmds := [c], sq := { t.sq with tau := 1 } }

theorem witness_engine_steps : ∀ k ∈ ([.copy .local .local 0 0x80 (.row 4) (.row 4) none, .copy .local .device 0 0x20000 (.row 4) (.row 4) none,
      .copy .local .local 0 0 (.row 8) (.row 8) (some 1), .wsload 0x20000 0 4] : List CmdKind),
    let c := command k
    let s := padCommand c
    s.on = true ∧ c ∈ s.task.cmds ∧ (s.task.cmds.map fun x => x.id).Nodup ∧ c.up = true ∧ c.gt = none ∧ c.late = false ∧
      c.due < s.task.sq.tau ∧ s.task.loads = [] ∧ s.weightDies.Nodup ∧ (∀ d ∈ s.weightDies, d < 4) := by decide +kernel

theorem witness_engine_starts : let k := command (.copy .local .local 0 0x80 (.row 4) (.row 4) none)
    ({ k with up := false } : Cmd).buffered = true ∧ (canFetch (padCommand k) { k with up := false } = true) ∧
    ¬ (padCommand k).task.sq.tau < k.start ∧ oneQueue.depth - oneQueue.fill < 3 ∧ 2 ≤ oneQueue.depth - oneQueue.fill := by decide +kernel

/-- Late data that may come in, and data of a bank under refresh that may not; a GT command before and at its GCYC; a latch that an agent
may fill and one that it may not. -/
theorem witness_engine_data : let k := { command (.copy .device .local 0 0x80 (.row 4) (.row 4) none) with late := true, src := [(0x2020000, 4)] }
    let w := { command (.copy .weight .local 0x4000000 0x80 (.row 4) (.row 4) none) with late := true }
    let g := { command (.copy .local .local 0 0x80 (.row 4) (.row 4) none) with up := false, gt := some 5 }
    k.fetched = true ∧ canFetch (padCommand k) k = true ∧ w.fetched = true ∧ canFetch (padCommand w) w = false ∧
    canFetch { padCommand w with gcyc := 256 } w = true ∧ (padCommand g).clock < 5 ∧ 5 ≤ ({ padCommand g with gcyc := 5 } : State).clock ∧
    padQueue.task.queue? 1 = some oneQueue ∧ oneQueue.depth - oneQueue.fill < 3 ∧ 2 ≤ oneQueue.depth - oneQueue.fill := by decide +kernel

/-! ### Matrix arrays and witnesses -/

theorem witness_mcfg : mxRate .fp32 .fp32 = none ∨ (mxRate .fp32 .fp32).isSome = true := by decide

theorem witness_matrix : mxRate (formatOf 2) (formatOf 2) ≠ none ∧ (pad.task.mx 0).done = 0 ∧
    (stepReq false 0 64 (64 * 256)).isSome = true ∧ stepReq false 0 64 (65 * 256) = none ∧
    (∀ q ∈ (stepReq false 0 64 (64 * 256)).toList, stepAlign pad.task q { pad.task.mx 0 with af := .bf16, wf := .bf16 } = none) ∧
    mlwFault pad .local 0 (blockRanges 0 128 .bf16) = none ∧ (mrdCtl 0x2 0 64).isSome = true ∧
    (∀ w ∈ (mrdCtl 0x2 0 64).toList, w.dm = false → mrdDest pad.task 0 64 (64 * fsize w.ofmt) w.nr = none) := by decide +kernel

theorem witness_matrix_steps : ∀ k ∈ ([.mlw 0 .local 0 128 false .bf16, .mswp 1, .step 0 false 0 false 4 0 64 0 64 .bf16 .bf16 2, .mrd 1] : List CmdKind),
    let c := command k
    let s := padCommand c
    c ∈ s.task.cmds ∧ (s.task.cmds.map fun x => x.id).Nodup ∧ c.due < s.task.sq.tau ∧ missing s.task c.start c.spans = false := by
  decide +kernel

theorem witness_missing : let k := command (.step 0 false 0 false 1 0 64 0 64 .bf16 .bf16 2)
    let j := { command (.copy .device .local 0 0 (.row 64) (.row 64) none) with id := 1, due := 5 }
    missing ((padCommand k).task.enqueue j) k.start k.spans = true ∧ (padCommand k).task.loads = [] := by decide +kernel

theorem witness_tags : pad.task.tagOn.getLsbD 0 = false ∧
    (pad.mapTask fun t => { t with tagOn := 1, tagGen := [(0, 1)] }).task.tagLive 0x100 = true ∧ pad.task.tagLive 0x100 = false ∧
    (∀ i < 256, (BitVec.allOnes 256).getLsbD i = true) := by decide +kernel

/-- A tile of one row of two contributors at 64, its inputs at 0, its result at 32, under a live tag. -/
def padTile : State := withBytes [(64, 0), (65, 1), (66, 1), (72, 1), (74, 2), (76, 1), (78, 2), (80, 1), (84, 8), (88, 4)]
  (pad.mapTask fun t => { t with tagOn := 1, tagGen := [(0, 1)] })

theorem witness_reduction : let d := readTile padTile.task.lmem 64
    witBase padTile.task 64 0 32 = none ∧ d.shapeOk = true ∧ d.kindOk 1 0 = true ∧
    rowsFault padTile.task (rowsAt 0 d.xs (4 * d.il) d.rows ++ rowsAt 32 d.ys (4 * d.nc) d.rows ++ [d.elems 64]) = none ∧
    padTile.task.tagLive (0x100 : BitVec 16) = true ∧ writesControl padTile.task (rowsAt 32 d.ys (4 * d.nc) d.rows ++ [d.elems 64, (64, 5)]) = false ∧
    d.adjOk = true ∧ d.tag = 0x100 ∧ badBounds 0 0x3F800000 = false ∧ badBounds 0x3F800000 0 = true := by decide +kernel

theorem witness_reduction_values : let cs : List Lane := [1, 0x80000001]
    cs ≠ [] ∧ (∀ c ∈ cs, nan32 c = false) ∧ cs.length ≤ 256 ∧ orderKey 0x80000001 < orderKey 0 ∧ orderKey 0 ≤ orderKey 1 := by
  refine ⟨by decide, ?_, by decide, by decide +kernel, by decide +kernel⟩
  intro c hc
  simp only [List.mem_cons, List.not_mem_nil, or_false] at hc
  rcases hc with rfl | rfl <;> decide

theorem witness_witness_steps : ∀ k ∈ ([.wit, .adjb] : List CmdKind), (command k) ∈ (padCommand (command k)).task.cmds ∧
    (command k).due < (padCommand (command k)).task.sq.tau := by decide +kernel

/-! ### Work -/

/-- A launch record of one unit at 0x30000 that passes R257, in the memory of a context with a descriptor. -/
def padRecord : State :=
  let bs := atAddr 0x2030000 (natLe 2 1 ++ natLe 2 0 ++ natLe 4 1 ++ natLe 8 0x20000) ++ atAddr 0x203002C (natLe 4 4096)
  { padNamed with mem := { padNamed.mem with view0 := ssetMany padNamed.mem.view0 bs } }

theorem witness_launch : (match engineRanges (comeUp padRecord) .device .read [(0x30000, 144)] with
    | .ok rs => (match checkRecord padRecord padRecord.curCtx (padRecord.deviceBytes rs) 0x30000 .dl0 with
      | .ok l => l.u = 1 && padRecord.readWaits rs = none
      | .error _ => false)
    | .error _ => false) = true ∧ WalksFree padRecord [(0x30000, 144)] ∧ (∃ c, padRecord.ctx? padRecord.cur.ctx = some c ∧ ∀ g ∈ c.graphs, g.h ≠ mkHandle 1 (c.serials.2.1 + 1)) ∧
    (0x30008 : Word).toNat % 16 ≠ 0 :=
  ⟨by decide +kernel, by unfold WalksFree; decide +kernel, ⟨_, rfl, by decide +kernel⟩, by decide⟩

/-- The bytes of a record with `u` units and a spill region of `n` bytes for that descriptor. -/
def recordBytes (u n : Nat) : List Byte :=
  natLe 2 1 ++ natLe 2 0 ++ natLe 4 u ++ natLe 8 0x20000 ++ List.replicate 28 0 ++ natLe 4 n ++ List.replicate 96 0

theorem witness_records : let ok : List Byte → Bool := fun bs => match checkRecord padNamed padNamed.curCtx bs 0 .dl0 with
      | .ok _ => true
      | .error _ => false
    ok (recordBytes (2 ^ 24) 4096) = true ∧ ok (recordBytes (2 ^ 24 + 1) 4096) = false ∧ ok (recordBytes 1 0) = false ∧
    ok (recordBytes 1 0x200000) = true ∧ ok (recordBytes 1 0x201000) = false := by decide +kernel

/-- The launchpad with a second launch of one unit, of which `n` have been placed and completed, granted or not; the first is a gang. -/
def padOther (n : Nat) (g : Option Nat) : State := padNamed.mapCtx 0 fun c =>
  let second : Launch → Launch := fun l => { l with h := 2, kdesc := 0x20000, completed := n, counted := List.range n, placed := List.range n,
                                                    granted := g, rset := 1, wset := 2 }
  { c with launches := (c.launches.map fun l => { l with gang := true }) ++ c.launches.map second, serials := (2, 1, 0, 0) }

theorem witness_join : let s := padOther 1 (some 0)
    let c := s.curCtx
    objectFinished (comeUp s) c 2 = some true ∧ objectFinished (comeUp (padOther 0 (some 0))) (padOther 0 (some 0)).curCtx 2 = some false ∧
    2 ∉ holders c 1 ∧ 1 ∈ holders c 1 ∧ (counters c 2).1 = 1 ∧ c.launch? 3 = none ∧
    ((c.launch? 1).any fun l => l.gang && (List.range l.u).all fun i => i = s.cur.index) = true := by decide +kernel

theorem witness_cancel : let s := padOther 0 (some 0)
    s.ctx? 0 = some s.curCtx ∧ ((s.curCtx.launch? 2).any fun l => !l.done && !l.dead) = true ∧ (s.units.map fun u => u.uid).Nodup ∧
    (∀ u ∈ s.units, u.ctx = 0 → u.launch = 2 → u.status ≠ .trapped) ∧ terminable pad.cur = false ∧
    terminable { pad.cur with cancel := true, atPoint := true } = true := by decide +kernel

theorem witness_grant : let s := padOther 0 none
    let c := s.curCtx
    s.ctx? c.id = some c ∧ (c.headRequest.any fun l => l.h = 2 && l.rset &&& l.wset = 0) = true ∧ (c.launches.map fun x => x.h).Nodup ∧
    c.dies.Nodup ∧ c.energy.committed = 0 ∧ regionState s.mem 0 0 = .free ∧
    regionState { s.mem with regions := [(0, 1, .write)] } 0 1 = .write := by decide +kernel

theorem witness_placement : let s := compete (padOther 0 (some 0))
    let c := s.curCtx
    candidates s 1 ≠ [] ∧ candidates (compete pad) 1 = [] ∧ (∀ c ∈ s.ctxs, 0 < c.share) ∧ (s.ctxs.map fun c => c.id).Nodup ∧
    s.ctx? c.id = some c ∧ ((c.launch? 2).any fun l => (c.desc? l.kdesc).isSome && l.args.length ≤ 8) = true := by decide +kernel

theorem witness_aging : let s := { padOther 0 (some 0) with gcyc := 2 ^ 20 }
    s.ctx? 0 = some s.curCtx ∧ ((s.curCtx.launch? 2).any fun l => l.placed.length < l.u && !l.dead && l.boost = 0 && l.granted = some 0) = true ∧
    1 * 2 ^ 20 ≤ s.gcyc - 0 := by decide +kernel

theorem witness_switch : let s := { pad with cur := { pad.cur with preempt := true, atPoint := true } }
    s.on = true ∧ s.cur.isFirmware = false ∧ s.cur.status = .ready ∧ s.cur.preempt = true ∧ s.cur.atPoint = true ∧ s.task.loads = [] ∧
    s.cur.lag = 0 ∧ endsDue s.task = false ∧ switchPoint pad = none := by decide +kernel

/-- Waits from which the unit leaves its core for another that could issue. -/
theorem witness_switch_waits : ∀ w ∈ ([.join, .barrier, .qwait, .bwait] : List Wait),
    let s := { pad with cur := { pad.cur with status := .waiting w }, parked := [{ pad.cur with uid := 9, status := .out none }] }
    s.on = true ∧ s.cur.isFirmware = false ∧ s.task.loads = [] ∧ s.cur.lag = 0 ∧ endsDue s.task = false ∧ s.cur.status = .waiting w ∧
    (∃ x ∈ s.parked, x.core = s.cur.core ∧ x.uid ≠ s.cur.uid ∧ x.status = .out none) := by decide +kernel

theorem witness_resume : let s := { pad with on := false, parked := [{ pad.cur with status := .out none }] }
    (∃ u ∈ s.units, u.status = .out none ∧ u.cancel = false ∧ coreHealthy s u.core = true ∧ coreBusy s u.core = false ∧ resumeCores s u ≠ []) ∧
    (s.units.map fun x => x.uid).Nodup ∧ coreBusy pad pad.cur.core = true ∧
    resumeCores s pad.cur = [] := by decide +kernel

theorem witness_eddy : let e : Eddy := { ready := 1, val := .fmt 4 }
    let s := pad.mapTask fun t => { t with eddy := [e] }
    s.on = true ∧ e.ready ≤ s.task.sq.tau + 1 := by decide +kernel

/-- The launchpad with one packet at the head of its context's ring, at 0x40000. -/
def padPacket (bs : List Byte) : State :=
  let s := pad.mapCtx 0 fun c => { c with rings := { c.rings with cqBase := 0x40000, cqSize := 16, cqTail := 1 } }
  { s with mem := { s.mem with view0 := ssetMany s.mem.view0 (atAddr 0x2040000 bs) } }

theorem witness_packets : ∀ ty ∈ [0, 1, 2, 3, 4, 5, 6, 7, 8], let s := padPacket (natLe 2 ty)
    headType s s.curCtx = some ty ∧ readySignal s s.curCtx = none := by decide +kernel

theorem witness_packet_fields : (headPacket (padPacket (natLe 2 1 ++ natLe 6 1)) (padPacket (natLe 2 1 ++ natLe 6 1)).curCtx).isSome = true ∧
    ctxLe pad pad.curCtx 0x40000 8 = some 0 ∧ handleStatus pad.curCtx [] 2 0 false ≠ none ∧ objectFinished pad pad.curCtx 1 ≠ none := by
  decide +kernel

theorem witness_completion : let s := pad.mapCtx 0 fun c => { c with packets := [{ cpl := 0x50000, work := .done 0 0 }, { cpl := 0, work := .signal 0x50008 7 }] }
    readySignal s s.curCtx = some 1 ∧ packetReady s s.curCtx { cpl := 0x50000, work := .done 0 0 } = true ∧
    packetReady s s.curCtx { cpl := 0, work := .object 1 } = false ∧ (ctxRanges s s.curCtx 0x50008 8 .write).toOption.isSome = true ∧
    ((s.settle 0).ctx? 0).isSome = true := by decide +kernel

theorem witness_module : let s := padNamed.mapCtx 0 fun c => { c with modules := c.modules.map fun m => { m with unload := true } }
    s.ctx? 0 = some s.curCtx ∧ (s.curCtx.modules.find? fun x => x.id = 1).isSome = true ∧
    (∀ x ∈ s.curCtx.modules, x.unload = true ∧ referenced s 0 x = true ∧ referenced { s with on := false } 0 x = false) := by
  decide +kernel


/-! ### The fabric -/

/-- A launchpad whose context is rank 0 of four: rank 1 stands here too, rank 2 in package 1, rank 3 in package 2; window 0 is a region of
one page at 0x60000, window 1 a queue; its node serves shard 5. -/
def padBraid : State := pad.mapCtx 0 fun c => { c with braid := some {
  rank := 0, ranks := 4, pkgOf := [0, 0, 1, 2], windows := [(0, .region 0x60000 4096), (1, .queue 1 0)], groups := [(1, [0, 2])],
  shards := [{ sid := 5, pri := 0, mir := 2, b := 16, e := 32 }, { sid := 6, pri := 2, mir := 0, b := 16, e := 32 }] } }

/-- That state with some bytes of DEVICE memory set. -/
def withDevice (l : List (Nat × Byte)) (s : State) : State := { s with mem := { s.mem with view0 := ssetMany s.mem.view0 l } }

/-- That state with one message waiting. -/
def hearing (m : Msg) (s : State) : State := { s with fabric := { s.fabric with inbox := [{ msg := m, again := 0, begun := none }] } }

/-- A command of the task in focus. -/
def sender : Origin := { rank := 0, ctx := 0, task := 0, id := 0, cpl := 0 }

theorem witness_exchange : FiresB pad 2 (imm 1) ∧ (0 : Lane).extractLsb' 6 26 = 0 ∧ ¬ (0x40 : Lane).extractLsb' 6 26 = 0 :=
  ⟨⟨by decide +kernel, .inl rfl, by show (0 : BitVec 3) ≠ 7; decide, .inl rfl⟩, by decide, by decide⟩

/-- The longest block, one that ends the scratchpad, and one beyond it. -/
theorem witness_blocks : let b := readBlock (ssetMany [] (atAddr 36 (natLe 4 4))) 0 0
    b.n = 4 ∧ b.countOk padBraid.curCtx = true ∧ b.fabricFault padBraid padBraid.curCtx = none ∧ localFault padBraid.task 0 64 64 = none ∧
    localFault padBraid.task 0x200000 64 64 ≠ none ∧ b.cpl = 0 := by decide +kernel

theorem witness_expectations : let s := expecting 1
    (∃ x ∈ s.task.arrivals, x.e = 0) ∧ (∀ x ∈ s.task.arrivals, x.e ≠ 1) ∧ (0x7FFFFFFFFF : Word).toNat < 2 ^ 39 ∧
    (s.task.arrivals.map fun x => x.e).Nodup ∧ (∀ x ∈ s.task.arrivals, x.e < 64) ∧ (1 : Word).getLsbD 0 = true := by
  decide +kernel

/-- The command of a block of 4 bytes from LOCAL 0. -/
def braidCommand (kind rank : Nat) : Cmd :=
  let b : Block := { readBlock [] kind 0 with rank := rank, n := 4 }
  { command (.braid b) with up := false, data := [] }

theorem witness_fabric_commands : ∀ k ∈ [0, 1, 2, 3], ∀ r ∈ [1, 2], let c := braidCommand k r
    let s := { padBraid with cur := (padCommand c).cur }
    s.on = true ∧ c ∈ s.task.cmds ∧ (s.task.cmds.map fun k => k.id).Nodup ∧ c.start ≤ s.task.sq.tau ∧ (s.ctx? s.cur.ctx).isSome = true ∧
    sourceBlocked s c = false := by decide +kernel

theorem witness_status : let cmd : Msg := .put sender 2 0 0 0 [1, 2, 3, 4]
    let s := hearing (.status sender 1 false false) (padBraid.mapCtx 0 fun c => { c with resend := [cmd] })
    s.msg? 0 = some { msg := .status sender 1 false false, again := 0, begun := none } ∧
    (s.ctx? 0).elim false (fun x => x.resend.find? (msgIsOf sender) = some cmd) = true := by decide +kernel

/-- A put that ends its window and one beyond it, of a tag with an entry and of one without. -/
theorem witness_fabric_arrivals : let m : Msg := .put sender 0 0 4092 0 [1, 2, 3, 4]
    let s := hearing m padBraid
    s.msg? 0 = some { msg := m, again := 0, begun := none } ∧ s.curCtx.window? 0 = some (.region 0x60000 4096) ∧ s.curCtx.window? 2 = none ∧
    (ctxRanges s s.curCtx (0x60000 + 4092) 4 .write).toOption.isSome = true ∧ hasEntry s 0 0 0 = false ∧
    hasEntry { s with cur := { s.cur with task := (expecting 1).task } } 0 0 0 = true := by decide +kernel

theorem witness_fetched : let s := { padBraid with cur := (padCommand { command (.bfetch 0 0 4) with up := true }).cur }
    (s.cur.fetching 0).isSome = true ∧ s.cur.active = true ∧ s.on = true := by decide +kernel

theorem witness_reductions : let r : Round := { group := 1, ctx := 0, tag := 0, round := 1, got := [], flags := Flags.none, left := [0, 2], fails := [] }
    let m : Msg := .bred sender 1 1 1 0 false 0 0 0 [0, 2] [0, 0, 0x80, 0x3F]
    r.is 0 1 1 0 = true ∧ (∃ q ∈ [0, 2], ({ r with got := r.got ++ [m] } : Round).of q = none) ∧ (∃ q ∈ r.left, q ≠ 0) ∧
    (∀ q ∈ ({ r with left := [2] } : Round).left, q = 2) := by decide +kernel

theorem witness_links : let x : Flit := { src := 1, dst := 0, seq := 0, crcOk := true, msg := none }
    nextSeq padBraid.fabric 1 = 0 ∧ x.seq.toNat = nextSeq padBraid.fabric x.src ∧ (2 ^ 31 ≤ ((0x80000000 : BitVec 32).toNat + 2 ^ 32 - 0) % 2 ^ 32) ∧
    ((0x7FFFFFFF : BitVec 32).toNat + 2 ^ 32 - 0) % 2 ^ 32 < 2 ^ 31 ∧ padBraid.curCtx.tab.here 2 = false ∧ padBraid.curCtx.tab.pkg 2 = some 1 ∧
    padBraid.ctxs = [padBraid.curCtx] := by decide +kernel

/-- A package heard too lately and one silent for long enough, a mirror message that no port carries, a link whose message waits. -/
theorem witness_package_failure : let f := padBraid.fabric
    (∀ g : Nat, g < 0 + 2 ^ 24 ∨ 0 + 2 ^ 24 ≤ g) ∧ f.heard = [] ∧ 1 ∉ f.failed ∧ f.stuck = [] ∧
    msgVersion (.forward 2 0 0 5 4 1 [] []) ≠ 0 ∧ carries padBraid padBraid.curCtx.tab 2 (msgVersion (.forward 2 0 0 5 4 1 [] [])) = false ∧
    (padBraid.ctx? 0).isSome = true ∧ (padBraid.curCtx.shard? 6).elim false (fun x => x.pri = 2 && x.mir = 0) = true ∧
    padBraid.lost padBraid.curCtx.tab 0 = false ∧ padBraid.curCtx.tab.pkg 0 ≠ some 1 := by
  refine ⟨fun g => by omega, ?_⟩
  decide +kernel

/-- An arrival whose bytes are still in flight, and one whose bytes are applied. -/
theorem witness_begun : let m : Msg := .put sender 0 0 4092 0 [1, 2, 3, 4]
    let s := { busy with fabric := { busy.fabric with inbox := [{ msg := m, again := 0, begun := some ([0], true) }] } }
    s.msg? 0 = some { msg := m, again := 0, begun := some ([0], true) } ∧ (∃ w ∈ s.mem.writes, w.id ∈ [0]) ∧
    ∀ w ∈ s.mem.writes, w.id ∉ [1] := by decide +kernel

/-- A node for shard 5 of 32 elements in blocks of 16 under Lion, whose one source is rank 0 and whose last step is 3. -/
def node : Shard :=
  { ctx := 0, sid := 5, desc := 0x50000, mirror := false, held := [], started := [], done := [], confirmed := [], hyp := [], refused := [],
    subs := [], outs := [] }

/-- The state with that node's descriptor at 0x50000, its list of sources at 0x50080. -/
def padNode : State := { withDevice (atAddr 0x2050000 (natLe 4 5 ++ natLe 4 32 ++ natLe 4 16 ++ natLe 2 0x302 ++ natLe 2 1 ++ natLe 8 3 ++
    natLe 8 0x51000 ++ natLe 8 0x52000 ++ natLe 8 0x53000 ++ natLe 8 0x54000 ++ natLe 8 0x50080 ++ natLe 4 0 ++ natLe 4 2)) padBraid with
  fabric := { padBraid.fabric with shards := [node] } }

theorem witness_node : (padNode.served? 0 5) = some node ∧ padNode.served? 0 6 = none ∧
    (readDesc padNode padNode.curCtx node).elim false (fun d => d.srcl = [0] && d.e / d.b = 2 && d.last = 3 && d.mir = 2 && d.pri = 0 &&
      (ctxRead padNode padNode.curCtx d.hyp 64).toOption.isSome && (ctxRead padNode padNode.curCtx (d.wb + 64) 64).toOption.isSome &&
      (mboandRule d.rule (fun _ => 0) 4).isSome) = true ∧
    padNode.lost padNode.curCtx.tab 2 = false ∧ ({ padNode with fabric := { padNode.fabric with failed := [1] } } : State).lost padNode.curCtx.tab 2 = true := by
  decide +kernel

/-- The node once it has applied block 1 of step 4. -/
def decided : Shard := { node with done := [(4, 1)], held := [⟨0, sender, 4, 1, []⟩] }

theorem witness_contributions : let m : Msg := .grad sender 0 5 4 1 (List.replicate 16 0)
    let s := hearing m padNode
    s.msg? 0 = some { msg := m, again := 0, begun := none } ∧ (s.ctx? 0).isSome = true ∧
    (4, 1) ∈ decided.done ∧ (4, 1) ∉ decided.confirmed ∧ (4, 0) ∉ decided.done ∧ (4, 0) ∉ decided.started := by decide +kernel

/-- An issued phase with no member, whose condition block is at 0x50000. -/
def openPhase : Group :=
  { h := mkHandle 2 1, members := [], issued := some 0, completed := 0, cancelled := 0, parent := 0, after := 0, number := 1,
    cond := 0x50000, born := 0, incomplete := false, met := [], ended := false, dead := false, counted := [] }

/-- A phase of the context whose condition block at 0x50000 names one arrival, with a deadline of 1 and of 0. -/
def padPhase (deadline : Nat) : State := withDevice (atAddr 0x2050000 (natLe 4 1 ++ natLe 4 deadline ++ List.replicate 16 0 ++ natLe 4 9))
  (pad.mapCtx 0 fun c => { c with phases := [openPhase] })

theorem witness_phases : let late : State → State := fun s => { s with gcyc := 1600 }
    (padPhase 1).curCtx.phases.all (fun g => group? (padPhase 1).curCtx.phases g.h = some g && phaseDue (late (padPhase 1)) (padPhase 1).curCtx g
      && !phaseDue (padPhase 1) (padPhase 1).curCtx g && !phaseDue (late (padPhase 0)) (padPhase 0).curCtx g && handleLevel g.h = 2) = true ∧
    (padPhase 1).curCtx.phases ≠ [] := by decide +kernel

theorem witness_energy_request : (0xFFFFFFFF : Word).toNat < 2 ^ 32 ∧ 2 ^ 32 ≤ (0x100000000 : Word).toNat ∧ pad.curCtx.energy.asked = false := by
  decide +kernel

/-! ### Errors and the module -/

/-- A clean or dirty line of the L2. -/
def lineOf (dirty : Bool) : L2Line := { die := 0, way := 23, line := 4, owner := 255, dirty := dirty, rrpv := 0, poison := false, hurt := none, leaving := false, dram := [] }

/-- A line that stands in its home L2, and an armed uncorrectable injection for it. -/
def armed : State :=
  { State.reset with mem := { State.reset.mem with l2 := [{ lineOf true with die := dpaDie 512 }], einj := 0x30000000200 } }

theorem witness_memory_errors : (∀ d ∈ [true, false], let l := lineOf d
      (([l] : List L2Line).find? fun x => x.line = l.line && x.dirty = l.dirty && !x.poison && x.way < 24) = some l) ∧
    State.reset.health.errlog.length < 16 ∧ 16 ≤ (List.replicate 16 (0 : Word)).length ∧
    (let s := armed;
      s.mem.einj.getLsbD 41 = true ∧ ∃ l ∈ s.mem.l2, l.line = (s.mem.einj.extractLsb' 7 33).toNat ∧
        l.die = dpaDie (128 * (s.mem.einj.extractLsb' 7 33).toNat)) := by decide +kernel

/-- An error log that is full and one with a record; a line with an injected error, a poisoned one. -/
theorem witness_error_lines : let full : Health := { State.reset.health with errlog := List.replicate 16 1 }
    16 ≤ full.errlog.length ∧ full.errlog = 1 :: List.replicate 15 1 ∧
    ([lineOf true].find? fun l => l.hurt = some false) = none ∧
    ([{ lineOf true with hurt := some false }].find? fun l => l.hurt = some false) = some { lineOf true with hurt := some false } ∧
    ({ lineOf true with poison := true } : L2Line).poison = true ∧ (lineOf true).owner < 256 := by decide +kernel

theorem witness_fatal : pad.unit? pad.cur.uid = some pad.cur ∧ (pad.ctx? pad.cur.ctx).isSome = true ∧ pad.cur.ctx < 256 := by decide +kernel

theorem witness_system_writes : errlogOk (1 <<< 63) = true ∧ (0xFFFFFFFFFF : Word).toNat < 2 ^ 40 ∧
    ((0xD73F : Word).toNat < 2 ^ 16 ∧ (0xD73F : Word).toNat / 64 % 4 = 0 ∧ (0xD73F : Word).toNat / 2 ^ 13 % 2 = 0 ∧
      (0xD73F : Word).toNat / 256 % 32 < 24) ∧
    ¬ (0x1800 : Word).toNat / 256 % 32 < 24 ∧ (0xFFFFFF0000 : Word).toNat % 2 ^ 16 = 0 ∧ einjOk (1 <<< 40) = true := by decide +kernel

theorem witness_retirement : (pad.units.map fun u => u.uid).Nodup ∧ 383 < 384 ∧ 383 ∉ pad.health.badCores ∧ 3 ∉ pad.health.badDies ∧
    pad.health.repairs = [] ∧ pad.health.replace = false ∧ ([63, 64, 65, 66, 67] : List Nat).Nodup ∧
    (∀ r ∈ [63, 64, 65, 66, 67], r < 68) := by decide +kernel

/-- The launchpad with host link 0 up and one transfer of four bytes in its ring at 0x70000. -/
def padTransfer (dir len : Nat) : State :=
  let s := pad.mapCtx 0 fun c => { c with rings := { c.rings with xfBase := 0x70000, xfSize := 16, xfTail := 1 } }
  withDevice (atAddr 0x2070000 (natLe 8 0 ++ natLe 8 0x20000 ++ natLe 4 len ++ natLe 4 dir))
    { s with board := { s.board with links := [(0, 7, 16)] } }

/-- Contexts in RUN with an IDE stream and without one. -/
theorem witness_unprotected : let s := pad.mapCtx 0 fun c => { c with tdisp := true }
    s.unprotected 0 = true ∧ ({ s with board := { s.board with ide := [0] } } : State).unprotected 0 = false ∧ pad.unprotected 0 = false := by
  decide +kernel

theorem witness_host_registers : (15 : BitVec 32).toNat < (padTransfer 0 4).curCtx.rings.xfSize ∧ pad.curCtx.rings.cqHead = pad.curCtx.rings.cqTail ∧
    (padTransfer 0 4).curCtx.rings.xfHead ≠ (padTransfer 0 4).curCtx.rings.xfTail ∧ pad.ctx? pad.curCtx.id = some pad.curCtx := by decide +kernel

theorem witness_transfers : ∀ d ∈ [0, 1], let s := padTransfer d 0x1000000
    (nextTransfer s s.curCtx).elim false (fun bs => byteField bs 16 4 = 2 ^ 24 && byteField bs 20 4 = d && byteField bs 24 8 = 0 &&
      byteField bs 8 8 = 0x20000) = true ∧ nextTransfer pad pad.curCtx = none := by decide +kernel

theorem witness_commit : (ctxRead pad pad.curCtx pad.curCtx.rings.braidTab.toNat 40).toOption.isSome = true ∨
    (ctxRead (pad.mapRings 0 fun r => { r with braidTab := 0x70000 }) pad.curCtx 0x70000 40).toOption.isSome = true := by decide +kernel

/-- The launchpad whose context is in RUN with key slot 1. -/
def guarded : State := pad.mapCtx 0 fun c => { c with keys := [1], tdisp := true }

theorem witness_contexts : linkTrained (padTransfer 0 4) (127 / 128) = true ∧ linkTrained (padTransfer 0 4) (255 / 128) = false ∧
    (padTransfer 0 4).ctx? 127 = none ∧ ([2, 3] ∈ ([[0, 1, 2, 3], [0, 1], [2, 3], [0], [1], [2], [3]] : List (List Nat))) ∧
    (∀ i ∈ [0], (pad.ctx? i).isSome = true) ∧ holdsPage pad.mem pad.curCtx 0 = true ∧
    ¬ (∃ x ∈ guarded.ctxs, x.id ≠ 0 ∧ ∃ k ∈ x.keys, k ∈ guarded.curCtx.keys) ∧ (∃ c ∈ guarded.ctxs, c.tdisp = true ∧ 1 ∈ c.keys) := by decide +kernel

/-- A partition that meets another context's and one that meets none. -/
theorem witness_partitions : let s := padTransfer 0 4
    let t : State := { s with ctxs := s.ctxs.map fun c => { c with dies := [0, 1], launches := [] }, cur := { s.cur with ctx := 9 } }
    (∃ c ∈ t.ctxs, c.id ∉ [1] ∧ c.dies ≠ [0] ∧ ∃ d ∈ c.dies, d ∈ [0]) ∧ (∀ c ∈ t.ctxs, c.id ∉ [1] → c.dies = [2, 3] ∨ ∀ d ∈ c.dies, d ∉ [2, 3]) ∧
    (∀ c ∈ t.ctxs, c.id ∈ [0] → c.launches = [] ∧ ∀ u ∈ t.units, u.ctx = c.id → u.isFirmware = true) := by decide +kernel

/-- An interface in RUN beside one that is not, a slot for the first alone and for both. -/
theorem witness_slots : (∃ c ∈ guarded.ctxs, c.tdisp = true ∧ (1 ∈ c.keys ∨ c.id ∈ [0, 1]) ∧ ∃ i ∈ [0, 1], i ≠ c.id) ∧
    ¬ (∃ c ∈ guarded.ctxs, c.tdisp = true ∧ (1 ∈ c.keys ∨ c.id ∈ [0]) ∧ ∃ i ∈ [0], i ≠ c.id) := by decide +kernel

theorem witness_management : pad.ctxs = [pad.curCtx] ∧ 2250000 ≤ pad.board.budget ∧ (115 : Nat) ≤ 115 ∧ ¬ 105 < 105 := by decide +kernel

/-- The boot ROM accepts no image or refuses one of another key. -/
theorem witness_images : (∀ x ∈ ([] : List FwImage), x.keyHash = Config.fusedKeyHash) ∧
    ¬ (∀ x ∈ [({ bytes := [], signature := [], keyHash := Config.fusedKeyHash + 1, version := 0 } : FwImage)], x.keyHash = Config.fusedKeyHash) := by
  refine ⟨fun _ h => (by cases h), fun h => ?_⟩
  have := h _ List.mem_cons_self
  simp at this

/-! ### Whole bundles and LIWs, clusters, services and units -/

theorem witness_bundle_slots : Calm (withRegs [(9, 0x1FFFF8)] pad) ∧ scalarRow (withRegs [(9, 0x1FFFF8)] pad) (.movi ⟨0, true⟩ 9 7) = some (⟨0, true⟩, 9, 7) ∧
    scalarRow (withRegs [(9, 0x1FFFF8)] pad) (.mov .always 9 10) = some (.always, 9, (withRegs [(9, 0x1FFFF8)] pad).reg 10) ∧ guardOn (withRegs [(9, 0x1FFFF8)] pad) .always = true ∧
    InLocal (withRegs [(9, 0x1FFFF8)] pad) (slotEa (withRegs [(9, 0x1FFFF8)] pad).task 9 0 8) 8 ∧ OffControl (withRegs [(9, 0x1FFFF8)] pad) (slotEa (withRegs [(9, 0x1FFFF8)] pad).task 9 0 8).toNat 8 :=
  ⟨calm_of (by decide +kernel), by decide, by decide, by decide, by unfold InLocal; decide +kernel, by unfold OffControl; decide +kernel⟩

/-- Two tests of which the second is true, with a move for each path and one for every path. -/
def branching : Liw :=
  { maskA := 7, hasB := false, pop := 0, nt := 2, tests := 0x10, maskB := 0,
    moves := [⟨9, { imm 3 with tag := 1 }⟩, ⟨10, { imm 4 with tag := 2 }⟩, ⟨33, imm 1⟩], targets := [12, 12], longs := [] }

theorem witness_paths : liwLegal branching = true ∧ (∀ x ∈ branching.moves, x.dst.toNat < 48) ∧
    (liwBuses branching).length = branching.moves.length ∧ branching.targets.length = branching.nt.toNat ∧
    (List.range 2).find? (fun k => guardOn padTwo (liwTest branching k)) = some 1 ∧
    padTwo.isStart (padTwo.task.sq.pc + (12 : BitVec 32).signExtend 64) = true ∧ pad.isStart (pad.task.sq.pc + 12) = false := by decide +kernel

/-- The second test's path: its target, and the moves of that path and of every path. -/
theorem test_branching : after (exec (.liwIssue branching) padTwo) (fun t => (t.task.sq.pc, t.reg 9, t.reg 10, t.prd 1)) =
    some (0x1000C, padTwo.reg 9, 4, true) := by decide +kernel

theorem witness_clusters : Calm pad ∧ (∀ c : BitVec 3, FiresB pad c (imm 1)) ∧ activeLane pad 0 127 = true ∧
    (([0, 0x40, 8, 0x38] : List Lane).map fun w => w &&& 0xFFFFFFC7) = [0, 0x40, 0, 0] :=
  ⟨pad_calm, fun _ => ⟨by decide +kernel, .inl rfl, by show (0 : BitVec 3) ≠ 7; decide, .inl rfl⟩, by decide +kernel, by decide⟩

/-- R133: 3 + 2 in lane 5 of cluster 2, two τ later. -/
theorem test_cluster_add : after (exec (.liwIssue (liwOfMoveB 332 (imm 3)))
      (pad.mapTask fun t => { t with ports := { t.ports with b := sset (sset t.ports.b (16 * 328 + 5) 2) (16 * 330) 1 } }))
    (fun t => t.task.pipe.map fun p => (p.ready, p.lanes[5]?)) = some [(2, some 5)] := by decide +kernel

theorem witness_pops : let s := withPorts [(768, 1)] padQueue
    (s.task.queues.map fun b => b.j).Nodup ∧ (∃ b, s.task.queue? 1 = some b ∧ 1 ≤ b.fill) ∧ s.task.queue? 0 = none ∧
    (2 : BitVec 8).getLsbD 1 = true ∧ oneQueue.fill < oneQueue.depth :=
  ⟨by decide +kernel, ⟨oneQueue, by decide +kernel, by decide⟩, by decide +kernel, by decide, by decide⟩

theorem witness_converting : let w : Word := 0x9000
    (w.toNat < 2 ^ 16 ∧ w.toNat % 512 = 0 ∧ ¬ (w.getLsbD 15 = true ∧ w.extractLsb' 12 3 = 7)) ∧ fsize (formatOf (w.extractLsb' 12 3).toNat) = 2 ∧
    fsize (formatOf 0) = 4 ∧ fsize (formatOf 3) = 1 ∧ InLocal pad 0 (128 * 2) ∧ InLocal pad 0 4 ∧ 32 ≤ (32 : Word).toNat := by
  unfold InLocal; decide +kernel

/-- The launchpad with a queue, and its arguments for a service that a CALLR with O = 1 calls. -/
theorem witness_services : let s := withRegs [(9, 1), (10, 1)] padQueue
    Calm s ∧ s.task.fr.rb ≤ s.task.fr.fb ∧ ∃ t, CallFits s 1 t ∧ t.sreg 9 = 1 ∧ t.queue? 1 = some oneQueue ∧ t.sreg 10 = 1 ∧ oneQueue.fill ≠ 0 :=
  ⟨calm_of (by decide +kernel), by decide +kernel, (planSpills 1 256 (withRegs [(9, 1), (10, 1)] padQueue).task).get (by decide +kernel),
    ⟨by decide +kernel, by decide +kernel, (Option.some_get _).symm⟩, by decide +kernel, by decide +kernel, by decide +kernel, by decide⟩

/-- An entry of mb.dot4.bf16, and one of a NEAR unit whose ranges, when it has two, overlap. -/
def unitOf (near : Bool) (ranges : List (BitVec 32)) : SubstEntry :=
  { digest := 0, unit := 0x0041, near := near, cver := 1, na := 2, nr := 1, eb := 1, ranges := ranges }

/-- The long launchpad with one routine, bound to a unit. -/
def padUnit (e : SubstEntry) : State := padLong.mapCtx 0 fun c => { c with modules := c.modules.map fun m => { m with
  routines := [{ id := 5, entry := 0x10010, restart := true, digest := 0, eq := some e, nearU := none }] } }

theorem witness_units : (∀ near ∈ [false, true], ∀ rs ∈ [[], [0x200100, 0x200100]], let e := unitOf near rs
      ((padUnit e).routineAt (padUnit e).task.sq.pc 5).elim false (fun r => r.choice (padUnit e).bindLevel = some e) = true) ∧
    (unitEffect 0x0041).isSome = true ∧ nearLane 1 0 0 = 0 := by decide +kernel

theorem witness_unit_ranges : let s := withRegs [(10, 8)] padLong
    (∃ t, CallFits s 1 t ∧ unitAllowed (t.called 0x10010 1) (unitOf false []) = true ∧
      unitAllowed (t.called 0x10010 1) (unitOf true [0x200100, 0x200100]) = false) ∧ s.task.inUnit = false :=
  ⟨⟨(planSpills 1 256 (withRegs [(10, 8)] padLong).task).get (by decide +kernel),
    ⟨by decide +kernel, by decide +kernel, (Option.some_get _).symm⟩, by decide +kernel, by decide +kernel⟩, by decide +kernel⟩

theorem witness_endl_beside : let s := padLong.mapTask fun t => { t with sq := { t.sq with loops := [oneLevel] } }
    Still s ∧ s.task.sq.loops = [oneLevel] ∧ oneLevel.depth = s.task.fr.depth ∧ oneLevel.stop = s.task.sq.pc ∧ Fires s (imm 3) :=
  ⟨⟨by decide +kernel, .inl (by decide +kernel), by decide +kernel, by decide +kernel, by decide +kernel, by decide +kernel,
    by decide +kernel⟩, by decide +kernel, by decide, by decide +kernel, imm_fires _ _ (by decide +kernel)⟩

/-! ### States that only firmware, late commands and closing rounds reach -/

/-- A procedure of system core 384 in focus. -/
def inFirmware : State := { base with cur := { base.cur with kind := .firmware, priv := .system, core := 384 } }

theorem witness_firmware : ∀ v : BitVec 10, Rest inFirmware ∧ SystemSource inFirmware (imm v) ∧ inFirmware.cur.priv = .system ∧
    inFirmware.cur.isFirmware = true ∧ inFirmware.unit? inFirmware.cur.uid = some inFirmware.cur :=
  fun _ => ⟨⟨by decide +kernel, by decide +kernel, by decide +kernel, by decide +kernel, by decide +kernel, by decide +kernel,
    by decide +kernel, by decide +kernel⟩, fun _ => .inl rfl, by decide +kernel, by decide +kernel, by decide +kernel⟩

theorem witness_fence_waits : busy.on = true ∧ busy.cur.kind = .user ∧ busy.task.cmds = [] ∧ busy.task.fmtPend = [] ∧
    endsAt busy.task busy.task.sq.pc = false ∧ busy.task.loads ≠ [] ∧ Fires busy (imm 0) ∧
    (∀ r ∈ moveTouches busy.task 0 { dst := 468, mv := imm 0 }, busy.task.pending r = false) :=
  ⟨by decide +kernel, by decide +kernel, by decide +kernel, by decide +kernel, by decide +kernel, by decide +kernel,
    imm_fires _ _ (by decide +kernel), by decide +kernel⟩

/-- A copy from LOCAL that has not read its source and is due now, and a store to that source. -/
theorem witness_capture : let c := { command (.copy .local .local 0 0x80 (.row 8) (.row 8) none) with data := [], due := 1 }
    let s := withRegs [(9, 8)] (pad.mapTask fun t => { t with cmds := [c], sq := { t.sq with tau := 1 } })
    s.task.cmds = [c] ∧ c.due = s.task.sq.tau ∧ c.late = false ∧ c.gt = none ∧ InLocal s (slotEa s.task 9 0 8) 8 ∧
    OffControl s (slotEa s.task 9 0 8).toNat 8 ∧ endsAt s.task s.task.sq.pc = false ∧ s.task.loads = [] := by
  unfold InLocal OffControl; decide +kernel

theorem witness_locked_lines : let s := withPorts [(64, 0x10000)] pad
    s.task.sq.ilocks.length ≤ 512 ∧ s.mem.l2 = [] ∧ s.mem.writes = [] ∧ (0x10000 / 128 + 0) * 128 < 2 ^ 64 ∧
    (∃ d, coreAccess (comeUp s) 0x10000 1 .fetch = .ok d) ∧ (coreAccess (comeUp s) 0x2000000 1 .fetch).toOption = none :=
  ⟨by decide +kernel, by decide +kernel, by decide +kernel, by decide, ⟨0x2010000, ok_of (by decide +kernel)⟩, by decide +kernel⟩

theorem witness_tlbi_quiet : inHandler.cur.priv ≠ .user ∧ ctxQuiet inHandler inHandler.cur.ctx = true ∧ ctxQuiet busy busy.cur.ctx = false := by
  decide +kernel

/-- The contribution of rank `r` to a sum over ranks 0 and 2, into window `w`. -/
def gives (r w : Nat) : Contribution :=
  { o := { sender with rank := r }, n := 1, op := 0, all := true, win := w, doff := 0, bytes := [0, 0, 0x80, 0x3F] }

/-- That round with the contribution of rank 0, as the one of rank 2 arrives. -/
def closing (w : Nat) : State :=
  let s := hearing ((gives 2 w).msg 1 1 0 [0, 2]) padBraid
  let r : Round := { group := 1, ctx := 0, tag := 0, round := 1, got := [(gives 0 0).msg 1 1 0 [0, 2]], flags := Flags.none, left := [],
                     fails := [] }
  { s with fabric := { s.fabric with rounds := [r] } }

theorem witness_last_contribution : ∀ w ∈ [0, 1], let c := gives 2 w
    (closing w).msg? 0 = some { msg := c.msg 1 1 0 [0, 2], again := 0, begun := none } ∧ ((closing w).ctx? c.o.ctx).isSome = true ∧
    ((closing w).fabric.rounds.filter fun r => r.is c.o.ctx 1 1 0) = (closing w).fabric.rounds ∧
    (∀ q ∈ [0, 2], ∃ o ∈ [(gives 0 0).o, c.o], o.rank = q) ∧ (((gives 0 0).win = c.win) ↔ w = 0) := by decide +kernel

/-- R339: ranks 0 and 2 hear of the sum of 1 and 1. -/
theorem test_last_contribution : after (exec (.bredContribution 0) (closing 0)) (fun t => (t.fabric.inbox.map fun m => m.msg, t.fabric.outbox)) =
    some ([.deliver 0 0 0 1 1 0 0 0 [0, 0, 0, 0x40]], [(1, .deliver 2 0 0 1 1 0 0 0 [0, 0, 0, 0x40])]) := by decide +kernel

/-- A block whose second source has contributed already, and its hyperparameters, fetched or not. -/
theorem witness_two_sources : let s := withDevice [(0x205000E, 2), (0x2050084, 2)] padNode
    let n : Shard := { node with held := [⟨2, { sender with rank := 2 }, 4, 1, []⟩] }
    (readDesc s s.curCtx node).elim false (fun d => d.srcl = [0, 2] && d.last = 3 && 1 < d.e / d.b && (ctxRead s s.curCtx d.hyp 64).toOption.isSome)
      = true ∧ (∀ r ∈ [0, 2], r = 0 ∨ ∃ x ∈ n.held, x.src = r ∧ x.step = 4 ∧ x.blk = 1) ∧ (4, 1) ∉ n.started ∧
    (n.hyp.find? fun h => h.1 = 4) = none ∧ ([(4, [])].find? fun h : Nat × List Byte => h.1 = 4) = some (4, []) := by decide +kernel

end Sys2Proof.Tests
end

section
/-! SUPPORT. The host link: what a request of the host leaves in a virtual function's rings, how a link trains, what a transfer
moves, and what the commit register registers. -/

namespace Sys2Proof.Machine

/-! ### Changing one context -/

section
variable (s : State) (i : Nat) (f : Ctx → Ctx)

@[simp] theorem State.mapCtx_cur : (s.mapCtx i f).cur = s.cur := rfl
@[simp] theorem State.mapCtx_parked : (s.mapCtx i f).parked = s.parked := rfl
@[simp] theorem State.mapCtx_mem : (s.mapCtx i f).mem = s.mem := rfl
@[simp] theorem State.mapCtx_board : (s.mapCtx i f).board = s.board := rfl
@[simp] theorem State.mapCtx_fabric : (s.mapCtx i f).fabric = s.fabric := rfl
end

/-- A change that keeps numbers is what its own number reads afterwards. -/
theorem ctx?_mapCtx {s : State} {i : Nat} {c : Ctx} (h : s.ctx? i = some c) {f : Ctx → Ctx} (hf : ∀ x, (f x).id = x.id) :
    (s.mapCtx i f).ctx? i = some (f c) := by
  have hid : c.id = i := by simpa using List.find?_some h
  have hp : ((fun x : Ctx => decide (x.id = i)) ∘ fun x => if x.id = i then f x else x) = fun x => decide (x.id = i) := by
    funext x
    by_cases hx : x.id = i
    · simp only [Function.comp_apply, if_pos hx, hf]
    · simp only [Function.comp_apply, if_neg hx]
  have hmap : (s.mapCtx i f).ctx? i = (s.ctx? i).map fun x => if x.id = i then f x else x := by
    simp only [State.ctx?, State.mapCtx, List.find?_map, hp]
  rw [hmap, h, Option.map_some, if_pos hid]

/-- A change of one context leaves the others. -/
theorem mem_mapCtx_of_ne {s : State} {i : Nat} {x : Ctx} (hx : x ∈ s.ctxs) (hne : x.id ≠ i) (f : Ctx → Ctx) :
    x ∈ (s.mapCtx i f).ctxs :=
  List.mem_map.mpr ⟨x, hx, if_neg hne⟩

/-! ### Requests that change a context's rings (R354, R357) -/

/-- `i` leaves the rings `r'` in the context `c` and changes neither units nor memory nor another context. -/
def SetsRings (s : State) (c : Ctx) (i : Instr) (r' : Rings) : Prop :=
  ∃ t, exec i s = .next t ∧ t.cur = s.cur ∧ t.mem = s.mem ∧ t.parked = s.parked ∧
    t.ctx? c.id = some { c with rings := r' } ∧ ∀ x ∈ s.ctxs, x.id ≠ c.id → x ∈ t.ctxs

/-- A refused request changes nothing (R357). -/
theorem hostRings_unprotected {s : State} {c : Nat} (h : s.unprotected c = true) (f : Rings → Rings) : s.hostRings c f = s :=
  if_pos h

/-- A request that is not refused does what it asks for. -/
theorem setsRings_of_hostRings {s : State} {c : Ctx} (hc : s.ctx? c.id = some c) (hu : s.unprotected c.id = false) {i : Instr}
    {f : Rings → Rings} {r' : Rings} (hi : exec i s = .next (s.hostRings c.id f)) (hf : f c.rings = r') : SetsRings s c i r' := by
  have hm : s.hostRings c.id f = s.mapCtx c.id fun x => { x with rings := f x.rings } := by simp [State.hostRings, State.mapRings, hu]
  refine ⟨_, hi.trans (congrArg _ hm), rfl, rfl, rfl, ?_, fun x hx hne => mem_mapCtx_of_ne hx hne _⟩
  subst hf
  exact ctx?_mapCtx hc fun _ => rfl

/-- A ring size of R354: a power of two from 16 to 65,536. -/
def RingSize (n : Nat) : Prop := ∃ k, 4 ≤ k ∧ k ≤ 16 ∧ n = 2 ^ k

theorem ringSizeOk_iff (n : Nat) : ringSizeOk n = true ↔ RingSize n := by
  simp only [ringSizeOk, RingSize, List.contains_iff_mem, List.mem_map, List.mem_range]
  constructor
  · rintro ⟨i, hi, rfl⟩
    exact ⟨i + 4, by omega, by omega, rfl⟩
  · rintro ⟨k, hlo, hhi, rfl⟩
    exact ⟨k - 4, by omega, by rw [Nat.sub_add_cancel hlo]⟩

/-- The low 32 bits of a written word. -/
theorem toNat_low32 (v : Word) : (v.extractLsb' 0 32).toNat = v.toNat % 2 ^ 32 := by simp

/-- A written word is a multiple of 4096. -/
theorem low12_eq_zero_iff (v : Word) : v.extractLsb' 0 12 = 0 ↔ v.toNat % 4096 = 0 := by
  rw [← BitVec.toNat_inj]; simp

section
variable (s : State) (c : Nat)

theorem exec_cqDoorbell (tail : BitVec 32) : exec (.cqDoorbell c tail) s =
    .next (s.hostRings c fun r => if r.cqSize ≤ tail.toNat then r else { r with cqTail := tail.toNat }) := rfl

theorem exec_xferDoorbell (tail : BitVec 32) : exec (.xferDoorbell c tail) s =
    .next (s.hostRings c fun r => if r.xfSize ≤ tail.toNat then r else { r with xfTail := tail.toNat }) := rfl

theorem exec_vfRegisterWrite (off : Nat) (v : Word) : exec (.vfRegisterWrite c off v) s =
    .next (s.hostRings c (writeVfRegister off v)) := rfl
end

/-- Every request to an interface in RUN without an IDE stream changes nothing (R357). -/
theorem exec_unprotected {s : State} {c : Nat} (h : s.unprotected c = true) {tail : BitVec 32} {off : Nat} {v : Word} {i : Instr}
    (hi : i ∈ ([.cqDoorbell c tail, .xferDoorbell c tail, .vfRegisterWrite c off v] : List Instr)) : exec i s = .next s := by
  simp only [List.mem_cons, List.not_mem_nil, or_false] at hi
  obtain rfl | rfl | rfl := hi
  · rw [exec_cqDoorbell, hostRings_unprotected h]
  · rw [exec_xferDoorbell, hostRings_unprotected h]
  · rw [exec_vfRegisterWrite, hostRings_unprotected h]

/-- A write to a register leaves what the register makes of the rings. -/
theorem setsRings_vfRegisterWrite {s : State} {c : Ctx} (hc : s.ctx? c.id = some c) (hu : s.unprotected c.id = false) {off : Nat}
    {v : Word} {r' : Rings} (h : writeVfRegister off v c.rings = r') : SetsRings s c (.vfRegisterWrite c.id off v) r' :=
  setsRings_of_hostRings hc hu (exec_vfRegisterWrite ..) h

/-! ### What each register does with a written word (R354) -/

section
variable (v : Word) (r : Rings)

/-- A register without effect: it is read-only, a doorbell of 32 bits, or none stands there. -/
theorem writeVfRegister_other {off : Nat} (h : off ∉ [0x000, 0x008, 0x010, 0x018, 0x01C, 0x028, 0x030, 0x040]) :
    writeVfRegister off v r = r := by
  simp only [List.mem_cons, List.not_mem_nil, or_false, not_or] at h
  unfold writeVfRegister
  split <;> simp_all

theorem writeVfRegister_cqBase : writeVfRegister 0x000 v r =
    if r.cqHead = r.cqTail ∧ v.toNat % 4096 = 0 then { r with cqBase := v } else r := by
  simp only [writeVfRegister, Bool.and_eq_true, decide_eq_true_eq, low12_eq_zero_iff]

theorem writeVfRegister_cqSize : writeVfRegister 0x008 v r =
    if r.cqHead = r.cqTail ∧ ringSizeOk (v.toNat % 2 ^ 32) = true then
      { r with cqSize := v.toNat % 2 ^ 32, cqHead := r.cqHead % (v.toNat % 2 ^ 32), cqTail := r.cqTail % (v.toNat % 2 ^ 32) }
    else r := by
  simp [writeVfRegister]

theorem writeVfRegister_evBase : writeVfRegister 0x010 v r = if r.evHead = r.evTail then { r with evBase := v } else r := rfl

theorem writeVfRegister_evSize : writeVfRegister 0x018 v r =
    if r.evHead = r.evTail ∧ ringSizeOk (v.toNat % 2 ^ 32) = true then
      { r with evSize := v.toNat % 2 ^ 32, evHead := r.evHead % (v.toNat % 2 ^ 32), evTail := r.evTail % (v.toNat % 2 ^ 32) }
    else r := by
  simp [writeVfRegister]

theorem writeVfRegister_evHead : writeVfRegister 0x01C v r =
    if v.toNat % 2 ^ 32 < r.evSize then { r with evHead := v.toNat % 2 ^ 32 } else r := by
  simp [writeVfRegister]

theorem writeVfRegister_braidTab : writeVfRegister 0x028 v r = { r with braidTab := v } := rfl

theorem writeVfRegister_xfBase : writeVfRegister 0x030 v r =
    if r.xfHead = r.xfTail ∧ v.toNat % 4096 = 0 then { r with xfBase := v } else r := by
  simp only [writeVfRegister, Bool.and_eq_true, decide_eq_true_eq, low12_eq_zero_iff]

theorem writeVfRegister_xfSize : writeVfRegister 0x040 v r =
    if r.xfHead = r.xfTail ∧ ringSizeOk (v.toNat % 2 ^ 32) = true then
      { r with xfSize := v.toNat % 2 ^ 32, xfHead := r.xfHead % (v.toNat % 2 ^ 32), xfTail := r.xfTail % (v.toNat % 2 ^ 32) }
    else r := by
  simp [writeVfRegister]
end

/-- What the host reads in a register of a context that it may reach (R6, R354, R357). -/
theorem hostOp_readRegister {s : State} {c : Ctx} (hc : s.ctx? c.id = some c) (hu : s.unprotected c.id = false) (off : Nat) :
    hostOp (.readRegister c.id off) s = s.report (.register c.id off (readVfRegister off c.rings)) := by
  simp [hostOp, State.forCtx, hc, hu]

/-- Each register that stands reads as it is, a doorbell or the commit register as 0. -/
theorem readVfRegister_of_mem {r : Rings} {off : Nat} {v : Word} (h : (off, v) ∈ ([(0x000, r.cqBase),
    (0x008, BitVec.ofNat 64 r.cqSize), (0x00C, 0), (0x010, r.evBase), (0x018, BitVec.ofNat 64 r.evSize),
    (0x01C, BitVec.ofNat 64 r.evHead), (0x020, BitVec.ofNat 64 r.evTail), (0x024, BitVec.ofNat 64 (r.evLost % 2 ^ 32)),
    (0x028, r.braidTab), (0x030, r.xfBase), (0x038, 0), (0x03C, 0), (0x040, BitVec.ofNat 64 r.xfSize),
    (0x044, BitVec.ofNat 64 r.xfHead)] : List (Nat × Word))) : readVfRegister off r = v := by
  simp only [List.mem_cons, List.not_mem_nil, or_false, Prod.mk.injEq] at h
  obtain ⟨rfl, rfl⟩ | ⟨rfl, rfl⟩ | ⟨rfl, rfl⟩ | ⟨rfl, rfl⟩ | ⟨rfl, rfl⟩ | ⟨rfl, rfl⟩ | ⟨rfl, rfl⟩ | ⟨rfl, rfl⟩ | ⟨rfl, rfl⟩ |
    ⟨rfl, rfl⟩ | ⟨rfl, rfl⟩ | ⟨rfl, rfl⟩ | ⟨rfl, rfl⟩ | ⟨rfl, rfl⟩ := h <;> rfl

/-! ### Link training (R353, R368) -/

/-- `t` comes from `s` by writes to memory, counts in contexts, and reports: no unit and no link has changed, and what had been reported
still is. -/
structure Notifies (s t : State) : Prop where
  cur : t.cur = s.cur
  parked : t.parked = s.parked
  links : t.board.links = s.board.links
  reports : ∀ r ∈ s.board.reports, r ∈ t.board.reports

theorem Notifies.refl (s : State) : Notifies s s := ⟨rfl, rfl, rfl, fun _ h => h⟩

theorem Notifies.trans {s t u : State} (h : Notifies s t) (k : Notifies t u) : Notifies s u :=
  ⟨k.cur.trans h.cur, k.parked.trans h.parked, k.links.trans h.links, fun r hr => k.reports r (h.reports r hr)⟩

theorem report_notifies (s : State) (r : Report) : Notifies s (s.report r) :=
  ⟨rfl, rfl, rfl, fun _ h => List.mem_append_left _ h⟩

theorem mapCtx_notifies (s : State) (i : Nat) (f : Ctx → Ctx) : Notifies s (s.mapCtx i f) := ⟨rfl, rfl, rfl, fun _ h => h⟩

theorem sendMsix_notifies (s : State) (i : Nat) : Notifies s (sendMsix s i) := by
  unfold sendMsix
  split
  · exact report_notifies ..
  · exact ⟨rfl, rfl, rfl, fun _ h => h⟩

/-- An interrupt, sent or kept, changes neither memory nor contexts. -/
theorem sendMsix_mem_ctxs (s : State) (i : Nat) : (sendMsix s i).mem = s.mem ∧ (sendMsix s i).ctxs = s.ctxs := by
  unfold sendMsix
  split <;> exact ⟨rfl, rfl⟩

/-- The interrupts that go out as a link comes up change nothing but reports and the list of those that wait. -/
theorem flushMsix_notifies (s : State) :
    Notifies s (flushMsix s) ∧ (flushMsix s).mem = s.mem ∧ (flushMsix s).ctxs = s.ctxs := by
  refine foldl_inv (fun t => Notifies s t ∧ t.mem = s.mem ∧ t.ctxs = s.ctxs) _ _ _ ⟨⟨rfl, rfl, rfl, fun _ h => h⟩, rfl, rfl⟩ ?_
  rintro t i ⟨hn, hm, hx⟩
  obtain ⟨km, kx⟩ := sendMsix_mem_ctxs t i
  exact ⟨hn.trans (sendMsix_notifies t i), km.trans hm, kx.trans hx⟩

/-- A write to a context's memory changes the memories alone. -/
theorem ctxWrite_eq_some {s t : State} {c : Ctx} {va : Nat} {bs : List Byte} (h : ctxWrite s c va bs = some t) :
    ∃ m, t = { s with mem := m } := by
  unfold ctxWrite at h
  split at h
  · exact ⟨_, (Option.some.inj h).symm⟩
  · cases h

theorem postEvent_notifies (s : State) (i : Nat) (bs : List Byte) : Notifies s (postEvent s i bs) := by
  unfold postEvent
  split
  · exact .refl s
  · dsimp only
    split
    · exact mapCtx_notifies ..
    · split
      · exact mapCtx_notifies ..
      · next hw =>
        obtain ⟨m, rfl⟩ := ctxWrite_eq_some hw
        have hm : Notifies s { s with mem := m } := ⟨rfl, rfl, rfl, fun _ h => h⟩
        exact (hm.trans (mapCtx_notifies ..)).trans (sendMsix_notifies ..)

/-- An alert is reported, whatever its records then find in the contexts' rings (R368). -/
theorem raiseAlert_notifies (s : State) (what : String) :
    Notifies s (raiseAlert s what) ∧ .alert what ∈ (raiseAlert s what).board.reports := by
  have h : Notifies (s.report (.alert what)) (raiseAlert s what) :=
    foldl_inv (Notifies (s.report (.alert what))) _ _ _ (.refl _) fun _ _ k => k.trans (postEvent_notifies ..)
  exact ⟨(report_notifies ..).trans h, h.reports _ (List.mem_append_right _ (List.mem_singleton.mpr rfl))⟩

/-- The width that a link of at least four lanes trains to. -/
theorem trainWidth_of_le {n : Nat} (h : 4 ≤ n) :
    ∃ w, trainWidth n = some w ∧ (w ∈ [4, 8, 16] ∧ w ≤ n ∧ n < 2 * w ∨ w = 16 ∧ 16 ≤ n) := by
  unfold trainWidth
  split
  · next h16 => exact ⟨16, rfl, .inr ⟨rfl, h16⟩⟩
  · split
    · exact ⟨8, rfl, .inl ⟨by simp, by omega, by omega⟩⟩
    · exact ⟨4, rfl, .inl ⟨by simp, by omega, by omega⟩⟩

/-- The links but one. -/
def otherLinks (s : State) (link : Nat) : List (Nat × Nat × Nat) := s.board.links.filter fun x => x.1 ≠ link

theorem mem_otherLinks {s : State} {link : Nat} {x : Nat × Nat × Nat} :
    x ∈ otherLinks s link ↔ x ∈ s.board.links ∧ x.1 ≠ link := by
  simp [otherLinks]

/-- The links of a state replaced. -/
def State.withLinks (s : State) (ls : List (Nat × Nat × Nat)) : State := { s with board := { s.board with links := ls } }

/-- There are two host links. -/
theorem exec_pcieLinkTrain_none {s : State} {link gen width : Nat} (h : 2 ≤ link) :
    exec (.pcieLinkTrain link gen width) s = .next s := if_pos h

theorem exec_pcieLinkTrain_up {s : State} {link gen width w : Nat} (hl : link < 2) (hg : 5 ≤ gen) (hw : trainWidth width = some w) :
    exec (.pcieLinkTrain link gen width) s = .next (flushMsix (s.withLinks ((link, min gen 7, w) :: otherLinks s link))) := by
  have hgen : trainGen gen = some (min gen 7) := if_neg (Nat.not_lt.mpr hg)
  refine (if_neg (Nat.not_le.mpr hl)).trans ?_
  rw [hgen, hw]
  rfl

theorem trainWidth_of_lt {n : Nat} (h : n < 4) : trainWidth n = none := by
  simp only [trainWidth, if_neg (show ¬ 16 ≤ n by omega), if_neg (show ¬ 8 ≤ n by omega), if_neg (show ¬ 4 ≤ n by omega)]

theorem exec_pcieLinkTrain_down {s : State} {link gen width : Nat} (hl : link < 2) (h : gen < 5 ∨ width < 4) :
    exec (.pcieLinkTrain link gen width) s = .next (raiseAlert (s.withLinks (otherLinks s link)) "link failed to train") := by
  refine (if_neg (Nat.not_le.mpr hl)).trans ?_
  obtain hg | hw := h
  · have hgen : trainGen gen = none := if_pos hg
    rw [hgen]
    rfl
  · rw [trainWidth_of_lt hw]
    cases trainGen gen <;> rfl

/-- A link trains to the highest generation and width that both ends support. -/
theorem pcieLinkTrain_trains {s : State} {link gen width : Nat} (hl : link < 2) (hg : 5 ≤ gen) (hw : 4 ≤ width) :
    ∃ t, exec (.pcieLinkTrain link gen width) s = .next t ∧ t.cur = s.cur ∧ t.parked = s.parked ∧
      (∀ x ∈ s.board.links, x.1 ≠ link → x ∈ t.board.links) ∧
      (∃ w, (link, min gen 7, w) ∈ t.board.links ∧ w ∈ [4, 8, 16] ∧ w ≤ width ∧ width < 2 * w ∨
        (link, min gen 7, 16) ∈ t.board.links ∧ 16 ≤ width) ∧ t.mem = s.mem ∧ t.ctxs = s.ctxs := by
  obtain ⟨w, ht, hb⟩ := trainWidth_of_le hw
  obtain ⟨hn, hm, hx⟩ := flushMsix_notifies (s.withLinks ((link, min gen 7, w) :: otherLinks s link))
  have hnew : (link, min gen 7, w) ∈ (flushMsix (s.withLinks ((link, min gen 7, w) :: otherLinks s link))).board.links := by
    rw [hn.links]
    exact List.mem_cons_self
  refine ⟨_, exec_pcieLinkTrain_up hl hg ht, hn.cur, hn.parked, fun x hx hne => ?_, ⟨w, ?_⟩, hm, hx⟩
  · rw [hn.links]
    exact List.mem_cons_of_mem _ (mem_otherLinks.mpr ⟨hx, hne⟩)
  · obtain ⟨hmem, hle, hlt⟩ | ⟨rfl, hle⟩ := hb
    · exact .inl ⟨hnew, hmem, hle, hlt⟩
    · exact .inr ⟨hnew, hle⟩

/-- A link that cannot train is down, with an alert. -/
theorem pcieLinkTrain_fails {s : State} {link gen width : Nat} (hl : link < 2) (h : gen < 5 ∨ width < 4) :
    ∃ t, exec (.pcieLinkTrain link gen width) s = .next t ∧ t.cur = s.cur ∧ t.parked = s.parked ∧
      (∀ x ∈ s.board.links, x.1 ≠ link → x ∈ t.board.links) ∧ linkTrained t link = false ∧ ∃ w, .alert w ∈ t.board.reports := by
  obtain ⟨hn, ha⟩ := raiseAlert_notifies (s.withLinks (otherLinks s link)) "link failed to train"
  refine ⟨_, exec_pcieLinkTrain_down hl h, hn.cur, hn.parked, fun x hx hne => ?_, ?_, _, ha⟩
  · rw [hn.links]
    exact mem_otherLinks.mpr ⟨hx, hne⟩
  · rw [linkTrained, hn.links]
    simp [State.withLinks, otherLinks]

/-! ### Transfers (R355) -/

theorem SameBytes.refl (m : Memory) : SameBytes m m := ⟨fun _ => rfl, fun _ => rfl, rfl, rfl, rfl, rfl⟩

theorem SameBytes.trans {m n k : Memory} (h : SameBytes m n) (g : SameBytes n k) : SameBytes m k := by
  obtain ⟨h1, h2, h3, h4, h5, h6⟩ := h
  obtain ⟨g1, g2, g3, g4, g5, g6⟩ := g
  exact ⟨fun d => (g1 d).trans (h1 d), fun d => (g2 d).trans (h2 d), g3.trans h3, g4.trans h4, g5.trans h5, g6.trans h6⟩

/-- An access in an L2 moves lines and leaves the bytes. -/
theorem l2Touch_sameBytes (h : Health) (m : Memory) (die dpa : Nat) (hint : Option Nat) (ctx : Nat) (wr : Bool) :
    SameBytes m (l2Touch h m die dpa hint ctx wr) := by
  have same : ∀ ls e, SameBytes m { m with l2 := ls, einj := e } := fun _ _ => ⟨fun _ => rfl, fun _ => rfl, rfl, rfl, rfl, rfl⟩
  unfold l2Touch
  dsimp only
  split
  · exact same ..
  · split
    · exact same ..
    · split <;> exact same ..

theorem agentWalked_sameBytes (s : State) (c : Ctx) (rs : List (Nat × Nat)) : SameBytes s.mem (agentWalked s c rs) :=
  foldl_inv (SameBytes s.mem) _ _ _ (.refl _) fun _ _ h => h.trans (l2Touch_sameBytes ..)

theorem agentTouch_sameBytes (h : Health) (m : Memory) (ctx : Nat) (rs : List (Nat × Nat)) : SameBytes m (agentTouch h m ctx rs) :=
  foldl_inv (SameBytes m) _ _ _ (.refl _) fun _ _ k => k.trans (l2Touch_sameBytes ..)

/-- The head of a transfer ring advances by one descriptor. -/
def State.advanceTransfer (s : State) (c : Nat) : State := s.mapRings c fun r => { r with xfHead := (r.xfHead + 1) % r.xfSize }

section
variable {s : State} {c : Ctx} {ok : Bool} {bs : List Byte}

/-- A context without a next descriptor moves nothing. -/
theorem exec_transferDescriptor_none (hc : s.ctx? c.id = some c) (hn : nextTransfer s c = none) :
    exec (.transferDescriptor c.id ok) s = .next s := by
  simp only [exec, execTransferDescriptor, hc, hn]

/-- A misaligned CPL moves nothing and writes no completion word. -/
theorem exec_transferDescriptor_misaligned (hc : s.ctx? c.id = some c) (hn : nextTransfer s c = some bs)
    (h : byteField bs 24 8 % 8 ≠ 0) : exec (.transferDescriptor c.id ok) s = .next (s.advanceTransfer c.id) := by
  simp only [exec, execTransferDescriptor, hc, hn, if_pos h]
  rfl

/-- A descriptor is performed, its completion word is written and the head advances. -/
theorem exec_transferDescriptor {t : State} {st : Nat} (hc : s.ctx? c.id = some c) (hn : nextTransfer s c = some bs)
    (h : byteField bs 24 8 % 8 = 0) (hp : performTransfer s c bs ok = (t, st)) :
    exec (.transferDescriptor c.id ok) s = .next ((writeWord t c (byteField bs 24 8) st).advanceTransfer c.id) := by
  simp only [exec, execTransferDescriptor, hc, hn, if_neg (not_not_intro h), hp]
  rfl

/-- A length or direction that R355 does not allow. -/
def BadTransfer (bs : List Byte) : Prop :=
  byteField bs 16 4 % 4 ≠ 0 ∨ byteField bs 16 4 < 4 ∨ 2 ^ 24 < byteField bs 16 4 ∨ 1 < byteField bs 20 4

/-- The check as the model writes it. -/
theorem badTransfer_iff (bs : List Byte) : BadTransfer bs ↔ (byteField bs 16 4 % 4 ≠ 0 || byteField bs 16 4 < 4 ||
    2 ^ 24 < byteField bs 16 4 || 1 < byteField bs 20 4 : Bool) = true := by
  simp [BadTransfer, or_assoc]

theorem performTransfer_bad (h : BadTransfer bs) : performTransfer s c bs ok = (s, 0x10) :=
  if_pos ((badTransfer_iff bs).mp h)

/-- How DEVICE is accessed by a transfer. -/
def transferAccess (bs : List Byte) : Access := if byteField bs 20 4 = 1 then .read else .write

/-- What a well-formed descriptor comes to, by the ranges of its DEVICE side. -/
def transferResult (s : State) (c : Ctx) (bs : List Byte) (ok : Bool) : Except FaultCode (List (Nat × Nat)) → State × Nat
  | .error _ => (s, 0x13)
  | .ok rs => if ok then (moveTransfer s c (byteField bs 0 8) (byteField bs 8 8) (byteField bs 16 4) (byteField bs 20 4 = 1) rs, 0)
      else (s, 0x13)

theorem performTransfer_eq (h : ¬ BadTransfer bs) : performTransfer s c bs ok =
    transferResult s c bs ok (ctxRanges s c (byteField bs 8 8) (byteField bs 16 4) (transferAccess bs)) :=
  (if_neg (mt (badTransfer_iff bs).mpr h)).trans rfl

/-- A page of DEVICE that the context may not use. -/
theorem performTransfer_fault (h : ¬ BadTransfer bs) {e : FaultCode}
    (he : ctxRanges s c (byteField bs 8 8) (byteField bs 16 4) (transferAccess bs) = .error e) :
    performTransfer s c bs ok = (s, 0x13) := by
  rw [performTransfer_eq h, he]
  rfl

/-- A page of the host that ATS refuses. -/
theorem performTransfer_refused (h : ¬ BadTransfer bs) {rs : List (Nat × Nat)}
    (hr : ctxRanges s c (byteField bs 8 8) (byteField bs 16 4) (transferAccess bs) = .ok rs) :
    performTransfer s c bs false = (s, 0x13) := by
  rw [performTransfer_eq h, hr]
  rfl

theorem performTransfer_moved (h : ¬ BadTransfer bs) {rs : List (Nat × Nat)}
    (hr : ctxRanges s c (byteField bs 8 8) (byteField bs 16 4) (transferAccess bs) = .ok rs) :
    performTransfer s c bs true =
      (moveTransfer s c (byteField bs 0 8) (byteField bs 8 8) (byteField bs 16 4) (byteField bs 20 4 = 1) rs, 0) := by
  rw [performTransfer_eq h, hr]
  rfl
end

/-- A transfer to the host changes host memory; of the memories, only what the caches hold. -/
theorem moveTransfer_toHost (s : State) (c : Ctx) (iova va n : Nat) (rs : List (Nat × Nat)) : ∃ m, SameBytes s.mem m ∧
    moveTransfer s c iova va n true rs =
      { s with mem := m, board := { s.board with host := writeBytes s.board.host iova (homeRanges s.mem rs) } } :=
  ⟨_, (agentWalked_sameBytes s c [(va, n)]).trans (agentTouch_sameBytes s.health _ c.id rs), rfl⟩

/-- A transfer from the host is a write to the context's memory at SYS scope. -/
theorem moveTransfer_fromHost (s : State) (c : Ctx) (iova va n : Nat) (rs : List (Nat × Nat)) :
    moveTransfer s c iova va n false rs =
      { s with mem := agentWrite s.health (agentWalked s c [(va, n)]) c.id (placeRanges rs (readBytes s.board.host iova n)) } := rfl

section
variable {s : State} {c : Ctx} {bs : List Byte} {rs : List (Nat × Nat)}

/-- A transfer to the host whose checks have passed. -/
theorem performTransfer_toHost (h : ¬ BadTransfer bs) (hd : byteField bs 20 4 = 1)
    (hr : ctxRanges s c (byteField bs 8 8) (byteField bs 16 4) .read = .ok rs) : ∃ m, SameBytes s.mem m ∧
      performTransfer s c bs true =
        ({ s with mem := m, board := { s.board with host := writeBytes s.board.host (byteField bs 0 8) (homeRanges s.mem rs) } }, 0) := by
  obtain ⟨m, hm, he⟩ := moveTransfer_toHost s c (byteField bs 0 8) (byteField bs 8 8) (byteField bs 16 4) rs
  have ha : transferAccess bs = .read := if_pos hd
  have hp := performTransfer_moved h (ha ▸ hr)
  rw [decide_eq_true hd, he] at hp
  exact ⟨m, hm, hp⟩

/-- A transfer from the host whose checks have passed. -/
theorem performTransfer_fromHost (h : ¬ BadTransfer bs) (hd : byteField bs 20 4 = 0)
    (hr : ctxRanges s c (byteField bs 8 8) (byteField bs 16 4) .write = .ok rs) : performTransfer s c bs true =
      ({ s with mem := agentWrite s.health (agentWalked s c [(byteField bs 8 8, byteField bs 16 4)]) c.id
                  (placeRanges rs (readBytes s.board.host (byteField bs 0 8) (byteField bs 16 4))) }, 0) := by
  have hne : byteField bs 20 4 ≠ 1 := by omega
  have ha : transferAccess bs = .write := if_neg hne
  have hp := performTransfer_moved h (ha ▸ hr)
  rwa [decide_eq_false hne, moveTransfer_fromHost] at hp
end

/-! ### The commit register (R328, R354) -/

section
variable {s : State} {c : Ctx} {bs : List Byte}

theorem exec_braidCommit_ignored (hc : s.ctx? c.id = some c) {v : BitVec 32} (hv : v ≠ 1) :
    exec (.braidCommit c.id v) s = .next s := by
  have hv' : ¬ v = 1#32 := hv
  simp [exec, execBraidCommit, hc, hv']

theorem exec_braidCommit (hc : s.ctx? c.id = some c) (hu : s.unprotected c.id = false) :
    exec (.braidCommit c.id 1) s = .next (registerBraid s c) := by
  simp [exec, execBraidCommit, hc, hu]

/-- The tables of a set-up block that can be read become the context's; the shards of other contexts stay. -/
theorem registerBraid_of_ok (hb : ctxRead s c c.rings.braidTab.toNat 40 = .ok bs) : ∃ tab served,
    tab.rank = byteField bs 0 4 ∧ tab.ranks = byteField bs 4 4 ∧ registerBraid s c =
      { s.mapCtx c.id (fun x => { x with braid := some tab }) with
        fabric := { s.fabric with shards := (s.fabric.shards.filter fun n => n.ctx ≠ c.id) ++ served } } := by
  unfold registerBraid
  simp only [hb]
  exact ⟨_, _, rfl, rfl, rfl⟩

/-- What the commit of readable tables leaves. -/
theorem braidCommit_registers (hc : s.ctx? c.id = some c) (hu : s.unprotected c.id = false)
    (hb : ctxRead s c c.rings.braidTab.toNat 40 = .ok bs) : ∃ t x b, exec (.braidCommit c.id 1) s = .next t ∧ t.cur = s.cur ∧
      t.mem = s.mem ∧ t.ctx? c.id = some x ∧ x.braid = some b ∧ b.rank = byteField bs 0 4 ∧ b.ranks = byteField bs 4 4 ∧
      x.launches = c.launches ∧ x.resend = c.resend ∧ ∀ n ∈ s.fabric.shards, n.ctx ≠ c.id → n ∈ t.fabric.shards := by
  obtain ⟨tab, served, hrank, hranks, he⟩ := registerBraid_of_ok hb
  have hx : (s.mapCtx c.id fun x => { x with braid := some tab }).ctx? c.id = some { c with braid := some tab } :=
    ctx?_mapCtx hc fun _ => rfl
  refine ⟨_, _, tab, (exec_braidCommit hc hu).trans (congrArg _ he), rfl, rfl, hx, rfl, hrank, hranks, rfl, rfl, fun n hn hne => ?_⟩
  exact List.mem_append_left _ (List.mem_filter.mpr ⟨hn, decide_eq_true hne⟩)
end

/-! ### The statement -/

/-- Settles O57: the registers by what each does with a written word, the links by the trained and the failed case, transfers by the
order of a descriptor's checks, and the tables by what the commit register registers. -/
theorem host : Obligations.Host := by
  unfold Obligations.Host
  refine ⟨fun s c hc => ⟨?unprotected, ?reads, fun hu => ⟨?doorbells, fun v => ?writes⟩⟩, ?links, ?transfers, ?commit⟩
  case unprotected => exact fun hu tail off v i hi => exec_unprotected hu hi
  case reads =>
    intro off v hv hu
    rw [hostOp_readRegister hc hu, readVfRegister_of_mem hv]
    rfl
  case doorbells =>
    refine fun tail => ⟨fun h => ?_, fun h => ?_, fun h => ?_, fun h => ?_⟩
    · exact setsRings_of_hostRings hc hu (exec_cqDoorbell ..) (if_neg (Nat.not_le.mpr h))
    · exact setsRings_of_hostRings hc hu (exec_cqDoorbell ..) (if_pos h)
    · exact setsRings_of_hostRings hc hu (exec_xferDoorbell ..) (if_neg (Nat.not_le.mpr h))
    · exact setsRings_of_hostRings hc hu (exec_xferDoorbell ..) (if_pos h)
  case writes =>
    have writes {off r'} (h : writeVfRegister off v c.rings = r') := setsRings_vfRegisterWrite hc hu h
    have size := ringSizeOk_iff (v.toNat % 2 ^ 32)
    refine ⟨fun he hp => writes ?_, fun h => writes ?_, fun he hn => writes ?_, fun h => writes ?_, writes ?_, fun he hn => writes ?_,
      fun h => writes ?_, writes ?_, writes ?_, fun he hp => writes ?_, fun h => writes ?_, fun he hn => writes ?_, fun h => writes ?_,
      fun off ho => writes ?_⟩
    · exact (writeVfRegister_cqBase ..).trans (if_pos ⟨he, hp⟩)
    · exact (writeVfRegister_cqBase ..).trans (if_neg fun k => h.elim (· k.1) (· k.2))
    · exact (writeVfRegister_cqSize ..).trans (if_pos ⟨he, size.mpr hn⟩)
    · exact (writeVfRegister_cqSize ..).trans (if_neg fun k => h.elim (· k.1) (· (size.mp k.2)))
    · exact writeVfRegister_evBase ..
    · exact (writeVfRegister_evSize ..).trans (if_pos ⟨he, size.mpr hn⟩)
    · exact (writeVfRegister_evSize ..).trans (if_neg fun k => h.elim (· k.1) (· (size.mp k.2)))
    · exact writeVfRegister_evHead ..
    · exact writeVfRegister_braidTab ..
    · exact (writeVfRegister_xfBase ..).trans (if_pos ⟨he, hp⟩)
    · exact (writeVfRegister_xfBase ..).trans (if_neg fun k => h.elim (· k.1) (· k.2))
    · exact (writeVfRegister_xfSize ..).trans (if_pos ⟨he, size.mpr hn⟩)
    · exact (writeVfRegister_xfSize ..).trans (if_neg fun k => h.elim (· k.1) (· (size.mp k.2)))
    · exact writeVfRegister_other v c.rings ho
  case links =>
    refine fun s link gen width => ⟨exec_pcieLinkTrain_none, fun hl => ?_⟩
    by_cases h : gen < 5 ∨ width < 4
    · obtain ⟨t, he, hcur, hparked, hlinks, hdown⟩ := pcieLinkTrain_fails (s := s) hl h
      exact ⟨t, he, hcur, hparked, hlinks, fun hg hw => absurd h (by omega), fun _ => hdown⟩
    · obtain ⟨t, he, hcur, hparked, hlinks, hup⟩ := pcieLinkTrain_trains (s := s) hl (Nat.not_lt.mp fun k => h (.inl k))
        (Nat.not_lt.mp fun k => h (.inr k))
      exact ⟨t, he, hcur, hparked, hlinks, fun _ _ => hup, fun k => absurd k h⟩
  case transfers =>
    refine fun s c ok hc => ⟨exec_transferDescriptor_none hc, fun bs hn => ⟨exec_transferDescriptor_misaligned hc hn, fun hcpl => ?_⟩⟩
    have ends {t st} (hp : performTransfer s c bs ok = (t, st)) := exec_transferDescriptor hc hn hcpl hp
    refine ⟨fun h => ends (performTransfer_bad h), fun h4 hlo hhi => ⟨fun hd => ?toHost, fun hd => ?fromHost⟩⟩
    case toHost =>
      have good : ¬ BadTransfer bs := by unfold BadTransfer; omega
      have ha : transferAccess bs = .read := if_pos hd
      refine ⟨fun e he => ends (performTransfer_fault good (ha ▸ he)), fun rs hr => ⟨fun hok => ?_, fun hok => ?_⟩⟩
      · exact ends (hok ▸ performTransfer_refused good (ha ▸ hr))
      · obtain ⟨m, hm, hp⟩ := performTransfer_toHost good hd hr
        exact ⟨m, hm, ends (hok ▸ hp)⟩
    case fromHost =>
      have good : ¬ BadTransfer bs := by unfold BadTransfer; omega
      have ha : transferAccess bs = .write := if_neg (by omega)
      refine ⟨fun e he => ends (performTransfer_fault good (ha ▸ he)), fun rs hr => ⟨fun hok => ?_, fun hok => ?_⟩⟩
      · exact ends (hok ▸ performTransfer_refused good (ha ▸ hr))
      · exact ends (hok ▸ performTransfer_fromHost good hd hr)
  case commit =>
    refine fun s c v hc => ⟨exec_braidCommit_ignored hc, ?_⟩
    rintro rfl hu bs hb
    exact braidCommit_registers hc hu hb

end Sys2Proof.Machine
end
